-- ==== Sys2Proof/Word.lean ====
section
/-! DEFINITION. The words of the SKR-7316: registers are 32 bits (R12), record times, TB and the frame
number 64 bits (R5, R29), records 128 bits (R8), angles 32 bits modulo 2^32 (R4). -/
namespace Sys2Proof

/-- One register word. -/
abbrev Word := BitVec 32
/-- A record time, TB, a frame number, a 64-bit register value. -/
abbrev W64 := BitVec 64
/-- A record, an inkwell word or a quill register. -/
abbrev W128 := BitVec 128
/-- One byte. -/
abbrev Byte := BitVec 8

/-- R6: `a` precedes `b` when `b - a`, read as two's complement in its own width, is positive. -/
def precedes {w : Nat} (a b : BitVec w) : Bool := 0 < (b - a).toInt

/-- `a` does not come after `b` in the order of R6. -/
def notAfter {w : Nat} (a b : BitVec w) : Bool := a == b || precedes a b

end Sys2Proof
end

