-- ==== Sys2Proof/Syntax.lean ====
section
/-! DEFINITION. The commands of the SKR-7316: one constructor of `Instr` for each row of the command table,
with the row's operands. What the device's own clock brings about and what reaches it from outside are both
commands; a command that carries no operand beyond an index acts on what the state says is due. -/
namespace Sys2Proof

/-- The access paths of R59: PCIe, the service port and the scribe. -/
inductive Path | pcie | sp | scribe
  deriving DecidableEq, Repr

/-- The two ALU slots of a microword (R212). -/
inductive AluSlot | a | b
  deriving DecidableEq, Repr

/-- The outcome of comparing the three streams of a vote (R408). -/
inductive Vote | active | proofreader | none
  deriving DecidableEq, Repr

/-- How the request of a DMA channel fails (R349): the cause code and what is known of the address. -/
structure BusError where
  cause : Nat
  addr : W64
  info : Nat
  deriving DecidableEq, Repr

abbrev QuillIx := Fin 16
abbrev PhysIx := Fin 20
abbrev NibIx := Fin 256
abbrev LinkIx := Fin 64
abbrev StreamIx := Fin 8
abbrev TrackIx := Fin 16
abbrev FbIx := Fin 16
abbrev AcIx := Fin 32
abbrev CeIx := Fin 512
abbrev DmaIx := Fin 32
abbrev RingIx := Fin 8
abbrev InkIx := Fin 64
abbrev SrcIx := Fin 1024
abbrev ClassIx := Fin 32
abbrev UnitIx := Fin 4096
abbrev SlotIx := Fin 16

/-- One command of the block: the rows with operands in the order of the table, then those without. -/
inductive Instr where
  | close (mismatched : List QuillIx) (votes : List (QuillIx × Vote))
  | budgetExpiry (q : QuillIx)
  | resultWriteback (q : QuillIx)
  | seqNext (q : QuillIx)
  | seqJmp (q : QuillIx)
  | seqJt (q : QuillIx)
  | seqJf (q : QuillIx)
  | seqCall (q : QuillIx)
  | seqCallt (q : QuillIx)
  | seqRet (q : QuillIx)
  | seqRett (q : QuillIx)
  | seqLoop0 (q : QuillIx)
  | seqLoop1 (q : QuillIx)
  | seqDispatch (q : QuillIx)
  | seqYield (q : QuillIx)
  | seqYieldt (q : QuillIx)
  | seqLdlc (q : QuillIx)
  | seqLdlcr (q : QuillIx)
  | seqBreak (q : QuillIx)
  | aluMov (q : QuillIx) (x : AluSlot)
  | aluAdd (q : QuillIx) (x : AluSlot)
  | aluSub (q : QuillIx) (x : AluSlot)
  | aluNeg (q : QuillIx) (x : AluSlot)
  | aluAbs (q : QuillIx) (x : AluSlot)
  | aluAdds (q : QuillIx) (x : AluSlot)
  | aluSubs (q : QuillIx) (x : AluSlot)
  | aluAnd (q : QuillIx) (x : AluSlot)
  | aluOr (q : QuillIx) (x : AluSlot)
  | aluXor (q : QuillIx) (x : AluSlot)
  | aluAndn (q : QuillIx) (x : AluSlot)
  | aluNot (q : QuillIx) (x : AluSlot)
  | aluMin (q : QuillIx) (x : AluSlot)
  | aluMax (q : QuillIx) (x : AluSlot)
  | aluMinu (q : QuillIx) (x : AluSlot)
  | aluMaxu (q : QuillIx) (x : AluSlot)
  | aluShl (q : QuillIx) (x : AluSlot)
  | aluShr (q : QuillIx) (x : AluSlot)
  | aluSar (q : QuillIx) (x : AluSlot)
  | aluRol (q : QuillIx) (x : AluSlot)
  | aluRor (q : QuillIx) (x : AluSlot)
  | aluCmp (q : QuillIx) (x : AluSlot)
  | aluTst (q : QuillIx) (x : AluSlot)
  | aluClz (q : QuillIx) (x : AluSlot)
  | aluPopc (q : QuillIx) (x : AluSlot)
  | aluBfx (q : QuillIx) (x : AluSlot)
  | aluBfi (q : QuillIx) (x : AluSlot)
  | aluZext (q : QuillIx) (x : AluSlot)
  | aluSext (q : QuillIx) (x : AluSlot)
  | aluSplat (q : QuillIx) (x : AluSlot)
  | aluLrot (q : QuillIx) (x : AluSlot)
  | mulU (q : QuillIx)
  | mulS (q : QuillIx)
  | mul2u (q : QuillIx)
  | mul2s (q : QuillIx)
  | mulQs (q : QuillIx)
  | divU (q : QuillIx)
  | divS (q : QuillIx)
  | divUf (q : QuillIx)
  | inkRd (q : QuillIx)
  | inkRdx (q : QuillIx)
  | inkWr (q : QuillIx)
  | inkWrx (q : QuillIx)
  | inkWrb (q : QuillIx)
  | evpPop (q : QuillIx)
  | evpPeek (q : QuillIx)
  | evpCount (q : QuillIx)
  | evpPred (q : QuillIx)
  | cmtStroke (q : QuillIx)
  | cmtRegw (q : QuillIx)
  | cmtVpos (q : QuillIx)
  | cmtVdyn (q : QuillIx)
  | cmtSignal (q : QuillIx)
  | ucodeScrub (p : PhysIx) (w : Fin 8192)
  | strokeNop (q : QuillIx) (r : W128)
  | strokeSet (n : NibIx) (k : SlotIx)
  | strokeClear (n : NibIx) (k : SlotIx)
  | strokeToggle (n : NibIx) (k : SlotIx)
  | strokeFloat (n : NibIx) (k : SlotIx)
  | strokePulse (n : NibIx) (k : SlotIx)
  | strokePulseLow (n : NibIx) (k : SlotIx)
  | strokePulseAngle (n : NibIx) (k : SlotIx)
  | strokeBurst (n : NibIx) (k : SlotIx)
  | strokePwmLoad (n : NibIx) (k : SlotIx)
  | strokePatternStart (n : NibIx) (k : SlotIx)
  | strokePatternStop (n : NibIx) (k : SlotIx)
  | strokeCaptureArm (n : NibIx) (k : SlotIx)
  | strokeReflexArm (n : NibIx) (k : SlotIx)
  | strokeSafe (n : NibIx) (k : SlotIx)
  | strokeCancel (q : QuillIx) (r : W128)
  | pulseEndEdge (n : NibIx) (k : SlotIx)
  | burstEdge (n : NibIx) (k : SlotIx)
  | patternBit (n : NibIx)
  | nibCtrlWrite (p : Path) (n : NibIx) (v : Word)
  | vernFail (n : NibIx) (second : Bool)
  | tdcFail (n : NibIx)
  | nibCellMove (n : NibIx)
  | reflexCause (l : LinkIx)
  | reflexPulseEnd (l : LinkIx)
  | reflexArm (p : Path) (l : LinkIx)
  | nibInputTransition (n : NibIx) (level : Bool) (f : Fin 8)
  | glitchFilterAccept (n : NibIx)
  | windowExpiry (n : NibIx)
  | winEmpty (n : NibIx)
  | freqGateEnd (n : NibIx)
  | cap0Read (p : Path) (n : NibIx)
  | csCtrlWrite (p : Path) (g : StreamIx) (v : Word)
  | toothProcessed (t : TrackIx)
  | microTick (t : TrackIx)
  | missDeadline (t : TrackIx)
  | stallTimeout (t : TrackIx)
  | countingTimeout (t : TrackIx)
  | trackerEnable (p : Path) (t : TrackIx) (v : Word)
  | trackerResync (p : Path) (t : TrackIx)
  | trackerApply (p : Path) (t : TrackIx)
  | learnCtrlWrite (p : Path) (t : TrackIx) (v : Word)
  | tmapFlagsAccess (p : Path) (t : TrackIx) (v : Option Word)
  | fbChangeAccepted (b : FbIx) (la lb lz : Bool)
  | ssiFrameComplete (b : FbIx) (bits delay : Nat)
  | ssiDelayTimeout (b : FbIx)
  | fbStill (b : FbIx)
  | idxArm (p : Path) (b : FbIx)
  | emuEdge (b : FbIx)
  | comparatorChange (c : AcIx) (uv : Int) (f : Fin 8)
  | comparatorSample (c : AcIx) (uv : Int)
  | comparatorSettled (c : AcIx) (uv : Int)
  | thrWrite (p : Path) (c : AcIx) (v : Word)
  | blankEnd (c : AcIx) (uv : Int)
  | adcConversion (result : Fin 4096)
  | adcArbitration (result : Fin 4096)
  | ceCompareMatch (e : CeIx) (k : Fin 4)
  | cePeriodEnd (e : CeIx)
  | ceCtrlWrite (p : Path) (e : CeIx) (v : Word)
  | ceWinWrite (p : Path) (e : CeIx) (v : Word)
  | ceCountWrite (p : Path) (e : CeIx) (v : Word)
  | trimWrite (p : Path) (v : Word)
  | ppsStampRead (p : Path)
  | syncCtrlWrite (p : Path) (v : Word)
  | syncFrameReceived (charsOk : Bool) (data : BitVec 72) (phase : Int)
  | rlLowRead (p : Path) (addr : Word)
  | rcRead (p : Path) (addr : Word)
  | wideLowWrite (p : Path) (addr : Word) (v : Word)
  | wideHighWrite (p : Path) (addr : Word) (v : Word)
  | registerWrite (p : Path) (addr : Word) (v : Word)
  | unitEnable (p : Path) (u : UnitIx) (on : Bool)
  | unitSafeSet (p : Path) (u : UnitIx)
  | unitSafeRelease (p : Path) (u : UnitIx)
  | glyphApply (p : Path) (u : UnitIx)
  | mbxWrite (p : Path) (q : QuillIx) (reg : Fin 17) (v : Word)
  | quillMigrationCopyDone (q : QuillIx)
  | cmdTail (p : Path) (v : Word)
  | commandFetch (entry : BitVec 512)
  | mailboxGo (p : Path)
  | rspCons (p : Path) (v : Word)
  | ringCtrlWrite (p : Path) (rsp : Bool) (v : Word)
  | cmdLoadFolio (image : List Byte)
  | cmdVerifyFolio (image : List Byte)
  | cmdStageLeaf (image : List Byte)
  | cmdLoadPatch (image : List Byte)
  | cmdKeyEnroll (key : BitVec 512)
  | bar4Read (p : Path) (addr : Word) (len : Nat)
  | bar4Write (p : Path) (addr : Word) (data : List (Option Byte))
  | handoverRequest (p : Path) (b : InkIx) (v : Word)
  | sliceTestDone (pass : Bool)
  | destroyingTestDone (pass : Bool)
  | dmaDoorbell (p : Path) (c : DmaIx)
  | descriptorFetched (c : DmaIx) (d : BitVec 256)
  | dmaReadCompletion (c : DmaIx) (data : List Byte)
  | streamRecordArrival (g : StreamIx)
  | dmaFlushDone (c : DmaIx)
  | nextReadReturn (c : DmaIx) (next : W64)
  | tailPoll (c : DmaIx)
  | cqConsWrite (p : Path) (k : RingIx) (v : Word)
  | cqBaseWrite (p : Path) (k : RingIx) (v : Word)
  | dmaBusError (c : DmaIx) (e : BusError)
  | dmaResume (p : Path) (c : DmaIx)
  | dmaSkip (p : Path) (c : DmaIx)
  | dmaAbort (p : Path) (c : DmaIx)
  | dmaHeadWrite (p : Path) (c : DmaIx) (v : Word)
  | eicArrival (x : SrcIx)
  | levelInputFall (x : SrcIx)
  | eicClaim (p : Path) (k : Fin 9) (fast : Bool)
  | eicComplete (p : Path) (k : Fin 9) (fast : Bool) (v : Word)
  | srcPendingWrite (p : Path) (x : SrcIx)
  | srcCfgWrite (p : Path) (x : SrcIx) (v : Word)
  | grpCfgWrite (p : Path) (g : Fin 64) (v : Word)
  | groupTimerExpiry (g : Fin 64)
  | fallbackTimer (x : SrcIx)
  | targetAwake (p : Path) (v : Word)
  | quietTimerExpiry (c : ClassIx)
  | blotterAck (p : Path) (v : Word)
  | ceTakeover (e : CeIx)
  | bootStageDone (report : Option (List (Nat × Nat)))
  | thermalLimit (above : Bool)
  | perstN (low : Bool)
  | lpcmpWake (uv : Int)
  | keepDataAccess (p : Path) (v : Option Word)
  | linkTraining (link sizes : Fin 8 × Fin 8)
  | bar0AccessError (addr : Word) (write : Bool) (dws : Nat)
  | spWrite (addr : Word) (v : Word)
  | spRead (addr : Word)
  | spQwrite (addr : Word) (v : Word)
  | spQread (addr : Word)
  | jtagQsel (v : BitVec 4)
  | qbrk (on : Bool)
  | dmaBeat (c : DmaIx)
  | msixUnmask (v : Option (Fin 16))
  | vbatOkChange (ok : Bool)
  | vioChange (bank : Nat) (up : Bool)
  | lfOkChange (ok : Bool)
  | vernierCalibration (n : NibIx)
  | pwmEdge (n : NibIx)
  | fbCtrlWrite (p : Path) (b : FbIx) (v : Word)
  | acCtrlWrite (p : Path) (c : AcIx) (v : Word)
  | emuCtrlWrite (p : Path) (b : FbIx) (v : Word)
  | inCtrlWrite (p : Path) (n : NibIx) (v : Word)
  | rlCtrlWrite (p : Path) (l : LinkIx) (v : Word)
  | adcCtrlWrite (p : Path) (v : Word)
  | routeWrite (p : Path) (n : NibIx) (v : Word)
  | tick
  | safeNAssert
  | safeNRelease
  | coarseStep
  | fineResume
  | syncHoldoverEntry
  | syncLock
  | cmdIdentify
  | cmdGetHealth
  | cmdStart
  | startTick
  | cmdStopToSafe
  | cmdChangeover
  | changeoverTick
  | triggerExpiry
  | carryCopyDone
  | cmdDiscardStaged
  | cmdReadUnitDir
  | cmdMarchDestroy
  | cmdMarchSetCtrl
  | cmdRepairStatus
  | cmdRetireResource
  | cmdInjectFault
  | cmdAckFault
  | cmdPatchStatus
  | cmdTbSet
  | tbSetApply
  | cmdTbTrim
  | tbTrimFinal
  | cmdSleep
  | cmdStandby
  | cmdAbort
  | cmdSnapshot
  | scribeRestart
  | scribeLockstepMismatch
  | scribeWdog
  | marchSliceStart
  | sliceCopyDone
  | sliceRestoreDone
  | migrationCopyDone
  | injectionDone
  | pllSwap
  | referenceLost
  | referenceReturn
  | porstNRelease
  | brownOut
  | islandPowerOn
  | thermalTrip
  | trstN
  | wake
  | d3hotEntry
  | spFetch
  | spQfetch
  | jtagExtest
  | jtagIdcode
  | jtagSamplePreload
  | jtagHighz
  | jtagClamp
  | jtagBypass
  | qhalt
  | qstep
  | qresume
  | dhalt
  | dresume
  | d0Entry
  | pcieLinkDown
  | porstNAssert
  | brownOutEnd
  | thermalTripEnd
  | servicePortAccessDone
  | pwrenLowTimeEnd
  deriving DecidableEq, Repr

end Sys2Proof
end

