-- ==== Sys2Proof/Decode.lean ====
section
/-! DEFINITION. The command that a word spells. The command table gives no row any bits: commands reach this block as
accesses, events and the ticks of its own clock, never as words. -/
namespace Sys2Proof

/-- No row of the command table has bits, so no word spells a command. DESIGN CHOICE (log entry 8). -/
def decodeTableWord (_nbits _w : Nat) : Option Instr := none

end Sys2Proof
end

