-- ==== Sys2Proof/Config.lean ====
section
/-! DEFINITION. What one part or one implementation fixes and the manual leaves open: opaque constants, of which
nothing can be proved, so that a claim holds whatever they are. -/
namespace Sys2Proof.Config

/-- R236 gives one word several causes to stop and no order among them: which of the causes is recorded. -/
opaque stopChoice : Nat → Nat

/-- R74 does not say how RATE and ACCEL are rounded to Q32.32: up, or down. -/
opaque rateUp : Nat → Bool

/-- R325 gives the SEC-DED code of an inkwell word only by its size: the syndrome that check bit 0 inverted
(the injected pattern of R414) shows in ECC_ADDR. -/
opaque injectedSyndrome : BitVec 9

/-- R135 does not say which whole nanosecond an edge goes to when both verniers have failed: the later, or the earlier. -/
opaque placeUp : Nat → Bool

/-- R236, R238, R325, R393: an error that comes of itself: in a physical word of the inkwells, one that can be corrected
or not, with its syndrome; in a register of a quill; in a word of a microcode store; in the fixed register blocks of BAR0
(source 4); on an internal bus of R414 (source 5). -/
inductive Upset
  | inkwell (word : Nat) (single : Bool) (syndrome : BitVec 9)
  | register (quill reg : Nat)
  | store (phys word : Nat) (flips : BitVec 176)
  | regBlock
  | bus (inst : Nat)
  deriving DecidableEq, Repr

/-- No rule says when stored bits come to hold an error: the error, if any, of a core cycle. -/
opaque upset : Nat → BitVec 64 → Option Upset

/-- R438: whether the CRC of the keepsake fails at a start. -/
opaque keepsakeFails : Nat → Bool

/-- R372: whether the island's image of the EIC fails its check at a wake; by the drawings so far and by TB. -/
opaque eicImageFails : Nat → BitVec 64 → Bool

/-- R148: whether a level held between 1 ns and 2 ns, from this record time on, is seen. -/
opaque seesBrief : Nat → Bool

/-- R184 states no SPEED for counts of equal record time, nor for one beyond 32 bits. -/
opaque freeSpeed : Nat → Word

/-- R194: the nominal comparator delay, in eighths. -/
opaque comparatorDelay : BitVec 64

/-- R201: ADC.TEMP of a conversion of input 9. -/
opaque dieTemperature : BitVec 12 → Word

/-- R47 gives no law for the correction, in ppb, by which the sync link steers a follower's clock. -/
opaque steering : Nat → Word

/-- R383: how many words a failed destroying test reports. -/
opaque failedWords : Nat → BitVec 64

/-- R472: DEVICE_UID of the part. -/
opaque deviceUid : BitVec 64

/-- R457, R472: the stepping, as the version of the IDCODE gives it. DEDUCED (log entry 7). -/
def stepping : BitVec 4 := 1

/-- R390: the ROM version of the firmware. -/
opaque romVersion : BitVec 16

/-- R435: the words of the keepsake that a STANDBY reads from host memory; the command carries only their address. -/
opaque hostWord : Nat → Word

/-- R386: the hash of Ilyon's key in the fuses. -/
opaque ilyonKeyHash : BitVec 256

/-- R429 gives stages 5 and 6 of a start no error code of their own. -/
opaque bootError : BitVec 4 → BitVec 8

/-- R439: how far the threshold of the low-power comparator lies from its nominal value, in microvolts; the model
uses it within the 30 mV that the rule allows. -/
opaque lpcmpOffset : Int

/-- R448: the width that the board's fuses are programmed for, and whether its lanes are reversed. -/
opaque boardWidth : Nat
opaque lanesReversed : Bool

/-- R451: whether the host has enabled ASPM L1 in configuration space. -/
opaque aspmL1 : Bool

end Sys2Proof.Config
end

