-- ==== Sys2Proof/Machine/Bits.lean ====
section
/-! DEFINITION. Bit fields, saturating counters, byte order (R7, R8) and the sparse lists in which the
model keeps large stores. -/
namespace Sys2Proof.Machine

/-- Bits [hi:lo] of a word, as a number (R7). -/
def fld {w : Nat} (x : BitVec w) (hi lo : Nat) : Nat := x.toNat / 2 ^ lo % 2 ^ (hi + 1 - lo)

/-- Bits [hi:lo] of a word, read as two's complement. -/
def sfld {w : Nat} (x : BitVec w) (hi lo : Nat) : Int :=
  (BitVec.ofNat (hi + 1 - lo) (fld x hi lo)).toInt

/-- Bit `i` of a word. -/
def tst {w : Nat} (x : BitVec w) (i : Nat) : Bool := x.getLsbD i

/-- A one at every bit of [hi:lo]. -/
def ones {w : Nat} (hi lo : Nat) : BitVec w := BitVec.ofNat w ((2 ^ (hi + 1 - lo) - 1) * 2 ^ lo)

/-- `x` with bits [hi:lo] replaced by the low bits of `v`. -/
def setFld {w : Nat} (x : BitVec w) (hi lo v : Nat) : BitVec w :=
  (x &&& ~~~(ones hi lo)) ||| BitVec.ofNat w (v % 2 ^ (hi + 1 - lo) * 2 ^ lo)

/-- `x` with bit `i` set to `b`. -/
def setBit {w : Nat} (x : BitVec w) (i : Nat) (b : Bool) : BitVec w := setFld x i i (cond b 1 0)

/-- One bit as a number. -/
def b2n (b : Bool) : Nat := cond b 1 0

/-- One bit placed at position `i` of a register being read. -/
def bitAt (i : Nat) (b : Bool) : Word := BitVec.ofNat 32 (b2n b * 2 ^ i)

/-- A number placed at bit `lo` of a register being read. -/
def at_ (lo v : Nat) : Word := BitVec.ofNat 32 (v * 2 ^ lo)

/-- Counters that saturate stay at their maximum (R29). -/
def satAdd {w : Nat} (x : BitVec w) (n : Nat) : BitVec w :=
  if x.toNat + n < 2 ^ w then BitVec.ofNat w (x.toNat + n) else BitVec.ofNat w (2 ^ w - 1)

/-- Write-1-to-clear (R9). -/
def w1c {w : Nat} (x v : BitVec w) : BitVec w := x &&& ~~~v

/-- The low and the high word of a 64-bit value. -/
def lo32 (x : W64) : Word := x.truncate 32
def hi32 (x : W64) : Word := (x >>> 32).truncate 32
/-- A 64-bit value of its two words, low word first (R12). -/
def cat64 (hi lo : Word) : W64 := (hi ++ lo : BitVec 64)

/-- 32-bit word `i` of a record (R8). -/
def word32 {w : Nat} (x : BitVec w) (i : Nat) : Word := BitVec.ofNat 32 (fld x (32 * i + 31) (32 * i))
/-- 64-bit word `i` of a record (R8). -/
def word64 {w : Nat} (x : BitVec w) (i : Nat) : W64 := BitVec.ofNat 64 (fld x (64 * i + 63) (64 * i))
/-- Byte `i` of a value (R8). -/
def byteOf {w : Nat} (x : BitVec w) (i : Nat) : Byte := BitVec.ofNat 8 (fld x (8 * i + 7) (8 * i))

/-- A little-endian value of bytes in address order (R8). -/
def leNat : List Byte → Nat
  | [] => 0
  | b :: bs => b.toNat + 256 * leNat bs

/-- The low `n` bytes of a value in address order (R8). -/
def leBytes (n v : Nat) : List Byte := (List.range n).map fun i => BitVec.ofNat 8 (v / 256 ^ i)

/-- Record fields laid out low field first: each pair is a width and a value. -/
def packFields : List (Nat × Nat) → Nat
  | [] => 0
  | (w, v) :: fs => v % 2 ^ w + 2 ^ w * packFields fs

/-- A bank's element, by number; the number is in range wherever the model calls this. -/
def modifyAt {α : Type} {n : Nat} (v : Vector α n) (i : Fin n) (f : α → α) : Vector α n :=
  v.set i (f v[i])

/-! Sparse lists: pairs (key, value), keys strictly rising, no value equal to what an unlisted key reads as. -/

/-- The value at a key; an unlisted key reads as `d`. -/
def sparseGet {α : Type} (d : α) : List (Nat × α) → Nat → α
  | [], _ => d
  | (k, v) :: m, a => if a = k then v else if a < k then d else sparseGet d m a

/-- The list with the value at a key replaced, in the canonical form. -/
def sparsePut {α : Type} [DecidableEq α] (d : α) : List (Nat × α) → Nat → α → List (Nat × α)
  | [], a, x => if x = d then [] else [(a, x)]
  | (k, v) :: m, a, x =>
    if a < k then (if x = d then (k, v) :: m else (a, x) :: (k, v) :: m)
    else if a = k then (if x = d then m else (a, x) :: m)
    else (k, v) :: sparsePut d m a x

/-- The canonical form: keys at least `lo`, strictly rising, no default value listed. -/
def sparseWfFrom {α : Type} [DecidableEq α] (d : α) : Nat → List (Nat × α) → Bool
  | _, [] => true
  | lo, (k, v) :: m => decide (lo ≤ k) && decide (v ≠ d) && sparseWfFrom d (k + 1) m

/-- The canonical form of a sparse list. -/
def sparseWf {α : Type} [DecidableEq α] (d : α) (m : List (Nat × α)) : Bool := sparseWfFrom d 0 m

end Sys2Proof.Machine
end

