-- ==== Sys2Proof/Machine/DmaTypes.lean ====
section
/-! DEFINITION. The state of the DMA engine: channels, completion rings and device-wide registers (chapter 13). -/
namespace Sys2Proof.Machine

/-- R357: CHn.STATUS.STATE. -/
inductive DmaState | idle | fetch | run | streamWait | flush | cqWait | tailWait | halted
  deriving DecidableEq, Repr

/-- R357: the STATE code. -/
def DmaState.code : DmaState → Nat
  | .idle => 0 | .fetch => 1 | .run => 2 | .streamWait => 3 | .flush => 4 | .cqWait => 5 | .tailWait => 6
  | .halted => 7

/-- R336: a descriptor as fetched, with its address. -/
structure Descriptor where
  addr : W64
  src : W64
  dst : W64
  len : Nat
  ctrl : Word
  next : W64
  deriving DecidableEq, Repr

/-- R344: the status of a completion record. -/
inductive DmaStatus | complete | aborted | skipped | invalid | denied | repeated
  deriving DecidableEq, Repr

/-- R344. -/
def DmaStatus.code : DmaStatus → Nat
  | .complete => 0 | .aborted => 1 | .skipped => 2 | .invalid => 3 | .denied => 4 | .repeated => 5

/-- What a channel does once its record is issued. -/
inductive AfterRecord | next | idle
  deriving DecidableEq, Repr

/-- A completion record on its way to its ring (R343, R345). -/
structure DmaRecord where
  ring : RingIx
  status : DmaStatus
  count : Nat
  after : AfterRecord
  deriving DecidableEq, Repr

/-- A DMA channel (R347 to R351, R356, R357). -/
structure DmaChan where
  ctrl : BitVec 4 := 0
  state : DmaState := .idle
  dbPending : Bool := false
  abortResult : BitVec 2 := 0
  invalidFlag : Bool := false
  deniedFlag : Bool := false
  lastStatus : Byte := 0
  head : W64 := 0
  cur : W64 := 0
  seq : Word := 0
  errAddr : W64 := 0
  errInfo : Word := 0
  done : Word := 0
  bytes : W64 := 0
  /-- The descriptor in hand. -/
  desc : Option Descriptor := none
  /-- The address of the descriptor whose fetch is under way; its word 3 is read again while `askNext` is 1. -/
  askNext : Bool := false
  /-- Bytes of the source read so far, those of the destination written so far, and what lies between. -/
  fetched : Nat := 0
  written : Nat := 0
  buffer : List Byte := []
  /-- R340: the capture records that the descriptor holds, and the stream that holds them for it. -/
  taken : Nat := 0
  holds : Option StreamIx := none
  /-- R350: the descriptor is being repeated after a RESUME. -/
  repeated : Bool := false
  /-- R341: an access of the descriptor was denied. -/
  denied : Bool := false
  /-- The record that waits for room or for a RESUME. -/
  record : Option DmaRecord := none
  /-- TB at which the last record was issued (R351, R353). -/
  recordAt : Option W64 := none
  /-- ns of TB since the last re-read of NEXT in TAIL_WAIT. -/
  pollNs : Nat := 0
  /-- TB at which a poll interval last caused a read of NEXT (R353). -/
  polledAt : Option W64 := none
  /-- R351: the unit that bound the channel has left; reset once its record is issued. -/
  leaving : Bool := false
  deriving DecidableEq, Repr

/-- A completion ring (R345). -/
structure CqRing where
  base : W64 := 0
  ie : Bool := false
  sizeLog2 : BitVec 4 := 0
  prod : BitVec 16 := 0
  cons : BitVec 16 := 0
  phase : Bool := true
  sticky : Bool := false
  deriving DecidableEq, Repr

/-- The DMA engine (R342, R354, R355). -/
structure DmaSt where
  chans : Vector DmaChan 32
  rings : Vector CqRing 8
  consErr : Bool := false
  tailPoll : Word := 0x64
  evtStatus : Word := 0
  evtEnable : Word := 0
  /-- R342: the channel whose turn it is, and the bytes it has moved in its present request. -/
  turn : DmaIx := 0
  turnBytes : Nat := 0
  /-- R323: the next beat has waited for another master. -/
  waited : Bool := false
  deriving DecidableEq, Repr

end Sys2Proof.Machine
end

