-- ==== Sys2Proof/Machine/EicTypes.lean ====
section
/-! DEFINITION. The state of the event interrupt controller (chapter 14), its MSI-X table (chapter 18), and
of the blotter (chapter 16). -/
namespace Sys2Proof.Machine

/-- R361: IDLE, PENDING or ACTIVE. -/
inductive SrcPhase | idle | pending | active
  deriving DecidableEq, Repr

/-- R361, R376: one source. -/
structure EicSource where
  cfg : Word := 0
  phase : SrcPhase := .idle
  held : Bool := false
  swset : Bool := false
  input : Bool := false
  /-- R371: the target the source is offered to under fallback. -/
  fallback : Option (Fin 8) := none
  holder : Fin 9 := 0
  /-- The class under which an ACTIVE source was claimed (R364, R369). -/
  heldFast : Bool := false
  arrivals : BitVec 8 := 0
  /-- R371: ns of TB the fallback timer has counted, while it runs. -/
  timer : Option Nat := none
  deriving DecidableEq, Repr

/-- R366, R376: one coalescing group. -/
structure EicGroup where
  cfg : Word := 1
  count : BitVec 8 := 0
  /-- ns of TB since the first arrival after the previous release. -/
  timer : Option Nat := none
  releases : BitVec 16 := 0
  deriving DecidableEq, Repr

/-- One vector of the MSI-X table (R367, R446). -/
structure MsixVector where
  addrLo : Word := 0
  addrHi : Word := 0
  data : Word := 0
  masked : Bool := true
  pendingBit : Bool := false
  /-- An offer of this ACLK cycle asks for a message (R367). -/
  due : Bool := false
  deriving DecidableEq, Repr

/-- The event interrupt controller. -/
structure Eic where
  lvMode : Bool := false
  restored : Bool := false
  lost : Bool := false
  awake : BitVec 8 := 0xFF
  fallback : Word := 0
  fallbackCount : BitVec 16 := 0
  spurious : BitVec 16 := 0
  withdrawn : BitVec 16 := 0
  irqnCtrl : BitVec 8 := 0
  restores : BitVec 16 := 0
  msiSent : Word := 0
  satCount : BitVec 16 := 0
  sources : Vector EicSource 1024
  groups : Vector EicGroup 64
  /-- R365: the WITHDRAWN flags, bit k the normal class of Tk, bit 9 + k the fast class. -/
  withdrawnFlags : BitVec 18 := 0
  vectors : Vector MsixVector 16
  /-- Causes on their way to edge sources (R360). -/
  causes : List SrcIx := []
  deriving DecidableEq, Repr

/-- R392: a raise on its way into the blotter; `level` is fixed where R409 fixes it. -/
structure Raise where
  source : Nat
  unit : Nat := 0xFFF
  level : Option Nat := none
  deriving DecidableEq, Repr

/-- R399 to R401: one fault class. -/
structure FaultClass where
  level : Nat := 0
  unack : Bool := false
  raises : BitVec 8 := 0
  recoveries : BitVec 16 := 0
  last : Word := 0
  entry : Word := 0
  /-- ns of TB the quiet timer has counted. -/
  quiet : Nat := 0
  /-- The nibs of the scope (R397). -/
  scope : BitVec 256 := 0
  /-- The class entered or changed level during the present ruling (R399). -/
  changed : Bool := false
  /-- R417: raises of one cycle are judged as one: the time of the last raise, the class as it was before that
  cycle, and the highest configured level of the cycle's raises. -/
  lastTb : Option W64 := none
  before : Nat × Bool × Bool := (0, false, false)
  cycleLevel : Nat := 0
  /-- R417: the cycle in which the class was acknowledged, and its UNACK before. -/
  acked : Option (W64 × Bool) := none
  deriving DecidableEq, Repr

/-- R414: the injection. -/
structure Injection where
  checker : Nat := 0
  inst : Nat := 0
  total : BitVec 16 := 0
  remaining : BitVec 16 := 0
  hits : BitVec 16 := 0
  active : Bool := false
  collide : Bool := false
  detected : BitVec 16 := 0
  collided : BitVec 16 := 0
  deriving DecidableEq, Repr

/-- The blotter. -/
structure Blotter where
  ctrl : Word := 0
  quietTime : Word := 0x64
  alivePeriod : Word := 0x3E8
  sticky : BitVec 256 := 0
  levels : Vector (Fin 4) 256
  classes : Vector FaultClass 32
  lastTime : W64 := 0
  lastSrc : Word := 0
  raises : Word := 0
  wdog : BitVec 16 := 0
  wdogExpired : Bool := false
  inj : Injection := {}
  alive : Bool := false
  /-- ns of TB counted since ALIVE last toggled; none before its first toggle (R403). -/
  aliveNs : Option Nat := none
  /-- R400: the classes that a write of ACK acknowledges in the cycle after. -/
  ackNext : BitVec 32 := 0
  /-- R393: parity errors that the next access sees: of each internal bus, and of the fixed register blocks. -/
  busErr : BitVec 6 := 0
  regErr : Bool := false
  /-- Raises not yet judged. -/
  queue : List Raise := []
  deriving DecidableEq, Repr

/-- R393: the default level of a source. -/
def defaultLevel (src : Nat) : Fin 4 :=
  if src ∈ [5, 6, 17] then 2
  else if src = 2 then 3
  else if src ∈ [0, 1, 3, 4, 9, 10, 11, 16, 18, 24, 32, 33, 40, 48, 49, 57, 58, 59] then 1
  else if 128 ≤ src ∧ src % 8 < 4 then 1
  else 0

end Sys2Proof.Machine
end

