-- ==== Sys2Proof/Machine/FbTypes.lean ====
section
/-! DEFINITION. The state of a feedback channel with its encoder emulator (chapter 06), of a comparator and of the
converter (chapter 07). -/
namespace Sys2Proof.Machine

/-- R148, R170: a level that holds: the record time of the transition that began it, and that moment in TB as it counts
now, which a step of TB moves along. -/
structure Held where
  stamp : W64
  since : W64
  deriving DecidableEq, Repr

/-- R170: a change of one line (0 A, 1 B, 2 Z) that has not acted yet. -/
structure FbEdge where
  line : Fin 3
  level : Bool
  held : Held
  deriving DecidableEq, Repr

/-- The encoder emulator of a channel's block (R186 to R188). -/
structure Emulator where
  ctrl : Word := 0
  /-- Effectively enabled (R271). -/
  run : Bool := false
  lines : Word := 1
  ofs : Word := 0
  /-- R187: the offset in force; a write acts at the next tick. -/
  forceOfs : Word := 0
  /-- The count of the last crossing, and the count that the outputs represent. -/
  y : Int := 0
  out : Int := 0
  /-- Crossings whose edges wait: the crossing time, and the count the outputs then move to, step by step. -/
  waiting : List (W64 × Int) := []
  lastEdge : Option W64 := none
  holding : Bool := false
  deriving DecidableEq, Repr

/-- A feedback channel (R169 to R190). -/
structure Feedback where
  ctrl : Word := 0
  run : Bool := false
  /-- R170: the lines as last sampled at the pins A, B and Z, and the changes that wait to act, oldest first. -/
  raw : BitVec 3 := 0
  pend : List FbEdge := []
  /-- The conditioned lines (R170). -/
  a : Bool := false
  b : Bool := false
  z : Bool := false
  dir : Bool := false
  idxArmed : Bool := false
  idxSeen : Bool := false
  still : Bool := false
  ssiFail : Bool := false
  cfgErr : Bool := false
  frameDelta : BitVec 16 := 0
  filt : Word := 0
  pos : W64 := 0
  cntTime : W64 := 0
  period : Word := 0xFFFFFFFF
  idxValue : W64 := 0
  idxPeriod : Word := 0
  idxTol : Word := 0
  idxPos : W64 := 0
  idxErr : Word := 0
  speed : Word := 0
  speedCtrl : Word := 0x0186A004
  speedMax : Word := 0
  ssiCtrl : Word := 0
  ssiTiming : Word := 0
  ssiDelay : Word := 0
  ssiRaw : W64 := 0
  qerr : BitVec 16 := 0
  idxDevs : BitVec 16 := 0
  ssiErrs : BitVec 16 := 0
  emuMoved : BitVec 16 := 0
  evtStatus : Word := 0
  evtEnable : Word := 0
  seq : BitVec 16 := 0
  /-- Net counts since EN, as R184 measures position: an index reset or a write of POS does not move it. -/
  travel : Int := 0
  /-- R184: the last count, the count at which the direction last changed, and the first count after EN. -/
  lastCount : Option (Int × W64) := none
  dirCount : Option (Int × W64) := none
  firstCount : Option (Int × W64) := none
  counts : Nat := 0
  /-- The direction of the last move since EN (R175, R184). -/
  lastBack : Option Bool := none
  /-- TB of the last IDX_ARM write that armed the channel (R178). -/
  idxArmedAt : Option W64 := none
  netCounts : Int := 0
  /-- Snapshots of the last count at past ticks, newest first (R184). -/
  snaps : List (Option (Int × W64)) := []
  overspeed : Bool := false
  /-- Index events since EN (R177). -/
  indexes : Nat := 0
  /-- R179: the edge of a tooth whose width is being measured. -/
  toothEdge : Option W64 := none
  /-- R180: the first falling edge of the frame in progress, and the last rising edge of the last frame. -/
  ssiStart : Option W64 := none
  ssiEnd : Option W64 := none
  /-- R180, R182: the changes of A in the frame in progress, and the first falling one. -/
  ssiEdges : List (W64 × Bool) := []
  ssiFall : Option W64 := none
  ssiPrev : Option Nat := none
  ssiRun : Nat := 0
  /-- R85: positions of the last 512 core cycles, newest first: the record time of the change and the position. -/
  log : List (W64 × W64) := []
  emu : Emulator := {}
  deriving DecidableEq, Repr

/-- R193: the state of a comparator. -/
inductive CompState | below | inside | above
  deriving DecidableEq, Repr

/-- R193. -/
def CompState.code : CompState → Nat | .below => 0 | .inside => 1 | .above => 2

/-- A comparator (R191 to R206). -/
structure Comparator where
  ctrl : Word := 0
  owner : Option QuillIx := none
  run : Bool := false
  thr : Word := 0x03FF0000
  state : CompState := .below
  unresolved : Bool := false
  /-- R197: TB at which the comparator has settled, while it settles. -/
  settle : Option W64 := none
  /-- R198: TB at which the blanking ends. -/
  blank : Option W64 := none
  /-- R195: TB of the last sampled evaluation. -/
  sampledAt : Option W64 := none
  /-- R204: TB of the write that began the blanking, and the thresholds before it. -/
  thrWas : Option (W64 × Word) := none
  thrFault : Bool := false
  cfgErr : Bool := false
  seq : BitVec 16 := 0
  /-- SEQ of the last record. -/
  lastSeq : BitVec 16 := 0
  evtStatus : Word := 0
  evtEnable : Word := 0
  ovr : BitVec 16 := 0
  rbErrs : BitVec 16 := 0
  last : W64 := 0
  /-- R196: 32.768 kHz edges since the last sampled evaluation in coarse running. -/
  coarseEdges : Nat := 0
  deriving DecidableEq, Repr

/-- R201: what a slot of a round converts: an input, the threshold readback, or the reference. -/
inductive AdcSlot | input (i : Fin 16) | readback | reference
  deriving DecidableEq, Repr

/-- R202: what is arbitrated: a threshold (comparator, HI) or the reference, with the main and expected results. -/
structure Arbitration where
  threshold : Option (AcIx × Bool)
  main : Nat
  expected : Nat
  deriving DecidableEq, Repr

/-- R205: a RESULT register. -/
structure AdcResult where
  value : BitVec 12 := 0
  valid : Bool := false
  round : BitVec 16 := 0
  deriving DecidableEq, Repr

/-- The converter (R201 to R206). -/
structure Adc where
  ctrl : Word := 1
  /-- Effectively enabled. -/
  run : Bool := true
  /-- Supplies that the last conversion of each found outside their range: VDD_CORE, VDDA, VBAT, VIO0 to VIO7. -/
  supplyOut : BitVec 11 := 0
  owner : Option QuillIx := none
  spareActive : Bool := false
  checkFail : Bool := false
  refFail : Bool := false
  round : BitVec 16 := 0
  scan : Word := 0x3E00
  rbCtrl : Word := 0x0C01
  rbNext : BitVec 6 := 0
  rbDone : BitVec 16 := 0
  rbLast : Word := 0
  /-- R205: the start of the last round that has ended, and of the round in progress. -/
  roundTime : W64 := 0
  roundBegan : W64 := 0
  evtStatus : Word := 0
  evtEnable : Word := 0
  rbSkipped : BitVec 16 := 0
  ovr : BitVec 16 := 0
  temp : Word := 0
  results : Vector AdcResult 16
  seq : BitVec 16 := 0
  /-- The slots still to convert in this round, the one in conversion first, and TB at which it began. -/
  slots : List AdcSlot := []
  began : Option W64 := none
  /-- The threshold that the readback slot in conversion reads, and its expected result. -/
  reading : Option (AcIx × Bool × Nat) := none
  /-- Failures waiting for the spare, the one in conversion first, and TB at which its conversion began. -/
  arbitrations : List Arbitration := []
  arbBegan : Option W64 := none
  /-- R202, R410: the spare has been taken or retired. -/
  spareGone : Bool := false
  deriving DecidableEq, Repr

end Sys2Proof.Machine
end

