-- ==== Sys2Proof/Machine/FolioTypes.lean ====
section
/-! DEFINITION. What the folio in force brings: units with their headers and parameters, routes, guard levels,
grants, leaves and spares (chapter 10), the staged leaves and the trigger (chapter 11). -/
namespace Sys2Proof.Machine

/-- R269: the type of a unit. -/
inductive UnitType
  | glyph | quill | inkwell | nib | tracker | feedback | comparator | converter | counter | dmaChannel
  | captureStream | reflex
  deriving DecidableEq, Repr

/-- The TYPE byte of R269. -/
def UnitType.code : UnitType → Nat
  | .glyph => 0x01 | .quill => 0x10 | .inkwell => 0x11 | .nib => 0x12 | .tracker => 0x13 | .feedback => 0x14
  | .comparator => 0x15 | .converter => 0x16 | .counter => 0x17 | .dmaChannel => 0x18 | .captureStream => 0x19
  | .reflex => 0x1A

/-- How many resources of the type there are (R269, R29). -/
def UnitType.count : UnitType → Nat
  | .glyph => 0 | .quill => 16 | .inkwell => 64 | .nib => 256 | .tracker => 16 | .feedback => 16
  | .comparator => 32 | .converter => 1 | .counter => 512 | .dmaChannel => 32 | .captureStream => 8 | .reflex => 64

/-- The types in the order of their codes. -/
def UnitType.all : List UnitType :=
  [.glyph, .quill, .inkwell, .nib, .tracker, .feedback, .comparator, .converter, .counter, .dmaChannel,
   .captureStream, .reflex]

/-- R268: the unit record, as the directory shows it (R272). -/
structure UnitRec where
  unit : Nat
  parent : Nat
  kind : UnitType
  uflags : Nat
  resource : Nat
  leaf : Nat
  paramCount : Nat
  window : Nat
  eicSrc : Nat
  name : W64
  typeData : W64
  deriving DecidableEq, Repr

/-- R276: where a parameter in force is written to. -/
inductive ParamTarget
  | none
  | reg (offset : Nat)
  | ink (bank : InkIx) (word : Fin 4096) (lane : Fin 4)
  deriving DecidableEq, Repr

/-- R259, R278: a glyph parameter: the shadow, the shadow as it stood at cycle P - 32, the value in force. -/
structure Param where
  target : ParamTarget := .none
  shadow : Word := 0
  closing : Word := 0
  force : Word := 0
  deriving DecidableEq, Repr

/-- A unit in force: its record, its header (R273, R274) and its parameters. -/
structure UnitSt where
  rec_ : UnitRec
  generation : Word := 0
  /-- CONTROL.ENABLE of a glyph. A primitive's is its block's enable field (R271). -/
  enable : Bool := false
  safe : Bool := false
  applied : Bool := false
  safeEntered : Bool := false
  /-- R274: EVENT_STATUS.BELOW as last seen. -/
  below : Bool := false
  evtEnable : Word := 0
  params : List Param := []
  deriving DecidableEq, Repr

/-- What a header write that waits for its commit does (R20, R26, R271, R278). -/
inductive CtrlAct | enable (on : Bool) | safeRelease | apply
  deriving DecidableEq, Repr

/-- R20: a header action that waits, with the ticks still to pass. -/
structure CtrlPend where
  unit : Nat
  act : CtrlAct
  ticks : Nat
  deriving DecidableEq, Repr

/-- R287: the source kinds of a route. -/
inductive SrcKind
  | nib | tracker | feedback | comparator | converter | counter | quillEvent | reflex | stream | glyph | pps
  | quillBlock
  deriving DecidableEq, Repr

/-- R287: the code of a source kind. -/
def SrcKind.code : SrcKind → Nat
  | .nib => 1 | .tracker => 2 | .feedback => 3 | .comparator => 4 | .converter => 5 | .counter => 6
  | .quillEvent => 7 | .reflex => 8 | .stream => 9 | .glyph => 10 | .pps => 11 | .quillBlock => 12

/-- The source kinds in the order of their codes. -/
def SrcKind.all : List SrcKind :=
  [.nib, .tracker, .feedback, .comparator, .converter, .counter, .quillEvent, .reflex, .stream, .glyph, .pps,
   .quillBlock]

/-- R287: where a route leads. -/
inductive RouteDest | eic (source : Nat) | queue (q : QuillIx) | blotter (source : Nat)
  deriving DecidableEq, Repr

/-- R287: one route; `bit` none is 0xFF, every bit; `leaf` is the leaf that brought it, 0 for the folio. -/
structure Route where
  kind : SrcKind
  bit : Option Nat
  index : Nat
  dest : RouteDest
  leaf : Nat := 0
  deriving DecidableEq, Repr

/-- R288: the guard level of a blotter source (1 to 4). -/
structure Guard where
  source : Nat
  level : Nat
  leaf : Nat := 0
  deriving DecidableEq, Repr

/-- R282: registers granted to a quill. -/
structure Grant where
  quill : QuillIx
  count : Nat
  offset : Nat
  leaf : Nat := 0
  deriving DecidableEq, Repr

/-- R289: a leaf the folio declares. -/
structure LeafDecl where
  leaf : Nat
  root : Nat
  unitFirst : Nat
  unitCount : Nat
  windowFirst : Nat
  windowCount : Nat
  deriving DecidableEq, Repr

/-- R283: the spare division and the pairs. -/
structure SpareDiv where
  proofreaders : Nat := 2
  standbys : Nat := 2
  pairs : List QuillIx := []
  deriving DecidableEq, Repr

/-- R281: one register setting of an image. -/
structure ConfigRec where
  offset : Nat
  value : Word
  unit : Nat
  deriving DecidableEq, Repr

/-- R285: a bound declaration. -/
structure Bound where
  word : Nat
  kind : Nat
  lo : Nat
  hi : Nat
  deriving DecidableEq, Repr

/-- R284: a quill's program. -/
structure Program where
  quill : QuillIx
  halfmode : Bool
  half : Bool
  entry : Nat
  program : Nat
  patch : Nat
  proved : Nat
  maxRecords : Nat
  maxWrites : Nat
  base : Nat
  words : List (BitVec 160)
  bounds : List Bound
  deriving DecidableEq, Repr

/-- R286: words an image gives a bank. -/
structure InkFill where
  bank : Nat
  first : Nat
  words : List W128
  deriving DecidableEq, Repr

/-- R291: one carry record. -/
structure CarryRec where
  kind : Nat
  carry : Bool
  fromUnit : Nat
  toUnit : Nat
  first : Nat
  count : Nat
  deriving DecidableEq, Repr

/-- R276: a parameter record. -/
structure ParamRec where
  glyph : Nat
  param : Nat
  reset : Word
  target : ParamTarget
  deriving DecidableEq, Repr

/-- An image that has passed the checks of R295. -/
structure Image where
  isLeaf : Bool
  generation : Word
  baseGeneration : Word
  rulingNs : Nat
  leaf : Nat
  units : List UnitRec
  leaves : List LeafDecl
  carry : List CarryRec
  config : List (Nat × ConfigRec)
  programs : List Program
  fills : List InkFill
  routes : List Route
  guards : List Guard
  params : List ParamRec
  grants : List Grant
  spares : SpareDiv
  /-- Offset of the UNITS section. -/
  unitsAt : Nat
  deriving DecidableEq, Repr

/-- The folio in force and what it brought (chapter 10). -/
structure FolioSt where
  loaded : Bool := false
  started : Bool := false
  /-- A START accepted: the frame number whose tick it acts at (R294, R384). -/
  startAt : Option W64 := none
  generation : Word := 0
  rulingNs : Nat := 4000
  units : List UnitSt := []
  routes : List Route := []
  guards : List Guard := []
  grants : List Grant := []
  leaves : List LeafDecl := []
  spares : SpareDiv := {}
  /-- Offset of the UNITS section in the image it was loaded from. -/
  unitsAt : Nat := 0
  ctrlPend : List CtrlPend := []
  deriving DecidableEq, Repr

/-- R302: the trigger of a changeover. -/
inductive Trigger
  | frame (f : W64)
  | angle (tracker : TrackIx) (angle : Word)
  deriving DecidableEq, Repr

end Sys2Proof.Machine
end

