-- ==== Sys2Proof/Machine/HostTypes.lean ====
section
/-! DEFINITION. Power, reset and the VBAT island (chapter 17), the PCIe link, the service port and JTAG (chapter 18). -/
namespace Sys2Proof.Machine

/-- R433: where the device stands. In `reset` PORST_N, a brown-out or a thermal trip holds it; `boot` runs the stages
of R429; `up` is Run or Idle. -/
inductive PowerMode | reset | boot | up | sleep | standby
  deriving DecidableEq, Repr

/-- R437: what the island keeps beyond its registers. -/
structure Island where
  keep : Vector Word 64
  keepValid : Bool := false
  standbyFlag : Bool := false
  frame : W64 := 0
  /-- The EIC image (R372): its sources, groups, withdrawn flags and awake bits. -/
  eic : Option Eic := none
  wakeSel : BitVec 4 := 0
  /-- R445: the island powered on, or its crystal stopped in Sleep or Standby, since the last start. -/
  vbatPor : Bool := false
  lfLost : Bool := false
  deriving DecidableEq, Repr

/-- R421 to R445. DESIGN CHOICE (log entry 132). -/
structure PowerSt where
  mode : PowerMode := .up
  /-- R426: what holds the device in reset: PORST_N low, a brown-out, a thermal trip. -/
  porst : Bool := false
  brown : Bool := false
  hot : Bool := false
  /-- R445: the causes of the reset in force, as RESET_CAUSE [3:0] will show them. -/
  cause : BitVec 4 := 0
  /-- TB at the last release from reset (R445 READY_MS). -/
  releaseTb : W64 := 0
  /-- R436: wake sources seen in Sleep. -/
  wakeSeen : BitVec 4 := 0
  /-- R443: the TB of the 32.768 kHz period in which the device was woken. -/
  wokenAt : Option W64 := none
  /-- SAFE_N is low at its ball; in Sleep it is not taken (R443). -/
  safePin : Bool := false
  lfOk : Bool := true
  vbatOk : Bool := true
  /-- VIO of each bank is above 1.4 V. -/
  vio : BitVec 8 := 0xFF
  resetCause : Word := 3
  wakeCause : Word := 0
  stage : BitVec 4 := 7
  error : Byte := 0
  readyMs : BitVec 16 := 85
  /-- R1: the part is of the XE grade, not the IE. -/
  xe : Bool := false
  thermLimit : Byte := 105
  thermOver : Bool := false
  trips : BitVec 16 := 0
  lpcmp : Byte := 0
  /-- R439: the last sample lay beyond the threshold. -/
  lpBeyond : Bool := false
  keepIndex : BitVec 6 := 0
  autoInc : Bool := false
  pwren : Bool := true
  /-- R443: PWREN has been low for its minimum, and a wake waits for that. -/
  pwrenMin : Bool := false
  wakeWaits : Bool := false
  /-- R434: START waits for the calibration of these converters and verniers. -/
  calibrating : BitVec 256 := 0
  /-- R429: the next start is a standby start. -/
  standbyStart : Bool := false
  island : Island
  deriving DecidableEq, Repr

/-- R456: an access of the service port that has not completed. -/
structure SpAccess where
  addr : Word
  data : Word := 0
  done : Bool := false
  deriving DecidableEq, Repr

/-- R316 to R318: an access to BAR4 in progress: its path, its first byte and length, the bytes of a write, the words
still to come, and the words that have been read. -/
structure Bar4Job where
  path : Path
  addr : Nat
  len : Nat
  data : Option (List (Option Byte))
  left : List (InkIx × Fin 4096)
  got : List ((InkIx × Fin 4096) × W128) := []
  /-- R323: the word that comes next has waited for another master. -/
  waited : Bool := false
  /-- R456: the access is that of a READ frame of the service port. -/
  frame : Bool := false
  deriving DecidableEq, Repr

/-- R446 to R458, R471, R472. DESIGN CHOICE (log entry 114). PRESUMED (log entry 181). -/
structure HostSt where
  /-- R316 to R318: the accesses to BAR4 in progress, oldest first. -/
  bar4 : List Bar4Job := []
  /-- R339: the codes of Max_Payload_Size and Max_Read_Request_Size, 128 bytes times a power of two. -/
  payload : BitVec 3 := 0
  request : BitVec 3 := 2
  linkUp : Bool := false
  width : BitVec 3 := 0
  speed : BitVec 2 := 0
  degraded : Bool := false
  reversed : Bool := false
  l1 : Bool := false
  downs : BitVec 16 := 0
  bme : Bool := false
  msixEnable : Bool := false
  functionMask : Bool := false
  d3hot : Bool := false
  perst : Bool := false
  accessErr : BitVec 4 := 0
  accessCount : BitVec 16 := 0
  accessAddr : Word := 0
  spLast : Byte := 0
  spFrames : BitVec 16 := 0
  spAccess : Option SpAccess := none
  /-- What the last frame of the service port returned. -/
  spData : Word := 0
  jtagSel : QuillIx := 0
  bscanRefused : Bool := false
  privRefused : Bool := false
  dhalt : Bool := false
  /-- R457: the instruction in force of the boundary scan, and the data register it selects. -/
  scan : BitVec 8 := 0x01
  idcode : Word := 0
  deriving DecidableEq, Repr

end Sys2Proof.Machine
end

