-- ==== Sys2Proof/Machine/InkTypes.lean ====
section
/-! DEFINITION. The state of the inkwells, of the march engine and of the migration copier (chapter 12). -/
namespace Sys2Proof.Machine

/-- Inkwell memory: bytes keyed by physical byte address, 65,536 x PIK + 16 x word + byte; an unlisted byte
reads 0 (R327: a destroying test leaves every word zero). -/
abbrev Memory := List Host.Cell

/-- The canonical form of the inkwell memory: addresses strictly rising, no byte of value 0 listed.
DESIGN CHOICE (log entry 22). -/
def Memory.wf (m : Memory) : Bool := sparseWf 0 m

/-- R319: the kinds of owner. -/
inductive OwnerKind | none | quill | scribe | dma | host | march
  deriving DecidableEq, Repr

/-- R319: the code of an owner kind. -/
def OwnerKind.code : OwnerKind → Nat
  | .none => 0 | .quill => 1 | .scribe => 2 | .dma => 3 | .host => 4 | .march => 5

/-- R319, R334: an owner and its SHARE bits. -/
structure InkOwner where
  kind : OwnerKind := .none
  quill : QuillIx := 0
  shareDma : Bool := false
  shareHost : Bool := false
  deriving DecidableEq, Repr

/-- R321: a handover that waits, with the ticks still to pass and its place in order of acceptance. -/
structure HandoverPend where
  owner : InkOwner
  ticks : Nat
  deriving DecidableEq, Repr

/-- One logical bank (R333, R334). -/
structure Inkwell where
  owner : InkOwner := {}
  gen : BitVec 16 := 0
  pend : Option HandoverPend := none
  refused : Bool := false
  destroying : Bool := false
  phys : Option Nat
  /-- R328: a redirected slice and the physical bank of the understudy that serves it. -/
  redirect : Option (Nat × Nat) := none
  /-- R330: a slice failed its test; it stays redirected. -/
  failed : Bool := false
  corrected : BitVec 16 := 0
  uncorrected : BitVec 16 := 0
  eccAddr : Word := 0
  bCollide : BitVec 16 := 0
  denied : BitVec 16 := 0
  waitDma : BitVec 16 := 0
  waitPcie : BitVec 16 := 0
  waitSp : BitVec 16 := 0
  waitScribe : BitVec 16 := 0
  passes : BitVec 16 := 0
  lastSlice : Nat := 0
  lastDenied : Word := 0
  evtStatus : Word := 0
  evtEnable : Word := 0
  /-- R323: the master that port B served last: 0 the scribe, 1 DMA, 2 PCIe, 3 the service port. -/
  lastB : Nat := 3
  deriving DecidableEq, Repr

/-- R325: an error in the stored bits of a physical word. -/
inductive InkError | single (syndrome : BitVec 9) | uncorrectable (syndrome : BitVec 9)
  deriving DecidableEq, Repr

/-- R322, R324: what the two ports wrote to a physical word in one cycle, and what it held at its start. -/
structure WordWrite where
  tb : W64
  word : Nat
  old : W128
  portA : BitVec 16 := 0
  portB : BitVec 16 := 0
  deriving DecidableEq, Repr

/-- R334: what MARCH_POS.PHASE shows. -/
inductive MarchPhase | idle | copy | test | restore | lift | freeBank
  deriving DecidableEq, Repr

/-- MARCH_POS.PHASE. -/
def MarchPhase.code : MarchPhase → Nat
  | .idle => 0 | .copy => 1 | .test => 2 | .restore => 3 | .lift => 4 | .freeBank => 5

/-- The march engine (R326 to R329). -/
structure March where
  ctrl : Word := 0x00FA0007
  bank : Nat := 0
  slice : Nat := 0
  phase : MarchPhase := .idle
  /-- The physical bank that holds the understudy region; none before the first slice and while testing is
  stopped for want of a free bank. -/
  understudy : Option Nat := none
  /-- Words copied or restored so far in the present step. -/
  words : Nat := 0
  /-- TB at which the present step began. -/
  since : W64 := 0
  /-- The next slice to test. -/
  nextBank : Nat := 0
  nextSlice : Nat := 0
  /-- Rulings since the last slice or free-bank test began. -/
  rulings : Nat := 0
  /-- Free banks still to be tested after a pass (R329), and the one in test. -/
  freeToTest : List Nat := []
  freeTesting : Option Nat := none
  /-- A destroying test of a logical bank that the MARCH command named. -/
  destroying : Option InkIx := none
  destroySince : W64 := 0
  stopped : Bool := false
  passes : Word := 0
  failSlices : BitVec 16 := 0
  failBanks : BitVec 16 := 0
  deriving DecidableEq, Repr

/-- R330: a migration. -/
structure Migration where
  bank : InkIx
  target : Nat
  /-- Words copied so far, in ascending order; the slice already in the target is not copied. -/
  copied : Nat := 0
  /-- TB at which the copy of the next word began. -/
  since : W64
  done : Bool := false
  cause : Nat
  deriving DecidableEq, Repr

/-- R331, R385: a ledger entry. -/
structure LedgerEntry where
  kind : Nat
  index : Nat
  cause : Nat
  /-- R385: the slice or the word. -/
  place : Nat := 0
  deriving DecidableEq, Repr

/-- The inkwells. -/
structure InkSt where
  cells : Memory := []
  /-- Sparse by physical word number 4,096 x PIK + word: stored words that hold an error (R325). -/
  errors : List (Nat × InkError) := []
  /-- R323: the banks whose port B has served an access in the present ACLK cycle. -/
  used : List InkIx := []
  /-- Physical words written in the present cycle (R322, R324). -/
  writes : List WordWrite := []
  banks : Vector Inkwell 64
  retired : BitVec 68 := 0
  march : March := {}
  migration : Option Migration := none
  /-- Banks that wait for a migration, with its cause (R330). -/
  waiting : List (InkIx × Nat) := []
  ledger : List LedgerEntry := []
  volatileCount : BitVec 8 := 0
  ledgerFullRaised : Bool := false
  coldTested : Nat := 68
  coldRetired : Nat := 0
  evtStatus : Word := 0
  evtEnable : Word := 0
  deriving DecidableEq, Repr

end Sys2Proof.Machine
end

