-- ==== Sys2Proof/Machine/TrackerTypes.lean ====
section
/-! DEFINITION. The state of an angle tracker (chapter 03). -/
namespace Sys2Proof.Machine

/-- R87: the state of a tracker. -/
inductive TrackState | unsynced | counting | synced | stalled | reversing
  deriving DecidableEq, Repr

/-- R107: the STATE code. -/
def TrackState.code : TrackState → Nat
  | .unsynced => 0 | .counting => 1 | .synced => 2 | .stalled => 3 | .reversing => 4

/-- An angle position: 48-bit cycle count and 32-bit angle (R4). -/
abbrev Pos := BitVec 80

/-- R78: an entered interval: its length in eighths and the pitch it covered in au. -/
structure Interval where
  d : Nat
  a : Nat
  deriving DecidableEq, Repr

/-- R76: an entry of the tooth map; flags as TMAP_FLAGS [4:0]. -/
structure MapEntry where
  angle : Word := 0
  corr : Word := 0
  flags : BitVec 5 := 0
  deriving DecidableEq, Repr

/-- What a tracker is set to (R106). -/
structure TrackCfg where
  en : Bool := false
  /-- Effectively enabled (R271). -/
  run : Bool := false
  stallKeep : Bool := false
  dirMode : Nat := 0
  cfgErr : Bool := false
  src : Word := 0
  refCtrl : Word := 0x1800
  refExt : Word := 0
  refTol : Word := 0
  predCtrl : Word := 0x08180381
  widthThr : Word := 0
  stallTime : Word := 0x186A0
  lockLead : Word := 0
  teeth : Word := 1
  countsCyc : Word := 0
  countsIdx : Word := 0
  deriving DecidableEq, Repr

/-- The tooth map and its access registers (R76, R107). -/
structure ToothMap where
  index : BitVec 12 := 0
  autoInc : Bool := false
  /-- Sparse: an unlisted entry reads zero. -/
  entries : List (Nat × MapEntry) := [(0, { flags := 1 })]
  deriving DecidableEq, Repr

/-- Learning (R101, R102). -/
structure Learn where
  ctrl : Word := 0
  /-- The mode that acts; a written mode acts from the next REF tooth. -/
  mode : Nat := 0
  cycles : BitVec 16 := 0
  skipped : BitVec 8 := 0
  limit : Bool := false
  /-- Record time of the REF tooth that opened the cycle in progress. -/
  opened : Option W64 := none
  times : List (Nat × W64) := []
  spoiled : Bool := false
  previous : Option Nat := none
  deriving DecidableEq, Repr

/-- Gearing (R98): the shadow and what is in force. -/
structure Gearing where
  master : TrackIx := 0
  cont : Bool := false
  num : Word := 1
  den : Word := 1
  ofs : W64 := 0
  forceNum : Word := 1
  forceDen : Word := 1
  forceOfs : W64 := 0
  pending : Bool := false
  deriving DecidableEq, Repr

/-- Phase measurement (R103). -/
structure Phase103 where
  ctrl : Word := 0
  nominal : Word := 0
  last : Word := 0
  avg : Word := 0
  seq : BitVec 16 := 0
  valid : Bool := false
  discarded : BitVec 8 := 0
  sum : Int := 0
  count : Nat := 0
  deriving DecidableEq, Repr

/-- R97: the last update of a VIRTUAL tracker, valid at its tick. -/
structure VirtualUpd where
  tick : W64
  pos : Pos
  rate : W64
  accel : W64
  state : TrackState
  deriving DecidableEq, Repr

/-- R84: the search for the reference of a TOOTH tracker. -/
structure Search where
  /-- The entry the candidate REF tooth would take, once one is found. -/
  candidate : Option Nat := none
  /-- Confirmed candidates so far, the entry of the last one, and accepted teeth since it. -/
  confirmed : Nat := 0
  lastRef : Nat := 0
  since : Nat := 0
  /-- Teeth accepted in this search. -/
  teeth : Nat := 0
  /-- An external reference waits for the first tooth at or after it (R85). -/
  external : Option W64 := none
  deriving DecidableEq, Repr

/-- A tooth, count or sample on its way into the tracker (R75, R95, R96): its record time, the width of its
pulse in eighths where the tracker must wait for it, and the position of a count or sample. -/
structure ToothIn where
  time : W64
  width : Option Nat := none
  position : Option W64 := none
  /-- A direction the source gives (R92): true is reverse. -/
  reverse : Option Bool := none
  /-- It is an index event or an external reference of a QUAD source (R85), not a count. -/
  reference : Bool := false
  deriving DecidableEq, Repr

/-- One tracker. -/
structure Tracker where
  cfg : TrackCfg := {}
  map : ToothMap := {}
  learn : Learn := {}
  gear : Gearing := {}
  phase : Phase103 := {}
  owner : Option QuillIx := none
  virt : Option VirtualUpd := none
  state : TrackState := .unsynced
  reverse : Bool := false
  dirKnown : Bool := false
  /-- The reported position (R73) and the position of the last tooth. -/
  pos : Pos := 0
  base : Pos := 0
  hist : List Interval := []
  /-- The last tooth, count or sample processed. -/
  toothTime : W64 := 0
  hasTooth : Bool := false
  entry : Nat := 0
  synth : Bool := false
  toothRev : Bool := false
  early : Bool := false
  micro : Nat := 0
  synthRun : Nat := 0
  /-- R89: accepted teeth since the failed check. -/
  suspect : Option Nat := none
  search : Search := {}
  /-- The interval before the present one, for the features of R83. -/
  lastInterval : Option Nat := none
  /-- R91: record time of the last real tooth; `stallPos` is the position at the stall. -/
  stallSince : W64 := 0
  /-- For the position p of a QUAD or SERIAL source: since when it has stayed within 1 count of p - 1, p and p + 1. -/
  near : Vector W64 3
  stallPos : W64 := 0
  /-- R75: the leading edge of a pulse whose width the tracker waits for. -/
  pulse : Option W64 := none
  /-- R72: the cycle count when the tracker last left SYNCED or STALLED; none before the first SYNCED. -/
  leftCycle : Option (BitVec 48) := none
  refPos : W64 := 0
  angleErr : Word := 0
  /-- R95: the position at the last index event or reference, and missing indexes counted since. -/
  idxPos : Option W64 := none
  idxMissed : Nat := 0
  lastPos : W64 := 0
  missed : BitVec 16 := 0
  noise : BitVec 16 := 0
  resyncs : BitVec 16 := 0
  refMiss : BitVec 16 := 0
  dirChanges : BitVec 16 := 0
  syncLosses : BitVec 16 := 0
  evtStatus : Word := 0
  evtEnable : Word := 0
  seq : BitVec 16 := 0
  /-- R154: what the reported position became, at which TB, and whether a stamp may be taken. -/
  log : List (W64 × Pos × Bool) := []
  /-- R105: TB at which RESYNC last acted. -/
  resyncAt : Option W64 := none
  /-- Teeth, counts and samples not yet processed. -/
  waiting : List ToothIn := []
  deriving DecidableEq, Repr

end Sys2Proof.Machine
end

