-- ==== Sys2Proof/Machine/QuillTypes.lean ====
section
/-! DEFINITION. The state of a quill: the engine (chapter 08) and what surrounds a frame (chapter 09). -/
namespace Sys2Proof.Machine

/-- R236: why a quill stops. -/
inductive StopCause | budget | illegal | stack | commitFull | inkFull | ucodeEcc | parity
  deriving DecidableEq, Repr

/-- R236: the cause code. -/
def StopCause.code : StopCause → Nat
  | .budget => 1 | .illegal => 2 | .stack => 3 | .commitFull => 4 | .inkFull => 5 | .ucodeEcc => 6 | .parity => 7

/-- R216: the flags of an ALU slot. -/
structure AluFlags where
  z : Bool := false
  n : Bool := false
  c : Bool := false
  v : Bool := false
  e : Bool := false
  deriving DecidableEq, Repr

/-- R233: the kinds of result, in their order of precedence. -/
inductive ResultKind | aluA | aluB | mul | div | ink | event | postInc
  deriving DecidableEq, Repr

/-- Which event flag a result changes when it arrives (R217). -/
inductive EventFlag | none | ev (b : Bool) | dx (b : Bool) | predv (b : Bool)
  deriving DecidableEq, Repr

/-- R232: a result under way: the compute cycle at whose end it is written. -/
structure PendingResult where
  due : Nat
  dest : Fin 64
  kind : ResultKind
  value : W128
  flag : EventFlag := .none
  deriving DecidableEq, Repr

/-- R228: a commit record. -/
inductive CommitRec
  | stroke (r : W128) | regw (r : W128) | vpos (r : W128) | vdyn (r : W128) | signal (e : Fin 64)
  deriving DecidableEq, Repr

/-- R225: a buffered inkwell write. -/
structure InkWrite where
  bank : InkIx
  word : Fin 4096
  enables : BitVec 16
  data : W128
  deriving DecidableEq, Repr

/-- The operation slots of a microword that have a command of their own. -/
inductive Slot | aluA | aluB | mul | inkRead | inkWrite | event | commit | seq
  deriving DecidableEq, Repr

/-- Where a frame of a quill stands. -/
inductive Phase
  | idle | computing | yielded | stopped (c : StopCause)
  deriving DecidableEq, Repr

/-- The engine of a quill during a frame (R208 to R234). -/
structure Engine where
  g : Vector W128 64
  flagsA : AluFlags := {}
  flagsB : AluFlags := {}
  ev : Bool := false
  dx : Bool := false
  predv : Bool := false
  lc0 : BitVec 16 := 0
  lc1 : BitVec 16 := 0
  stack : List (BitVec 13) := []
  pc : BitVec 13 := 0
  /-- The compute cycle: 0 is cycle 64 of the period (R234). -/
  cycle : Nat := 0
  phase : Phase := .idle
  results : List PendingResult := []
  /-- Slots of the present word that have acted. -/
  done : List Slot := []
  newFlagsA : Option AluFlags := none
  newFlagsB : Option AluFlags := none
  newRecord : Option CommitRec := none
  newWrite : Option InkWrite := none
  newPop : Bool := false
  /-- The present word is a YIELD, or a YIELDT that is taken (R234). -/
  yielding : Bool := false
  records : List CommitRec := []
  writes : List InkWrite := []
  /-- Registers that hold a parity error (R236). -/
  parity : BitVec 64 := 0
  deriving DecidableEq, Repr

/-- An entry of an event queue: the record, and what orders records of one cycle (R250). -/
structure QueueEntry where
  record : W128
  tb : W64
  group : Nat
  index : Nat
  deriving DecidableEq, Repr

/-- The event queue of a quill (R250, R251). -/
structure EventQueue where
  entries : List QueueEntry := []
  popped : Nat := 0
  gathered : Nat := 0
  /-- R18: entries and refusals as they stood before the present cycle, where it is cycle 0 of a tick still to run. -/
  early : Option (Nat × BitVec 16) := none
  ovf : BitVec 16 := 0
  /-- Refusals between the gather of the last committed frame and the last gather, and since (R249). -/
  refusedBefore : BitVec 16 := 0
  refusedSince : BitVec 16 := 0
  deriving DecidableEq, Repr

/-- The mailbox of a quill (R22, R249). -/
structure Mailbox where
  hold : Bool := false
  regs : Vector Word 16
  /-- The values of the last gather at which HOLD was 0. -/
  gathered : Vector Word 16
  /-- The values in the context of the present frame and of the last committed one. -/
  frame : Vector Word 16
  /-- R18: the values that the coming gather takes, where the present cycle is cycle 0 of a tick still to run. -/
  early : Option (Vector Word 16) := none
  committed : Vector Word 16
  deriving DecidableEq, Repr

/-- R239, R299: a program that waits in the shadow half or in a standby. -/
structure StagedProgram where
  program : Nat
  patch : Nat
  entry : BitVec 13
  halfmode : Bool
  half : Bool
  proved : Nat
  phys : Option PhysIx
  deriving DecidableEq, Repr

/-- A logical quill: its registers (R244) and its engine. -/
structure Quill where
  active : Bool := false
  paired : Bool := false
  halfmode : Bool := false
  activeHalf : Bool := false
  entry : BitVec 13 := 0
  version : Word := 0
  staged : Option StagedProgram := none
  proved : BitVec 16 := 0
  phys : PhysIx
  moves : BitVec 16 := 0
  /-- The physical quill whose store is fetched from, while it is lent (R411). -/
  store : PhysIx
  yieldLast : BitVec 16 := 0
  yieldMax : BitVec 16 := 0
  frames : W64 := 0
  ovrCause : Word := 0
  overruns : BitVec 16 := 0
  disputes : BitVec 16 := 0
  inkDenied : BitVec 16 := 0
  regwDenied : BitVec 16 := 0
  eccCorrected : BitVec 16 := 0
  eccScrubbed : BitVec 16 := 0
  advisory : Word := 0
  evtStatus : Word := 0
  evtEnable : Word := 0
  commitUse : Word := 0
  dbgSel : BitVec 7 := 0
  brkEn : Bool := false
  haltReq : Bool := false
  halted : Bool := false
  frozen : Bool := false
  /-- TB at the tick of a frozen frame that later ticks have passed, with the trackers as that tick found them
  (R227, R242) and the banks that the quill owned in it (R226). -/
  frozenTick : Option (W64 × Vector Tracker 16 × W64) := none
  engine : Engine
  queue : EventQueue := {}
  mbx : Mailbox
  context : List (Nat × W128) := []
  skip : Bool := false
  overrunLast : Bool := false
  audited : Bool := false
  skipped : BitVec 16 := 0
  prevCause : BitVec 4 := 0
  appliedBefore : Bool := false
  appliedSince : Bool := false
  /-- CLOSE withheld the frame's commit (R252). -/
  withheld : Bool := false
  /-- R405: the close of the present frame found a mismatch. -/
  disputed : Bool := false
  deriving DecidableEq, Repr

end Sys2Proof.Machine
end

