-- ==== Sys2Proof/Machine/NibTypes.lean ====
section
/-! DEFINITION. The state of a nib, output side (chapter 04) and input side (chapter 05), of the reflex links
and of the capture streams. -/
namespace Sys2Proof.Machine

/-- What a driver does to its ball. -/
inductive Drive | low | high | z
  deriving DecidableEq, Repr

/-- R111: the actions of a stroke. -/
inductive Action
  | nop | set | clear | toggle | float | pulse | pulseLow | pulseAngle | burst | pwmLoad | patternStart
  | patternStop | captureArm | reflexArm | safe | cancel
  deriving DecidableEq, Repr

/-- R111: the code of an action. -/
def Action.code : Action → Nat
  | .nop => 0x00 | .set => 0x01 | .clear => 0x02 | .toggle => 0x03 | .float => 0x04 | .pulse => 0x05
  | .pulseLow => 0x06 | .pulseAngle => 0x07 | .burst => 0x08 | .pwmLoad => 0x09 | .patternStart => 0x0A
  | .patternStop => 0x0B | .captureArm => 0x0C | .reflexArm => 0x0D | .safe => 0x0E | .cancel => 0x3F

/-- The actions in the order of their codes. -/
def Action.all : List Action :=
  [.nop, .set, .clear, .toggle, .float, .pulse, .pulseLow, .pulseAngle, .burst, .pwmLoad, .patternStart,
   .patternStop, .captureArm, .reflexArm, .safe, .cancel]

/-- R125: the status codes. -/
inductive StrokeStatus
  | done | skippedLate | faultLate | cancelledTag | cancelledStall | cancelledSync | cancelledReverse
  | cancelledHold | cancelledSafe | cancelledDisable | cancelledChangeover | droppedFull | invalid | notOwner
  deriving DecidableEq, Repr

/-- R125: the code of a status. -/
def StrokeStatus.code : StrokeStatus → Nat
  | .done => 0x00 | .skippedLate => 0x01 | .faultLate => 0x02 | .cancelledTag => 0x03 | .cancelledStall => 0x04
  | .cancelledSync => 0x05 | .cancelledReverse => 0x06 | .cancelledHold => 0x07 | .cancelledSafe => 0x08
  | .cancelledDisable => 0x09 | .cancelledChangeover => 0x0A | .droppedFull => 0x0B | .invalid => 0x0C
  | .notOwner => 0x0D

/-- R124: the flags of a status record. -/
structure StrokeFlags where
  late : Bool := false
  tie : Bool := false
  spaced : Bool := false
  truncated : Bool := false
  predicted : Bool := false
  early : Bool := false
  unjudged : Bool := false
  coarse : Bool := false
  altPin : Bool := false
  deriving DecidableEq, Repr

/-- A stroke in a slot (R113 to R123). -/
structure StrokeSlot where
  raw : W128
  /-- Place in commit order (R21). -/
  order : Nat
  /-- Record time of the entry tick. -/
  entered : W64
  /-- R115: the record time at which the reported angle reached or passed ANGLE while the stroke was not locked. -/
  crossed : Option W64 := none
  /-- R114: the stroke has been predicted at a tick. -/
  asked : Bool := false
  /-- Once locked: the crossing time (angle strokes), the fire time, and the placement limit (R116). -/
  locked : Bool := false
  crossing : W64 := 0
  fire : W64 := 0
  limit : W64 := 0
  /-- Record time at which the first edge or action is to be placed. -/
  place : W64 := 0
  /-- First edge or action placed, with its record time. -/
  placed : Option W64 := none
  /-- The record time at which the next later edge is due; none while an end crossing is not locked. -/
  next : Option W64 := none
  /-- R118: the time that edge was planned for, where it is late. -/
  nextPlan : Option W64 := none
  /-- Bursts: pulses still to end. -/
  left : Nat := 0
  /-- The pulse's present edge is high (bursts). -/
  highNow : Bool := false
  /-- R121: the crossing that started the pulse was forward. -/
  forward : Bool := true
  /-- R120: the position of the start crossing of a PULSE_ANGLE. -/
  crossPos : BitVec 80 := 0
  /-- R121: the record time at which the reported angle left the covered interval while the end was not locked, and
  whether on the start side. -/
  endCrossed : Option (W64 × Bool) := none
  /-- R122: the end of a PULSE_ANGLE held under HOLD awaits the tracker. -/
  heldEnd : Bool := false
  /-- R123: the entry that opens the pitch containing ANGLE, whether it has been reached, and the real teeth
  accepted since the stroke locked. -/
  opening : Option Nat := none
  openReached : Bool := false
  teeth : List (Nat × W64) := []
  /-- R123: the judgement has been made, and the record of the pulse in progress written. -/
  judged : Bool := false
  reported : Bool := false
  flags : StrokeFlags := {}
  deriving DecidableEq, Repr

/-- R132: a pattern being serialized. -/
structure PatternRun where
  start : Fin 4096
  bits : Nat
  /-- The next bit to drive, from `base`. -/
  index : Nat
  base : W64
  /-- The word being serialized. -/
  buf : W128
  slot : SlotIx
  deriving DecidableEq, Repr

/-- R158: a capture window, kept until every edge of its time has been judged. -/
structure Window where
  opened : W64
  closes : Option W64
  admitted : Bool := false
  /-- Still the nib's open window. -/
  live : Bool := true
  deriving DecidableEq, Repr

/-- R157: a frequency gate. -/
structure FreqGate where
  /-- Rulings to the closing tick; none until the first tick. -/
  left : Option Nat := none
  begins : W64 := 0
  count : Word := 0
  deriving DecidableEq, Repr

/-- The input stage of a nib. -/
structure NibIn where
  ctrl : Word := 0
  ball : Bool := false
  /-- R148: the level that the input stage sees, and a level at the ball that it does not see yet. -/
  sync : Bool := false
  move : Option Held := none
  /-- R148: a level in the filter, which differs from the accepted one. -/
  run : Option Held := none
  level : Bool := false
  /-- R164: accepted edges whose records wait for an earlier WIN_EMPTY. -/
  late : List (Bool × W64) := []
  opening : Option W64 := none
  gate : Option FreqGate := none
  /-- Frequency records on their way: closing tick and count (R157). -/
  freqDue : List (W64 × Word) := []
  windows : List Window := []
  live : W128 := 0
  fresh : Bool := false
  /-- R160: TB of the cycle in which the live record was formed, and the live record before that cycle. -/
  prior : Option (W64 × W128) := none
  ovr : BitVec 16 := 0
  seq : BitVec 16 := 0
  tdcFail : Bool := false
  deriving DecidableEq, Repr

/-- A logical nib (R142). -/
structure Nib where
  ctrl : Word := 0
  /-- Effectively enabled (R271). -/
  run : Bool := false
  owner : Option QuillIx := none
  safe : Word := 0x22
  cell : Nat
  pin : Nat
  slewSlow : Bool := false
  lateWin : Word := 0x1F40
  param0 : Word := 0
  param1 : Word := 0
  late : BitVec 16 := 0
  lost : BitVec 16 := 0
  evtStatus : Word := 0
  evtEnable : Word := 0
  drive : Drive := .z
  /-- The record time from which the pin is driven so, and whether its level has shown at the ball (R147). -/
  drivenFrom : W64 := 0
  seen : Bool := true
  inSafe : Bool := false
  /-- The SAFE causes that are the nib's own: SAFE_N and STOP_TO_SAFE (R129, R384). -/
  safeN : Bool := false
  stopped : Bool := false
  held : Bool := false
  suppressed : Bool := false
  vernB : Bool := false
  vernAOk : Bool := true
  vernBOk : Bool := true
  slots : Vector (Option StrokeSlot) 16
  /-- Strokes whose edges are all placed and whose records wait for a judgement (R123). -/
  judging : List StrokeSlot := []
  /-- Strokes taken at the present commit (R113). -/
  taken : Nat := 0
  stsSeq : BitVec 16 := 0
  /-- Record time of the last edge placed on the pin, and the fire time it was planned for (R118). -/
  lastEdge : Option W64 := none
  lastPlan : Option W64 := none
  pattern : Option PatternRun := none
  duty : Word := 0
  /-- R131: the output follows the count; false until the next count of 0. Its present level is active. The counter
  element does not meet R131's condition, and INVALID has been raised for it. -/
  pwmOn : Bool := false
  pwmOut : Bool := false
  pwmBad : Bool := false
  /-- R133: the record time from which the output is to follow its emulator, and that it follows it. -/
  emuFrom : Option W64 := none
  /-- R310: a pin that the nib takes at a time to come. -/
  pinNext : Option (W64 × Nat) := none
  emuOn : Bool := false
  /-- A reflex pulse in progress: its end, the link that began it, and the level it ends with (R140). -/
  reflexEnd : Option (W64 × LinkIx × Drive) := none
  moveWanted : Bool := false
  /-- R59: TB of the cycle of the last write of CTRL or IN_CTRL, and the offsets written in it with their writers' ranks. -/
  wroteIn : W64 := 0
  wrote : List (Nat × Nat) := []
  inp : NibIn := {}
  deriving DecidableEq, Repr

/-- A reflex link (R145). -/
structure ReflexLink where
  en : Bool := false
  run : Bool := false
  /-- ARM_MODE as written (R146). -/
  armMode : Nat := 0
  ie : Bool := false
  cause : Word := 0
  action : Word := 0
  armed : Bool := false
  /-- TB of the cycle in which the link was armed (R139). -/
  armedAt : Option W64 := none
  suppressed : Bool := false
  fires : BitVec 16 := 0
  deriving DecidableEq, Repr

/-- A capture stream (R162, R167). -/
structure CapStream where
  ctrl : Word := 0x01000000
  run : Bool := false
  fifo : List QueueEntry := []
  lost : BitVec 16 := 0
  written : Word := 0
  deriving DecidableEq, Repr

end Sys2Proof.Machine
end

