-- ==== Sys2Proof/Machine/ScribeTypes.lean ====
section
/-! DEFINITION. The state of the scribe (chapter 15): rings, mailbox, the commands accepted and not yet completed. -/
namespace Sys2Proof.Machine

/-- R382: how far the command in turn has come. -/
inductive CmdPhase | waiting | started | committed
  deriving DecidableEq, Repr

/-- R378, R381: a command accepted. -/
structure CmdEntry where
  seq : Word
  /-- The 64 bytes; none while a ring entry has not been fetched. -/
  bytes : Option (BitVec 512)
  mailbox : Bool
  phase : CmdPhase := .waiting
  /-- R382: cancelled by an ABORT. -/
  cancelled : Bool := false
  /-- R382: an ABORT that has acted: its target's sequence number, and whether it came too late. -/
  abort : Option (Word × Bool) := none
  /-- An ABORT that found no target. -/
  abortNone : Bool := false
  /-- R388: the command was in progress past its commit point when the scribe restarted. -/
  restarted : Bool := false
  /-- R388: the command was in progress before its commit point when the scribe restarted. -/
  lost : Bool := false
  /-- Core time at which it started, in ns of TB counted. -/
  ns : Nat := 0
  /-- TB of its submission (R381). -/
  at_ : W64 := 0
  deriving DecidableEq, Repr

/-- R378: a response. -/
structure Response where
  seq : Word
  tag : BitVec 16
  opcode : Byte
  status : Nat
  detail : Nat := 0
  result0 : W64 := 0
  result1 : W64 := 0
  restarted : Bool := false
  noIrq : Bool := false
  mailbox : Bool
  deriving DecidableEq, Repr

/-- A ring of the command interface (R379). -/
structure ScribeRing where
  base : W64 := 0
  en : Bool := false
  sizeLog2 : BitVec 4 := 0
  prod : BitVec 16 := 0
  cons : BitVec 16 := 0
  phase : Bool := true
  deriving DecidableEq, Repr

/-- The scribe (R378 to R391). -/
structure Scribe where
  ready : Bool := true
  stoppedSafe : Bool := false
  restarting : Bool := false
  rspWait : Bool := false
  ringErr : Bool := false
  notice : Bool := false
  patch : BitVec 16 := 0
  /-- First 8 bytes of the payload digest in force (R383 PATCH_STATUS). -/
  patchDigest : W64 := 0
  cmd : ScribeRing := {}
  rsp : ScribeRing := {}
  seq : Word := 0
  doneSeq : Word := 0xFFFFFFFF
  restarts : BitVec 16 := 0
  aborted : BitVec 16 := 0
  refused : BitVec 16 := 0
  timeMax : BitVec 16 := 0
  mbx : Vector Word 16
  busy : Bool := false
  done : Bool := false
  mbxSeq : BitVec 16 := 0
  /-- Commands accepted and not yet completed, in sequence order. -/
  queue : List CmdEntry := []
  /-- R379: a fetch has failed on the bus, and is retried at the next CMD_TAIL write. -/
  fetchFailed : Bool := false
  /-- A response held by a full ring (R379). -/
  held : Option Response := none
  /-- R382: the time, the tag and the SEQ of the last command with a commit point to complete. -/
  ended : Option (W64 × Nat × Word) := none
  /-- R292: the enrolled key hash, once sealed. -/
  keyHash : Option (BitVec 256) := none
  /-- What the command in progress waits for: the tick of START, STOP_TO_SAFE, SNAPSHOT or TB_SET. -/
  stopDue : Bool := false
  snapDue : Bool := false
  /-- R434, R435: entry into Sleep or Standby follows the response. -/
  entry : Option Bool := none
  wakeSel : BitVec 4 := 0
  deriving DecidableEq, Repr

end Sys2Proof.Machine
end

