-- ==== Sys2Proof/Machine/SpareTypes.lean ====
section
/-! DEFINITION. The roles of the physical quills, votes and moves (R405 to R411), the pools of nib cells, counter
elements, converters and PLLs (R410, R424), the staged leaves and the trigger of a changeover (chapter 11). -/
namespace Sys2Proof.Machine

/-- R385: the role of a physical quill. -/
inductive PhysRole
  | logical (q : QuillIx)
  | proofreader (pair : Option QuillIx)
  | standby
  | reserved
  | retired
  deriving DecidableEq, Repr

/-- R407: a vote: the quill, the physical quills that take part, whether the standby was reserved for a staged leaf,
and what the comparison at the close of frame N + 1 found. -/
structure VoteSt where
  quill : QuillIx
  proof : PhysIx
  standby : PhysIx
  fromLeaf : Bool := false
  /-- R256: the active quill stopped on its own registers, which the standby does not share. -/
  alone : Bool := false
  /-- The close of frame N + 1 has passed. -/
  compared : Bool := false
  result : Vote := .none
  deriving DecidableEq, Repr

/-- R411: a logical quill on a standby that still fetches from the physical quill it left. -/
structure QuillMove where
  quill : QuillIx
  source : PhysIx
  target : PhysIx
  /-- Words copied so far. -/
  words : Nat := 0
  cause : Nat
  deriving DecidableEq, Repr

/-- The pools of physical resources. -/
structure PoolSt where
  roles : Vector PhysRole 20
  /-- The proofreader that audits each quill in the present frame (R406). -/
  audits : Vector (Option PhysIx) 16
  votes : List VoteSt := []
  moves : List QuillMove := []
  /-- R410: quills whose move to a standby waits for the next commit, with the ledger cause. -/
  moveWanted : List (QuillIx × Nat) := []
  /-- R412: physical quills whose store holds a word that the scrubber could not correct. -/
  badStores : BitVec 20 := 0
  retiredCells : BitVec 272 := 0
  /-- The physical counter element of each logical one, and those retired. -/
  ceMap : Vector (Fin 544) 512
  retiredCes : BitVec 544 := 0
  /-- Converter in service (0 or 1) and those retired. -/
  retiredConverters : BitVec 2 := 0
  /-- R424: PLL B is active; each PLL is locked; each PLL is retired. -/
  pllB : Bool := false
  pllLock : BitVec 2 := 3
  retiredPlls : BitVec 2 := 0
  refOk : Bool := true
  /-- R31, R395: the spare kinds found exhausted; bit m is kind m of R385. -/
  exhausted : BitVec 6 := 0
  deriving DecidableEq, Repr

/-- R297 to R300: a staged leaf with what was reserved for it. -/
structure StagedLeaf where
  image : Image
  /-- Logical bank and the free physical bank its load state stands in. -/
  banks : List (InkIx × Nat) := []
  programs : List (QuillIx × StagedProgram) := []
  unready : Bool := false
  deriving DecidableEq, Repr

/-- R304, R314: how far a trigger has come. -/
inductive TrigPhase | none | armed | committed
  deriving DecidableEq, Repr

/-- R314: CO_STATUS.OUTCOME. -/
inductive CoOutcome | none | done | aborted | expired | late | unready
  deriving DecidableEq, Repr

/-- R314. -/
def CoOutcome.code : CoOutcome → Nat
  | .none => 0 | .done => 1 | .aborted => 2 | .expired => 3 | .late => 4 | .unready => 5

/-- R304: the reported angle, sync state and direction of a tracker in a gather snapshot. -/
structure AngleSnap where
  angle : Word
  synced : Bool
  reverse : Bool
  deriving DecidableEq, Repr

/-- R309: a carry copy in progress: the logical bank, the physical bank its words come from, the words that have still
to be copied, and a word of the source that was found beyond correction. -/
structure CarryCopy where
  bank : InkIx
  source : Nat
  words : List (Fin 4096)
  lost : Option (Fin 4096) := none
  deriving DecidableEq, Repr

/-- R302 to R314: staging and the trigger. -/
structure CoSt where
  staged : List StagedLeaf := []
  trigger : Option Trigger := none
  phase : TrigPhase := .none
  /-- E of an ANGLE trigger, and the ANGLE trigger's direction. -/
  earliest : W64 := 0
  dir : BitVec 2 := 0
  expire : W64 := 0
  /-- The frame in which the trigger was armed. -/
  armedIn : W64 := 0
  /-- The tick at which the changeover takes effect, from the commit point on. -/
  dueFrame : W64 := 0
  /-- The snapshot of the tick before (R304), with its frame. -/
  last : Option (W64 × AngleSnap) := none
  outcome : CoOutcome := .none
  lastFrame : W64 := 0
  taken : BitVec 16 := 0
  notTaken : BitVec 16 := 0
  copies : List CarryCopy := []
  /-- TB at which the present word copy began. -/
  copySince : W64 := 0
  deriving DecidableEq, Repr

end Sys2Proof.Machine
end

