-- ==== Sys2Proof/Machine/TimeTypes.lean ====
section
/-! DEFINITION. The state of the timebase, the ruling, PPS capture and the sync link, and of the counter elements
(chapter 02). -/
namespace Sys2Proof.Machine

/-- R38, R66: PPS capture. -/
structure PpsSt where
  ctrl : Word := 0
  new : Bool := false
  coarse : Bool := false
  seq : BitVec 16 := 0
  stamp : W64 := 0
  ovr : BitVec 16 := 0
  deriving DecidableEq, Repr

/-- R47: the state of the sync link. -/
inductive SyncState | standalone | master | search | acquire | locked | holdover | relock | mismatch
  deriving DecidableEq, Repr

/-- R47: the STATE code. -/
def SyncState.code : SyncState → Nat
  | .standalone => 0 | .master => 1 | .search => 2 | .acquire => 3 | .locked => 4 | .holdover => 5 | .relock => 6
  | .mismatch => 7

/-- The sync link (R44 to R50). -/
structure SyncSt where
  ctrl : Word := 0
  state : SyncState := .standalone
  peerFault : Bool := false
  upHoldover : Bool := false
  hop : BitVec 4 := 0
  lost : Bool := false
  rulingMismatch : Bool := false
  delay : Word := 0
  offset : Word := 0
  ringDelay : Word := 0
  crcErr : BitVec 16 := 0
  missed : BitVec 16 := 0
  /-- R46: FRAME_LOW of the tick that the next frame is expected to mark, less one per tick still to come. -/
  expect : Option (BitVec 16) := none
  /-- Consecutive valid frames, and the SLOT values among them. -/
  run : Nat := 0
  slotsSeen : BitVec 4 := 0
  /-- A valid frame arrived in the present ruling. -/
  got : Bool := false
  /-- Consecutive rulings without a valid frame. -/
  without : Nat := 0
  /-- Consecutive rulings whose frames arrived 16 ns or more away from the tick spacing, and the phase of the last
  valid frame. -/
  mistimed : Nat := 0
  lastPhase : Option Int := none
  /-- Consecutive ticks with an offset within 2 ns. -/
  aligned : Nat := 0
  /-- The PAYLOAD last received in each SLOT, with the FRAME_LOW of its tick. -/
  payload : Vector (Option (BitVec 16 × Word)) 4
  /-- The follower steps to its master at its next tick. -/
  stepDue : Bool := false
  /-- The steering correction in force, in ppb. -/
  steer : Word := 0
  /-- R45: D0 to D8 of the frame last transmitted. -/
  sent : BitVec 72 := 0
  /-- R45: its 100 bits as the line carries them, bit 0 first, and the running disparity after them: positive or not. -/
  line : BitVec 100 := 0
  disparity : Bool := false
  deriving DecidableEq, Repr

/-- TB, the ruling and the frame counter (R16, R33 to R42). -/
structure TimeSt where
  tb : W64
  /-- Core cycle within the ruling period: 0 is the tick; `period` means the next tick is due now (R16). -/
  cycle : Nat
  period : Nat := 4000
  /-- The rulings run (R42). -/
  rulings : Bool := true
  /-- The close of the present frame has begun (R252). -/
  closed : Bool := false
  frame : W64 := 0
  /-- The frame number the next tick carries (R36, R41). -/
  nextFrame : W64 := 0
  tickTb : W64 := 0
  /-- Core cycles to the next ACLK edge (R33). -/
  aclkWait : Nat := 2
  trim : Word := 0
  trimApplied : Word := 0
  trimClamp : Bool := false
  /-- TB_TRIM: the final trim and the TB at which it is written. -/
  trimFinal : Option (W64 × Word) := none
  /-- TB_SET accepted: TB and the frame number of the next tick. -/
  tbSet : Option (W64 × W64) := none
  /-- R61: the core clock has stopped (Sleep, debug halt), and it is to run again once the PLL locks (R64). -/
  stopped : Bool := false
  resume : Bool := false
  /-- R61: coarse running, and the number of the next 32.768 kHz edge. -/
  coarse : Bool := false
  coarseStep : Nat := 0
  pps : PpsSt := {}
  sync : SyncSt
  deriving DecidableEq, Repr

/-- R59: the registers of a counter element that writers share. -/
inductive CeReg | ctrl | count | compare (k : Fin 4) | period
  deriving DecidableEq, Repr

/-- A counter element (R54 to R68). -/
structure Counter where
  ctrl : Word := 0
  /-- STATUS [11:0]. -/
  flags : Word := 0
  count : W64 := 0
  /-- Counting: effectively enabled, and past a tick that START_AT_TICK waits for. -/
  run : Bool := false
  startPend : Bool := false
  /-- ACLK cycles counted by the prescaler (R54), and by the accumulator of R62. -/
  phase : Nat := 0
  compare : Vector W64 4
  armed : BitVec 4 := 0
  /-- R55: compares that fire in the next ACLK cycle. -/
  fireNext : BitVec 4 := 0
  /-- Compares that fire in the present ACLK cycle and await their match. -/
  firing : BitVec 4 := 0
  /-- R55: compares scheduled to fire because they were armed already passed. -/
  passed : BitVec 4 := 0
  /-- R63: compares that the present step crossed more than once. -/
  merged : BitVec 4 := 0
  /-- Periods that ended in the present ACLK cycle, and whether the first of them was cut (R56). -/
  ends : Nat := 0
  cut : Bool := false
  /-- R60: TB at which the count last changed. -/
  countedAt : Option W64 := none
  period : W64 := 0
  shadow : W64 := 0
  perPending : Bool := false
  matches_ : BitVec 16 := 0
  periods : BitVec 16 := 0
  wselPcie : BitVec 3 := 0
  wselSp : BitVec 3 := 0
  wselScribe : BitVec 3 := 0
  wselRecord : BitVec 3 := 0
  /-- R59: the ACLK cycle of the last write, and the registers written in it with the rank of the writer. -/
  wroteIn : W64 := 0
  wrote : List (CeReg × Nat) := []
  seq : BitVec 16 := 0
  /-- R410: a takeover by a spare waits for the next commit. -/
  takeover : Bool := false
  deriving DecidableEq, Repr

end Sys2Proof.Machine
end

