-- ==== Sys2Proof/Machine/State.lean ====
section
/-! DEFINITION. The state of the SKR-7316, the reasons a command can stop, and the machine at READY after a
cold start (R11). -/
namespace Sys2Proof.Machine

/-- Reasons to stop with a fault. No command of this device ends in one: the spec gives every command an
effect, if only that it has none. -/
inductive Fault
  /-- Raised by no command. Safe. -/
  | none
  deriving DecidableEq, Repr

/-- Reasons to refuse a command. -/
inductive Refusal
  /-- Raised by an arm of `exec` whose command has no meaning yet. Safe: nothing is claimed of it. -/
  | notModelled (mnemonic : String)
  deriving DecidableEq, Repr

/-- One entry of the posted-write stream towards the host (R30): a memory write, or a message of a vector.
DESIGN CHOICE (log entry 120). -/
inductive Posted
  | write (addr : W64) (data : List Byte)
  | message (vector : Fin 16) (addr : W64) (data : Word)
  deriving DecidableEq, Repr

/-- The whole device. -/
structure State where
  /-- The waiting commands, first in, first out. -/
  pending : List Instr
  time : TimeSt
  folio : FolioSt
  quills : Vector Quill 16
  /-- Microcode stores of the physical quills: 176-bit words by number, an unlisted word is zero (R237). -/
  stores : Vector (List (Nat × BitVec 176)) 20
  nibs : Vector Nib 256
  links : Vector ReflexLink 64
  /-- Levels at the balls TIO0 to TIO255 and ALT0 to ALT15 (R137). -/
  balls : BitVec 272
  /-- R129: an assertion of SAFE_N has been taken and has not ended. -/
  safeLow : Bool
  streams : Vector CapStream 8
  trackers : Vector Tracker 16
  /-- The trackers as cycle 0 of the present tick found them (R18, R227). -/
  tickTrackers : Vector Tracker 16
  channels : Vector Feedback 16
  comparators : Vector Comparator 32
  adc : Adc
  counters : Vector Counter 512
  eic : Eic
  blotter : Blotter
  ink : InkSt
  dma : DmaSt
  pool : PoolSt
  co : CoSt
  scribe : Scribe
  power : PowerSt
  host : HostSt
  /-- Reflex causes on their way to their links: the link and the record time of the cause (R138). -/
  reflexDue : List (LinkIx × W64)
  posted : List Posted
  /-- R52, R53: read latches and write latches, sparse, by access path and low word's address; an unlisted latch
  holds 0. -/
  rlatch : List (Nat × W128)
  wlatch : List (Nat × Word)
  /-- What the last read of each access path returned. -/
  readPcie : Word
  readSp : Word
  readScribe : Word
  /-- What the last read of BAR4 returned, in address order. -/
  readBytes : List Byte
  /-- The model's own field: numbers the free values drawn so far. -/
  free : Nat
  deriving DecidableEq, Repr

/-! The machine right after reset: at its first READY after a cold start of a part with no failed resource (R11,
R430), in the core cycle in which its first tick is due (R41). -/

/-- TB at READY: the typical 85 ms of R429 after the release (log entry 2). -/
def readyTb : W64 := 85000000

/-- The engine of a quill that has run no frame. -/
def resetEngine : Engine := { g := Vector.replicate 64 0 }

/-- A mailbox that holds zeros. -/
def resetMailbox : Mailbox :=
  { regs := Vector.replicate 16 0, gathered := Vector.replicate 16 0, frame := Vector.replicate 16 0,
    committed := Vector.replicate 16 0 }

/-- R430: a logical quill on the physical quill `p`. -/
def resetQuill (p : PhysIx) : Quill := { phys := p, store := p, engine := resetEngine, mbx := resetMailbox }

/-- R142, R430: logical nib `n` on cell `cell`, at ball TIOn. -/
def resetNib (n : NibIx) (cell : Nat) : Nib := { cell := cell, pin := n, slots := Vector.replicate 16 none }

/-- R67: a counter element. -/
def resetCounter : Counter := { compare := Vector.replicate 4 0 }

/-- R201, R205: the converter, which converts inputs 9 to 13 in its first round. -/
def resetAdc (tb : W64) : Adc :=
  { results := Vector.replicate 16 {}
    slots := [.input 9, .input 10, .input 11, .input 12, .input 13, .reference]
    roundBegan := tb <<< 3
    began := some tb }

/-- R374: the EIC. -/
def resetEic : Eic :=
  { sources := Vector.replicate 1024 {}, groups := Vector.replicate 64 {}, vectors := Vector.replicate 16 {} }

/-- R393, R418: the blotter. -/
def resetBlotter : Blotter :=
  { levels := Vector.ofFn fun (i : Fin 256) => defaultLevel i, classes := Vector.replicate 32 {} }

/-- R315, R334: the inkwells. -/
def resetInk : InkSt := { banks := Vector.ofFn fun (b : InkIx) => { phys := some b.val } }

/-- R354: the DMA engine. -/
def resetDma : DmaSt := { chans := Vector.replicate 32 {}, rings := Vector.replicate 8 {} }

/-- R405, R430: PQ0 to PQ15 are the logical quills; the rest are spares until START. -/
def resetPool : PoolSt :=
  { roles := Vector.ofFn fun (p : PhysIx) => if h : p.val < 16 then .logical ⟨p.val, h⟩ else .standby
    audits := Vector.replicate 16 none
    ceMap := Vector.ofFn fun (e : CeIx) => e.castLE (by decide) }

/-- R35, R41, R66: time. -/
def resetTime (tb : W64) : TimeSt := { tb := tb, cycle := 4000, aclkWait := 2, sync := { payload := Vector.replicate 4 none } }

/-- The machine right after reset. -/
def State.reset : State where
  pending := []
  time := resetTime readyTb
  folio := {}
  quills := Vector.ofFn fun (q : QuillIx) => resetQuill (q.castLE (by decide))
  stores := Vector.replicate 20 []
  nibs := Vector.ofFn fun (n : NibIx) => resetNib n n.val
  links := Vector.replicate 64 {}
  balls := 0
  safeLow := false
  streams := Vector.replicate 8 {}
  trackers := Vector.replicate 16 { near := Vector.replicate 3 0 }
  tickTrackers := Vector.replicate 16 { near := Vector.replicate 3 0 }
  channels := Vector.replicate 16 {}
  comparators := Vector.replicate 32 {}
  adc := resetAdc readyTb
  counters := Vector.replicate 512 resetCounter
  eic := resetEic
  blotter := resetBlotter
  ink := resetInk
  dma := resetDma
  pool := resetPool
  co := {}
  scribe := { mbx := Vector.replicate 16 0 }
  power := { island := { keep := Vector.replicate 64 0 } }
  host := {}
  reflexDue := []
  posted := []
  rlatch := []
  wlatch := []
  readPcie := 0
  readSp := 0
  readScribe := 0
  readBytes := []
  free := 0

end Sys2Proof.Machine
end

