-- ==== Sys2Proof/Machine/Ops.lean ====
section
/-! DEFINITION. The named operations over the state that every chapter shares: one element of a bank changed,
units and their subtrees (R268 to R271), routes (R287), event queues (R250), raises towards the blotter (R392),
the posted-write stream (R30), and the record time of now (R5). -/
namespace Sys2Proof.Machine

/-! One element of a bank. -/
def modQuill (s : State) (q : QuillIx) (f : Quill → Quill) : State := { s with quills := modifyAt s.quills q f }
def modEngine (s : State) (q : QuillIx) (f : Engine → Engine) : State :=
  modQuill s q fun x => { x with engine := f x.engine }
def modNib (s : State) (n : NibIx) (f : Nib → Nib) : State := { s with nibs := modifyAt s.nibs n f }
def modNibIn (s : State) (n : NibIx) (f : NibIn → NibIn) : State := modNib s n fun x => { x with inp := f x.inp }
def modLink (s : State) (l : LinkIx) (f : ReflexLink → ReflexLink) : State := { s with links := modifyAt s.links l f }
def modStream (s : State) (g : StreamIx) (f : CapStream → CapStream) : State :=
  { s with streams := modifyAt s.streams g f }
def modTrack (s : State) (t : TrackIx) (f : Tracker → Tracker) : State :=
  { s with trackers := modifyAt s.trackers t f }
def modFb (s : State) (b : FbIx) (f : Feedback → Feedback) : State := { s with channels := modifyAt s.channels b f }
def modEmu (s : State) (b : FbIx) (f : Emulator → Emulator) : State := modFb s b fun x => { x with emu := f x.emu }
def modComp (s : State) (c : AcIx) (f : Comparator → Comparator) : State :=
  { s with comparators := modifyAt s.comparators c f }
def modAdc (s : State) (f : Adc → Adc) : State := { s with adc := f s.adc }
def modCe (s : State) (e : CeIx) (f : Counter → Counter) : State := { s with counters := modifyAt s.counters e f }
def modPps (s : State) (f : PpsSt → PpsSt) : State := { s with time := { s.time with pps := f s.time.pps } }
def modSync (s : State) (f : SyncSt → SyncSt) : State := { s with time := { s.time with sync := f s.time.sync } }
def modEic (s : State) (f : Eic → Eic) : State := { s with eic := f s.eic }
def modSource (s : State) (x : SrcIx) (f : EicSource → EicSource) : State :=
  { s with eic := { s.eic with sources := modifyAt s.eic.sources x f } }
def modGroup (s : State) (g : Fin 64) (f : EicGroup → EicGroup) : State :=
  { s with eic := { s.eic with groups := modifyAt s.eic.groups g f } }
def modBlotter (s : State) (f : Blotter → Blotter) : State := { s with blotter := f s.blotter }
def modClass (s : State) (c : ClassIx) (f : FaultClass → FaultClass) : State :=
  { s with blotter := { s.blotter with classes := modifyAt s.blotter.classes c f } }
def modInk (s : State) (f : InkSt → InkSt) : State := { s with ink := f s.ink }
def modBank (s : State) (b : InkIx) (f : Inkwell → Inkwell) : State :=
  { s with ink := { s.ink with banks := modifyAt s.ink.banks b f } }
def modDma (s : State) (f : DmaSt → DmaSt) : State := { s with dma := f s.dma }
def modChan (s : State) (c : DmaIx) (f : DmaChan → DmaChan) : State :=
  { s with dma := { s.dma with chans := modifyAt s.dma.chans c f } }
def modRing (s : State) (k : RingIx) (f : CqRing → CqRing) : State :=
  { s with dma := { s.dma with rings := modifyAt s.dma.rings k f } }
def modPool (s : State) (f : PoolSt → PoolSt) : State := { s with pool := f s.pool }
def modCo (s : State) (f : CoSt → CoSt) : State := { s with co := f s.co }
def modScribe (s : State) (f : Scribe → Scribe) : State := { s with scribe := f s.scribe }
def modPower (s : State) (f : PowerSt → PowerSt) : State := { s with power := f s.power }
def modHost (s : State) (f : HostSt → HostSt) : State := { s with host := f s.host }
def modFolio (s : State) (f : FolioSt → FolioSt) : State := { s with folio := f s.folio }
def modTime (s : State) (f : TimeSt → TimeSt) : State := { s with time := f s.time }

/-- `f` for every element of a list, in order. -/
def forAll {α : Type} (l : List α) (s : State) (f : State → α → State) : State := l.foldl f s

/-- Every index of a bank, ascending. -/
def indices (n : Nat) : List (Fin n) := List.finRange n

/-- The record time of the present core cycle (R5): TB in eighths. -/
def nowTime (s : State) : W64 := s.time.tb <<< 3

/-- R16: the present cycle lies in the close of its frame. -/
def inClose (s : State) : Bool := s.time.period ≤ s.time.cycle + 32

/-- R20: ticks until an action accepted now takes effect at a commit. -/
def commitTicks (s : State) : Nat := if inClose s then 2 else 1

/-- A fresh number for a free value. -/
def drawFree (s : State) : State := { s with free := s.free + 1 }

/-- R30: one more entry of the posted-write stream. DEDUCED (log entry 95). -/
def post (s : State) (p : Posted) : State := { s with posted := s.posted ++ [p] }

/-! Access paths and their latches (R52, R53). -/

/-- The number of an access path. -/
def pathNo : Path → Nat | .pcie => 0 | .sp => 1 | .scribe => 2

/-- The key of a path's latch for the register whose low word is at an address. -/
def latchKey (p : Path) (addr : Nat) : Nat := pathNo p * 2 ^ 32 + addr

/-- R53: the low word that a path last wrote. -/
def heldLow (s : State) (p : Path) (addr : Nat) : Word := sparseGet 0 s.wlatch (latchKey p addr)
/-- R53: a path writes a low word. -/
def holdLow (s : State) (p : Path) (addr : Nat) (v : Word) : State :=
  { s with wlatch := sparsePut 0 s.wlatch (latchKey p addr) v }
/-- R52: what a path latched at its last read of a low word. -/
def latched (s : State) (p : Path) (addr : Nat) : W128 := sparseGet 0 s.rlatch (latchKey p addr)
/-- R52: a read of a low word latches the whole value. -/
def latchRead (s : State) (p : Path) (addr : Nat) (v : W128) : State :=
  { s with rlatch := sparsePut 0 s.rlatch (latchKey p addr) v }

/-- What a read by a path returned. -/
def setRead (s : State) (p : Path) (v : Word) : State :=
  match p with
  | .pcie => { s with readPcie := v }
  | .sp => { s with readSp := v }
  | .scribe => { s with readScribe := v }

/-- R436: a wake source is seen in Sleep. -/
def noteWake (s : State) (bit : Nat) : State :=
  if s.power.mode = .sleep then modPower s fun p => { p with wakeSeen := setBit p.wakeSeen bit true }
  else if s.power.wokenAt = some s.time.tb ∧ tst s.power.island.wakeSel bit = true then
    modPower s fun p => { p with wakeCause := setBit p.wakeCause bit true }
  else s

/-- R421: VIO of the bank of a ball is up: TIO0 to TIO255 and ALT0 to ALT15 (R465). -/
def pinPowered (s : State) (pin : Nat) : Bool :=
  tst s.power.vio (if pin < 256 then pin / 32 else (pin - 256) / 2)

/-! Units (R268 to R271). -/

/-- The unit of an index, in force. -/
def findUnit (us : List UnitSt) (u : Nat) : Option UnitSt := us.find? fun x => x.rec_.unit == u

/-- The unit that binds a resource (R25). -/
def unitOf (s : State) (k : UnitType) (i : Nat) : Option UnitSt :=
  s.folio.units.find? fun x => x.rec_.kind == k && x.rec_.resource == i

/-- R1, R472: the grade that the part reports: 1 for IE, 2 for XE. -/
def gradeOf (w : PowerSt) : Nat := if w.xe then 2 else 1

/-- R1, R444: the reset value of DEV.THERM.LIMIT, in degrees Celsius. -/
def thermReset (w : PowerSt) : Byte := if w.xe then 120 else 105

/-- R25: a unit binds the resource; one that no unit binds stays in its reset state, so that writes to it are lost.
DEDUCED (log entry 131). -/
def bound (s : State) (k : UnitType) (i : Nat) : Bool := (unitOf s k i).isSome

/-- R25: a write of a resource's register. -/
def ifBound (s : State) (k : UnitType) (i : Nat) (f : State → State) : State := if bound s k i then f s else s

/-- The unit index that a raise of a resource carries (R392). -/
def unitNo (s : State) (k : UnitType) (i : Nat) : Nat := ((unitOf s k i).map (·.rec_.unit)).getD 0xFFF

/-- Every glyph from `p` to the root has ENABLE 1 (R271). -/
def aboveOn (us : List UnitSt) : Nat → Nat → Bool
  | 0, _ => false
  | fuel + 1, p =>
    if p = 0xFFFF then true
    else match findUnit us p with
      | some g => g.enable && aboveOn us fuel g.rec_.parent
      | none => false

/-- The unit `u` is `g` or lies below it. -/
def isBelow (us : List UnitSt) : Nat → Nat → Nat → Bool
  | 0, _, _ => false
  | fuel + 1, g, u =>
    if u = g then true
    else match findUnit us u with
      | some x => if x.rec_.parent = 0xFFFF then false else isBelow us fuel g x.rec_.parent
      | none => false

/-- The units of the subtree of `g`, itself included. -/
def subtree (us : List UnitSt) (g : Nat) : List UnitSt :=
  us.filter fun x => isBelow us (us.length + 1) g x.rec_.unit

/-- R271: all glyphs above the unit that binds a resource are enabled; a resource that no unit binds is never
effectively enabled (R25). -/
def glyphsOn (s : State) (k : UnitType) (i : Nat) : Bool :=
  match unitOf s k i with
  | some u => aboveOn s.folio.units (s.folio.units.length + 1) u.rec_.parent
  | none => false

/-- One bit for every nib bound in a subtree. -/
def nibMask (us : List UnitSt) (g : Nat) : BitVec 256 :=
  (subtree us g).foldl (fun m x => if x.rec_.kind == .nib then m ||| (1#256 <<< x.rec_.resource) else m) 0

/-! Events and routes (R104, R287). -/

/-- The destinations of an event bit of a source. -/
def routesOf (s : State) (k : SrcKind) (i bit : Nat) : List RouteDest :=
  ((s.folio.routes.filter fun r =>
    r.kind == k && r.index == i && (r.bit == none || r.bit == some bit)).map (·.dest)).eraseDups

/-- A raise towards the blotter, carrying the unit that binds the raising resource (R392). DEDUCED (log entry 103). -/
def raiseFault (s : State) (src : Nat) (unit : Nat := 0xFFF) : State :=
  modBlotter s fun b => { b with queue := b.queue ++ [{ source := src, unit := unit }] }

/-- A cause on its way to an EIC source (R360); 0 is no source (R358). -/
def pushCause (s : State) (x : Nat) : State :=
  if h : x < 1024 then
    if x = 0 || tst s.eic.sources[x].cfg 11 then s else modEic s fun e => { e with causes := e.causes ++ [⟨x, h⟩] }
  else s

/-- One route of a raised and enabled event; queue routes carry records and are served by `deliverRecord`. -/
def deliverTo (unit : Nat) (s : State) (d : RouteDest) : State :=
  match d with
  | .eic x => pushCause s x
  | .blotter b => raiseFault s b unit
  | .queue _ => s

/-- R104: a raised and enabled event goes to the EIC and blotter sources that the folio routes it to. -/
def deliverEvent (s : State) (k : SrcKind) (i bit unit : Nat) : State :=
  forAll (routesOf s k i bit) s (deliverTo unit)

/-- An event of a quill's own EVT_STATUS (R244, R287 kind 12). -/
def raiseQuillEvent (s : State) (q : QuillIx) (bit : Nat) : State :=
  let s := modQuill s q fun x => { x with evtStatus := setBit x.evtStatus bit true }
  if tst s.quills[q].evtEnable bit then deliverEvent s .quillBlock q bit (unitNo s .quill q) else s

/-- R250: the place of an entry among those of its cycle. -/
def entryBefore (a b : QueueEntry) : Bool :=
  a.tb != b.tb || a.group < b.group || (a.group == b.group && a.index ≤ b.index)

/-- R250: entered behind every entry that it does not precede. -/
def insertEntry (e : QueueEntry) : List QueueEntry → List QueueEntry
  | [] => [e]
  | x :: xs => if entryBefore x e then x :: insertEntry e xs else e :: x :: xs

/-- R250: a full list has no place for an entry: none of its entries comes after it. DEDUCED (log entry 165). -/
def refusesEntry (l : List QueueEntry) (size : Nat) (e : QueueEntry) : Bool :=
  size ≤ l.length && l.getLast?.all fun x => entryBefore x e

/-- R29, R161, R250: a record enters a quill's event queue; a full queue refuses the last record of its order. -/
def enqueue (s : State) (q : QuillIx) (record : W128) (group index : Nat) : State :=
  let e : QueueEntry := { record := record, tb := s.time.tb, group := group, index := index }
  let full := 64 ≤ s.quills[q].queue.entries.length
  let s := modQuill s q fun x => { x with queue := { x.queue with
    entries := (insertEntry e x.queue.entries).take 64 } }
  if full then
    let s := modQuill s q fun x => { x with queue := { x.queue with
      ovf := satAdd x.queue.ovf 1, refusedSince := satAdd x.queue.refusedSince 1 } }
    raiseFault (raiseQuillEvent s q 4) (132 + 8 * q) (unitNo s .quill q)
  else s

/-- R250: the event queue of a quill refuses a record of the present cycle. -/
def queueRefuses (s : State) (q : QuillIx) (group index : Nat) : Bool :=
  refusesEntry s.quills[q].queue.entries 64 { record := 0, tb := s.time.tb, group := group, index := index }

/-- R104, R287: the record of a raised and enabled event goes to the queues the folio routes it to. -/
def deliverRecord (s : State) (k : SrcKind) (i bit : Nat) (record : W128) (group : Nat) : State :=
  forAll (routesOf s k i bit) s fun s d =>
    match d with
    | .queue q => enqueue s q record group i
    | _ => s

/-- R152: a record of its fields. -/
def mkRecord (kind source seq : Nat) (angle : Word) (time : W64) : W128 :=
  BitVec.ofNat 128 (packFields [(64, time.toNat), (32, angle.toNat), (16, seq), (8, source), (8, kind)])

/-! Spares and the repair ledger (R31, R331, R413). -/

/-- A raise at a fixed level (R409). -/
def raiseAt (s : State) (src unit level : Nat) : State :=
  modBlotter s fun b => { b with queue := b.queue ++ [{ source := src, unit := unit, level := some level }] }

/-- R31, R395: the spare kind `m` of R385 is exhausted, or no longer; SPARE_EXHAUSTED is raised when the condition
begins. -/
def noteExhausted (s : State) (m : Nat) (gone : Bool) : State :=
  let was := tst s.pool.exhausted m
  let s := modPool s fun k => { k with exhausted := setBit k.exhausted m gone }
  if gone && !was then raiseFault s 24 else s

/-- R31: a failure of a resource of an exhausted kind takes its unit to L3. -/
def failureWithoutSpare (s : State) (unit : Nat) : State := raiseAt s 24 unit 3

/-- R331, R413: a retirement writes a ledger entry, where one is free. -/
def addLedger (s : State) (kind index cause place : Nat) : State :=
  if s.ink.ledger.length < 128 then
    modInk s fun k => { k with
      ledger := k.ledger ++ [{ kind := kind, index := index, cause := cause, place := place }] }
  else
    let first := !s.ink.ledgerFullRaised
    let s := modInk s fun k => { k with
      volatileCount := satAdd k.volatileCount 1
      ledgerFullRaised := true
      evtStatus := if first then setBit k.evtStatus 3 true else k.evtStatus }
    if first then raiseFault s 30 else s

end Sys2Proof.Machine
end

