-- ==== Sys2Proof/Machine/InkOps.lean ====
section
/-! DEFINITION. Reads and writes of inkwell words: which physical word serves a logical one (R315, R328, R330),
the decoder (R325), the two ports in one cycle (R322, R324), denials (R320), and injected accesses (R414). -/
namespace Sys2Proof.Machine

/-- R414, R415: one access that an injection covers: detected where the checker saw only the injected pattern,
collided where a real error stood beside it. INJECTION_DONE ends the injection when none remains.
DEDUCED (log entry 100). -/
def countInjected (s : State) (clean : Bool) : State :=
  modBlotter s fun b => { b with inj := { b.inj with
    remaining := b.inj.remaining - 1
    hits := if clean then satAdd b.inj.hits 1 else b.inj.hits
    detected := if clean then satAdd b.inj.detected 1 else b.inj.detected
    collided := if clean then b.inj.collided else satAdd b.inj.collided 1
    collide := b.inj.collide || !clean } }

/-- R414: the next access to this instance of a checker is injected. -/
def injects (s : State) (checker inst : Nat) : Bool :=
  let j := s.blotter.inj
  j.active && j.remaining != 0 && j.checker == checker && j.inst == inst

/-- R414: a transfer on an internal bus, by the instance of its parity checker: 0 PCIe to registers, 1 DMA engine, 2
inkwell port B, 3 commit network, 4 service port, 5 scribe bus. -/
def busTransfer (s : State) (inst : Nat) : State :=
  let bad := tst s.blotter.busErr inst
  let s := if injects s 4 inst then countInjected s (!bad) else s
  if bad then raiseFault (modBlotter s fun b => { b with busErr := setBit b.busErr inst false }) 5 else s

/-- R393, R414, R415: a read of the fixed register blocks. -/
def regBlockRead (s : State) : State :=
  let bad := s.blotter.regErr
  let s := if injects s 3 16 then countInjected s (!bad) else s
  if bad then raiseFault (modBlotter s fun b => { b with regErr := false }) 4 else s

/-- An event of a bank (R334); no route of R287 carries it. -/
def raiseBankEvent (s : State) (b : InkIx) (bit : Nat) : State :=
  modBank s b fun x => { x with evtStatus := setBit x.evtStatus bit true }

/-- The physical word that serves reads of a logical one; none while the bank is UNBACKED (R315, R328). -/
def servingWord (s : State) (b : InkIx) (w : Fin 4096) : Option Nat :=
  match s.ink.banks[b].redirect with
  | some (slice, pik) =>
    if w.val / 256 = slice then some (4096 * pik + w) else s.ink.banks[b].phys.map fun p => 4096 * p + w
  | none => s.ink.banks[b].phys.map fun p => 4096 * p + w

/-- R328, R330: a further physical word that a write reaches while a slice or a bank is being copied. -/
def shadowWords (s : State) (b : InkIx) (w : Fin 4096) : List Nat :=
  let m := s.ink.march
  let x := s.ink.banks[b]
  let inSlice := m.bank == b.val && w.val / 256 == m.slice
  (if inSlice && m.phase == .copy && w.val % 256 < m.words then (m.understudy.map fun u => 4096 * u + w.val).toList else [])
    ++ (if inSlice && ((m.phase == .restore && w.val % 256 < m.words) || m.phase == .lift)
        then (x.phys.map fun p => 4096 * p + w.val).toList else [])
    ++ (match s.ink.migration with
        | some g => if g.bank == b && w.val < g.copied then [4096 * g.target + w.val] else []
        | none => [])

/-- The stored data of a physical word. -/
def rawWord (m : Memory) (p : Nat) : W128 :=
  BitVec.ofNat 128 (leNat ((List.range 16).map fun i => sparseGet 0 m (16 * p + i)))

/-- Bytes of a physical word replaced, by byte enables. -/
def putRaw (m : Memory) (p : Nat) (be : BitVec 16) (d : W128) : Memory :=
  (List.range 16).foldl (fun m i => if tst be i then sparsePut 0 m (16 * p + i) (byteOf d i) else m) m

/-- R322: a physical word as it stood at the start of the cycle. -/
def startWord (s : State) (p : Nat) : W128 :=
  match s.ink.writes.find? fun x => x.word == p && x.tb == s.time.tb with
  | some x => x.old
  | none => rawWord s.ink.cells p

/-- R325: what is recorded of an error. DESIGN CHOICE (log entry 11). -/
def noteEcc (s : State) (b : InkIx) (w : Fin 4096) (syn : BitVec 9) (unc : Bool) : State :=
  let s := modBank s b fun x => { x with
    corrected := if unc then x.corrected else satAdd x.corrected 1
    uncorrected := if unc then satAdd x.uncorrected 1 else x.uncorrected
    eccAddr := at_ 0 w ||| at_ 12 syn.toNat ||| bitAt 21 unc }
  raiseBankEvent s b (if unc then 5 else 4)

/-- R330: a bank waits for its migration; one that waits or migrates already is not entered again. -/
def wantMigration (s : State) (b : InkIx) (cause : Nat) : State :=
  let busy := (s.ink.waiting.any fun x => x.1 == b) || (s.ink.migration.any fun g => g.bank == b)
  if busy then s else modInk s fun k => { k with waiting := k.waiting ++ [(b, cause)] }

/-- R414: an injected access is a corrected read; the syndrome of check bit 0 is not given. -/
def noteInjectedEcc (s : State) (b : InkIx) (w : Fin 4096) : State :=
  countInjected (noteEcc s b w Config.injectedSyndrome false) true

/-- The error a physical word holds. -/
def errorAt (m : List (Nat × InkError)) (p : Nat) : Option InkError := (m.find? fun e => e.1 == p).map (·.2)

/-- R309: the carry copy that a word of a bank still waits for. -/
def carryOf (s : State) (b : InkIx) (w : Fin 4096) : Option CarryCopy :=
  s.co.copies.find? fun c => c.bank == b && c.words.contains w

/-- R309, R315, R328: the physical word that a read of a logical one reaches: a word that is still to be carried is
served from where it comes. -/
def readWord (s : State) (b : InkIx) (w : Fin 4096) : Option Nat :=
  match carryOf s b w with
  | some c => some (4096 * c.source + w)
  | none => servingWord s b w

/-- R325, R330, R332: the bank of a word beyond correction is retired: by a migration, or, where the word was still to be
carried, as the bank that it comes from is left. -/
def losesBank (s : State) (b : InkIx) (w : Fin 4096) : State :=
  match carryOf s b w with
  | some y => modCo s fun c => { c with copies := c.copies.map fun x =>
      if x.bank = b ∧ x.source = y.source then { x with lost := some w } else x }
  | none => wantMigration s b 2

/-- R325: a word of a bank through the decoder. -/
def inkRead (s : State) (b : InkIx) (w : Fin 4096) : W128 × State :=
  match readWord s b w with
  | none => (0, s)
  | some p =>
    let inj := injects s 1 b
    match errorAt s.ink.errors p with
    | none => (startWord s p, if inj then noteInjectedEcc s b w else s)
    | some (.single syn) =>
      let s := if inj then countInjected s false else s
      (startWord s p, noteEcc s b w syn false)
    | some (.uncorrectable syn) =>
      let s := if inj then countInjected s false else s
      let s := noteEcc s b w syn true
      (0, losesBank (raiseFault s 40 (unitNo s .inkwell b)) b w)

/-! Copies (R309, R328, R330). -/

/-- A word of a bank read through the decoder by a copy. -/
def copyRead (s : State) (b : InkIx) (w : Fin 4096) : W128 × State :=
  match readWord s b w with
  | none => (0, s)
  | some p =>
    match errorAt s.ink.errors p with
    | none => (rawWord s.ink.cells p, s)
    | some (.single syn) => (rawWord s.ink.cells p, noteEcc s b w syn false)
    | some (.uncorrectable syn) =>
      (0, losesBank (raiseFault (noteEcc s b w syn true) 40 (unitNo s .inkwell b)) b w)

/-- A physical word written whole, with valid check bits. -/
def putWhole (s : State) (p : Nat) (v : W128) : State :=
  modInk s fun k => { k with
    cells := putRaw k.cells p (BitVec.allOnes 16) v
    errors := k.errors.filter fun e => e.1 != p }

/-- R309: a word is no longer to be carried. -/
def dropCarry (s : State) (b : InkIx) (w : Fin 4096) : State :=
  modCo s fun c => { c with copies := c.copies.map fun y =>
    if y.bank = b then { y with words := y.words.filter fun v => v != w } else y }

/-- R309: a word is carried to its bank; `read` says that its error, if it holds one, is met. -/
def carryWord (s : State) (b : InkIx) (w : Fin 4096) (read : Bool) : State :=
  let (v, t) := copyRead s b w
  let s := dropCarry (if read then t else s) b w
  forAll ((servingWord s b w).toList ++ shadowWords s b w).eraseDups s fun s p => putWhole s p v

/-- R309: a word that a write reaches, and words that come from the physical word it reaches, are carried before it; a
write of the whole word reads nothing. -/
def endCarry (s : State) (b : InkIx) (w : Fin 4096) (be : BitVec 16) : State :=
  if s.co.copies.isEmpty then s
  else
    let s := if (carryOf s b w).isSome then carryWord s b w (be != BitVec.allOnes 16) else s
    let taken (c : CarryCopy) : Bool := servingWord s b w == some (4096 * c.source + w) && c.words.contains w
    forAll (s.co.copies.filter taken) s fun s c => carryWord s c.bank w false

/-- A physical word written through a port, decided byte by byte against the other port in the same cycle
(R324). A word written whole holds valid check bits again; so does one whose single error the write's
decoder corrects. -/
def writePhys (s : State) (p : Nat) (be : BitVec 16) (d : W128) (portA : Bool) : State :=
  let now := s.ink.writes.filter fun x => x.tb == s.time.tb
  let r := (now.find? fun x => x.word == p).getD
    { tb := s.time.tb, word := p, old := rawWord s.ink.cells p }
  let eff := if portA then be else be &&& ~~~r.portA
  let r' := if portA then { r with portA := r.portA ||| be } else { r with portB := r.portB ||| be }
  modInk s fun k => { k with
    cells := putRaw k.cells p eff d
    errors := k.errors.filter fun (a, e) => a != p || (be != BitVec.allOnes 16 && match e with
      | .single _ => false | .uncorrectable _ => true)
    writes := r' :: now.filter fun x => x.word != p }

/-- R324: bytes of this write that the other port also wrote in this cycle. DESIGN CHOICE (log entry 115). -/
def collides (s : State) (p : Nat) (be : BitVec 16) (portA : Bool) : Bool :=
  match s.ink.writes.find? fun x => x.word == p && x.tb == s.time.tb with
  | some x => (be &&& (if portA then x.portB else x.portA)) != 0
  | none => false

/-- R324: a collision is counted, and raises COLLIDE and INK_COLLIDE. -/
def noteCollision (s : State) (b : InkIx) : State :=
  let s := modBank s b fun x => { x with bCollide := satAdd x.bCollide 1 }
  raiseFault (raiseBankEvent s b 3) 42 (unitNo s .inkwell b)

/-- A write of a logical word through a port, to every copy that R328 and R330 name; it ends the carry copy of its word
(R309). -/
def inkWriteWord (s : State) (b : InkIx) (w : Fin 4096) (be : BitVec 16) (d : W128) (portA : Bool) : State :=
  let s := endCarry s b w be
  match servingWord s b w with
  | none => s
  | some p =>
    let s := if collides s p be portA then noteCollision s b else s
    forAll ((p :: shadowWords s b w).eraseDups) s fun s p => writePhys s p be d portA

/-- R334 LAST_DENIED.WHO. -/
inductive Accessor | quill (q : QuillIx) | scribe | dma | pcie | sp
  deriving DecidableEq, Repr

/-- R334. -/
def Accessor.code : Accessor → Nat
  | .quill _ => 0 | .scribe => 1 | .dma => 2 | .pcie => 3 | .sp => 4

/-- R320: an access that the owner keeps out. -/
def denyAccess (s : State) (b : InkIx) (w : Fin 4096) (write : Bool) (who : Accessor) : State :=
  let qn := match who with | .quill q => q.val | _ => 0
  let s := modBank s b fun x => { x with
    denied := satAdd x.denied 1
    lastDenied := at_ 0 w ||| bitAt 12 write ||| at_ 13 who.code ||| at_ 16 qn }
  raiseFault (raiseBankEvent s b 2) 41 (unitNo s .inkwell b)

/-- R320: the access is the owner's, or the owner shares the bank with it. -/
def admits (s : State) (b : InkIx) (who : Accessor) : Bool :=
  let o := s.ink.banks[b].owner
  let shared := o.kind == .quill || o.kind == .scribe
  match who with
  | .quill q => o.kind == .quill && o.quill == q
  | .scribe => o.kind == .scribe
  | .dma => o.kind == .dma || (o.shareDma && shared)
  | .pcie | .sp => o.kind == .host || (o.shareHost && shared)

/-- R323: the master of port B that an accessor is; the scribe reaches its banks through port A (R319). -/
def Accessor.master : Accessor → Option Nat
  | .dma => some 1 | .pcie => some 2 | .sp => some 3 | .quill _ | .scribe => none

/-- R323: port B of a bank serves an access in the present ACLK cycle. -/
def usePort (s : State) (b : InkIx) : State :=
  if s.ink.used.contains b then s else modInk s fun k => { k with used := b :: k.used }

/-- R323, R414: an access through port B is a transfer, and takes the port's turn. -/
def portTransfer (s : State) (b : InkIx) (who : Accessor) : State :=
  let s := match who with | .quill _ => s | _ => busTransfer s 2
  match who.master with
  | some m => modBank (usePort s b) b fun x => { x with lastB := m }
  | none => s

/-- A word read by one that may be denied: a denied read returns zero. -/
def inkReadBy (s : State) (b : InkIx) (w : Fin 4096) (who : Accessor) : W128 × State :=
  let s := portTransfer s b who
  if admits s b who then inkRead s b w else (0, denyAccess s b w false who)

/-- A word written by one that may be denied: a denied write changes nothing. -/
def inkWriteBy (s : State) (b : InkIx) (w : Fin 4096) (be : BitVec 16) (d : W128) (who : Accessor) : State :=
  let s := portTransfer s b who
  if admits s b who then
    inkWriteWord s b w be d (match who with | .quill _ => true | .scribe => true | _ => false)
  else denyAccess s b w true who

end Sys2Proof.Machine
end

