-- ==== Sys2Proof/Machine/TrackModel.lean ====
section
/-! DEFINITION. What a tracker's state means without changing it: the tooth map (R76), the fit through the last
intervals (R78, R79), micro-ticks (R80, R81), positions (R72, R95, R97, R98), RATE and ACCEL (R74), the time of a
crossing (R99), and the angle stamp (R154). -/
namespace Sys2Proof.Machine

/-- R69: SRC.KIND; 6 and 7 act as OFF. -/
inductive TrackSrc | off | tooth | quad | serial | virtual_ | slave
  deriving DecidableEq, Repr

/-- R69. -/
def srcKind (t : Tracker) : TrackSrc :=
  match fld t.cfg.src 2 0 with
  | 1 => .tooth | 2 => .quad | 3 => .serial | 4 => .virtual_ | 5 => .slave | _ => .off

/-- R69: AT0 to AT3 are full trackers. -/
def isFull (i : TrackIx) : Bool := i.val < 4

/-- R83: the reference kind. -/
inductive RefKind | first | gap | extra | width | index | external | absolute | invalid
  deriving DecidableEq, Repr

/-- R83. -/
def refKind (t : Tracker) : RefKind :=
  match fld t.cfg.refCtrl 2 0 with
  | 0 => .first | 1 => .gap | 2 => .extra | 3 => .width | 4 => .index | 5 => .external | 6 => .absolute
  | _ => .invalid

/-- R76: the number of map entries. -/
def teethOf (t : Tracker) : Nat := max 1 (fld t.cfg.teeth 12 0)

/-- An entry of the tooth map. -/
def mapEntry (t : Tracker) (k : Nat) : MapEntry := sparseGet {} t.map.entries k

/-- R76: the effective angle of an entry. -/
def effAngle (t : Tracker) (k : Nat) : Word :=
  let e := mapEntry t k
  if 2 ≤ t.learn.mode then e.angle + e.corr else e.angle

/-- The entry after and before an entry, in the map's cycle. -/
def entryAfter (t : Tracker) (k : Nat) : Nat := (k + 1) % teethOf t
def entryBeforeK (t : Tracker) (k : Nat) : Nat := (k + teethOf t - 1) % teethOf t

/-- An angle difference as a span: 0 is a whole cycle. -/
def span (d : Word) : Nat := if d = 0 then 2 ^ 32 else d.toNat

/-- R76: the pitch of an entry. -/
def pitchOf (t : Tracker) (k : Nat) : Nat := span (effAngle t (entryAfter t k) - effAngle t k)

/-- R77: the REF entry whose CAM flag fits the level; the level does not matter without CAM_EN. -/
def refEntry (t : Tracker) (cam : Bool) : Option Nat :=
  let camEn := tst t.cfg.refCtrl 4
  (List.range (teethOf t)).find? fun k =>
    let f := (mapEntry t k).flags
    f.getLsbD 0 && (!camEn || f.getLsbD 1 == cam)

/-- R74: the smallest pitch in the map. -/
def minPitch (t : Tracker) : Nat :=
  (List.range (teethOf t)).foldl (fun m k => min m (pitchOf t k)) (2 ^ 32)

/-- R95: counts per cycle, and the angle and position of a count. -/
def countsOf (t : Tracker) : Nat := fld t.cfg.countsCyc 23 0
def countAngle (c : Nat) (r : Int) : Nat := if c = 0 then 0 else (r % c).toNat * 2 ^ 32 / c
def countPos (t : Tracker) (p : W64) : Pos :=
  let c := countsOf t
  let r := p.toInt - t.refPos.toInt
  if c = 0 then 0 else BitVec.ofInt 80 (r / c * 2 ^ 32 + countAngle c r)

/-- The span from the last tooth, count or sample to the next in the direction of motion (R79, R93, R95). A
SERIAL source is expected to move as far as it last did (R96). -/
def nextPitch (t : Tracker) : Nat :=
  match srcKind t with
  | .tooth => if t.reverse then pitchOf t (entryBeforeK t t.entry) else pitchOf t t.entry
  | .quad =>
    let c := countsOf t
    let r := t.lastPos.toInt - t.refPos.toInt
    let a (x : Int) : Word := BitVec.ofNat 32 (countAngle c x)
    if c = 0 then 2 ^ 32
    else if t.reverse then span (a r - a (r - 1)) else span (a (r + 1) - a r)
  | _ => match t.hist with | x :: _ => x.a | [] => 0

/-! The fit of R79, in exact arithmetic. -/

/-- R79: s1 in eighths per au, q, and half of a1. -/
structure Fit where
  s1 : Rat
  q : Rat
  half : Rat

/-- R78, R79: the fit of a history; none without an entry. -/
def fitOf (order2 : Bool) (h : List Interval) : Option Fit :=
  match h with
  | [] => none
  | x :: xs =>
    let s1 : Rat := (x.d : Rat) / x.a
    match xs with
    | [y, z] =>
      let q : Rat := if order2 then (s1 - (z.d : Rat) / z.a) / ((x.a : Rat) / 2 + y.a + (z.a : Rat) / 2) else 0
      some { s1 := s1, q := q, half := (x.a : Rat) / 2 }
    | _ => some { s1 := s1, q := 0, half := (x.a : Rat) / 2 }

/-- R79: the fit of a tracker. -/
def trackFit (t : Tracker) : Option Fit := fitOf (tst t.cfg.predCtrl 0) t.hist

/-- R79: q for a distance; first order where the slope would fall below half of s1. -/
def fitQ (f : Fit) (d : Rat) : Rat := if f.s1 + f.q * (f.half + d) < f.s1 / 2 then 0 else f.q

/-- R79: eighths from the last tooth to a point `d` au further on, before rounding. -/
def fitTime (f : Fit) (d : Rat) : Rat :=
  let q := fitQ f d
  d * (f.s1 + q * f.half) + q * d * d / 2

/-- The slope of the fit at a distance, in eighths per au. -/
def fitSlope (f : Fit) (d : Rat) : Rat := f.s1 + fitQ f d * (f.half + d)

/-- R79: rounded to the nearest eighth, halves up. -/
def roundUpHalf (r : Rat) : Int := (r + 1 / 2).floor

/-- The largest number below 2^n that satisfies a predicate that holds up to some number and not beyond. -/
def searchBits (p : Nat → Bool) : Nat → Nat → Nat
  | 0, acc => acc
  | n + 1, acc => searchBits p n (if p (acc + 2 ^ n) then acc + 2 ^ n else acc)

/-- The distance the fit has covered `dt` eighths after the last tooth, in whole au. -/
def fitDistance (f : Fit) (dt : Int) : Nat :=
  if dt < 0 then 0 else searchBits (fun d => decide (fitTime f d ≤ dt)) 41 0

/-- Record time passed since the last tooth. -/
def sinceTooth (t : Tracker) (now : W64) : Int := (now - t.toothTime).toInt

/-- R99: how far the continuous model lies beyond the last tooth; never at or past the next entry, and for a SERIAL
source no further than one predicted interval (R96). -/
def modelDelta (t : Tracker) (now : W64) : Nat :=
  match trackFit t with
  | none => 0
  | some f =>
    let d := fitDistance f (sinceTooth t now)
    if srcKind t = .serial then min d (nextPitch t) else min d (nextPitch t - 1)

/-- R79: P, the predicted period of the next tooth. -/
def predPeriod (t : Tracker) : Option Int := (trackFit t).map fun f => roundUpHalf (fitTime f (nextPitch t))

/-- R80: MT_LOG2. -/
def microLog (t : Tracker) : Nat := min 12 (fld t.cfg.predCtrl 7 4)

/-- R80: the distance of a micro-tick from the last tooth. -/
def microDelta (t : Tracker) (k : Nat) : Nat := k * nextPitch t / 2 ^ microLog t

/-- R80: the record time of a micro-tick. -/
def microTime (t : Tracker) (k : Nat) : Option W64 :=
  (trackFit t).map fun f => t.toothTime + BitVec.ofInt 64 (roundUpHalf (fitTime f (microDelta t k)))

/-- R81: the last micro-tick of a pitch; a SERIAL source may run one whole interval (R96). -/
def lastMicro (t : Tracker) : Nat := if srcKind t = .serial then 2 ^ microLog t else 2 ^ microLog t - 1

/-- R80, R81: the micro-ticks reached at a record time. -/
def microReached (t : Tracker) (now : W64) : Nat :=
  match trackFit t with
  | none => 0
  | some f =>
    let dt := sinceTooth t now
    min (lastMicro t) (searchBits (fun k => decide (roundUpHalf (fitTime f (microDelta t k)) ≤ dt)) 13 0)

/-- A position moved by a distance in the direction of motion. -/
def movePos (p : Pos) (rev : Bool) (d : Nat) : Pos := if rev then p - BitVec.ofNat 80 d else p + BitVec.ofNat 80 d

/-- R80: the reported position at a micro-tick. -/
def microPos (t : Tracker) (k : Nat) : Pos := movePos t.base t.reverse (microDelta t k)

/-! VIRTUAL trackers (R97). -/

/-- R97: how far an update has carried the position `e` eighths (or half eighths) after its tick.
DEDUCED (log entry 34). -/
def virtualAdvance (u : VirtualUpd) (e : Rat) : Rat :=
  let ns := e / 8
  let r : Rat := (u.rate.toInt : Rat) / 2 ^ 32
  let a : Rat := (u.accel.toInt : Rat) / 2 ^ 32 / 1000000
  r * ns + a * ns * ns / 2

/-- R97: the rate `e` eighths after the update's tick, in au per ns. -/
def virtualRate (u : VirtualUpd) (e : Rat) : Rat :=
  (u.rate.toInt : Rat) / 2 ^ 32 + (u.accel.toInt : Rat) / 2 ^ 32 / 1000000 * (e / 8)

/-- Eighths since the update. -/
def sinceUpdate (u : VirtualUpd) (now : W64) : Int := (now - u.tick).toInt

/-- R97: the extrapolated position, a STALLED update's standing still. -/
def virtualPos (u : VirtualUpd) (now : W64) : Pos :=
  if u.state = .synced then u.pos + BitVec.ofInt 80 (virtualAdvance u (sinceUpdate u now)).floor
  else if u.state = .stalled then u.pos else 0

/-! Positions of every kind of tracker. -/

/-- The master of a SLAVE tracker. -/
def masterOf (t : Tracker) : TrackIx := t.gear.master

/-- R98: the slave's position for a master's position. -/
def gearPos (g : Gearing) (m : Pos) : Pos :=
  if g.forceDen = 0 then 0
  else BitVec.ofInt 80 (m.toInt * g.forceNum.toInt / (g.forceDen.toNat : Int) + g.forceOfs.toInt)

/-- The tracker's running direction: SLAVE and VIRTUAL trackers by the sign of their rate (R92). The fuel bounds a
chain of SLAVE trackers, which R71 keeps free of loops. -/
def runsBack (ts : Vector Tracker 16) (now : W64) : Nat → TrackIx → Bool
  | 0, _ => false
  | fuel + 1, i =>
    let t := ts[i]
    match srcKind t with
    | .slave =>
      if t.gear.forceNum = 0 then false
      else Bool.xor (runsBack ts now fuel (masterOf t)) t.gear.forceNum.msb
    | .virtual_ => match t.virt with
      | some u => u.state == .synced && virtualRate u (sinceUpdate u now) < 0
      | none => false
    | _ => t.reverse

/-- R73: the reported position. -/
def reportedPos (ts : Vector Tracker 16) (now : W64) : Nat → TrackIx → Pos
  | 0, _ => 0
  | fuel + 1, i =>
    let t := ts[i]
    if t.state = .unsynced ∨ t.state = .counting then 0
    else match srcKind t with
      | .slave => if t.state = .reversing then t.pos else gearPos t.gear (reportedPos ts now fuel (masterOf t))
      | .virtual_ => if t.state = .reversing then t.pos else
          match t.virt with | some u => virtualPos u now | none => 0
      | _ => t.pos

/-- R99: the position of the continuous model. -/
def modelPos (ts : Vector Tracker 16) (now : W64) : Nat → TrackIx → Pos
  | 0, _ => 0
  | fuel + 1, i =>
    let t := ts[i]
    match srcKind t with
    | .slave => gearPos t.gear (modelPos ts now fuel (masterOf t))
    | .virtual_ => match t.virt with | some u => virtualPos u now | none => 0
    | _ => if t.state = .synced then movePos t.base t.reverse (modelDelta t now) else t.pos

/-- R74: RATE in au per ns and ACCEL in au per ns per ms, of the model at a record time. -/
def modelRate (ts : Vector Tracker 16) (now : W64) : Nat → TrackIx → Rat × Rat
  | 0, _ => (0, 0)
  | fuel + 1, i =>
    let t := ts[i]
    if t.state = .unsynced ∨ t.state = .stalled ∨ t.state = .reversing then (0, 0)
    else match srcKind t with
      | .slave =>
        let (r, a) := modelRate ts now fuel (masterOf t)
        let k : Rat := (t.gear.forceNum.toInt : Rat) / (t.gear.forceDen.toNat : Rat)
        (r * k, a * k)
      | .virtual_ => match t.virt with
        | some u => (virtualRate u (sinceUpdate u now), (u.accel.toInt : Rat) / 2 ^ 32)
        | none => (0, 0)
      | _ => match trackFit t with
        | none => (0, 0)
        | some f =>
          let d : Rat := if t.state = .synced then modelDelta t now else 0
          let s := fitSlope f d
          let sign : Rat := if t.reverse then -1 else 1
          if s = 0 then (0, 0) else (sign * 8 / s, sign * (-64000000) * fitQ f d / (s * s * s))

/-- R74: a value as Q32.32; how it is rounded the manual does not say. DESIGN CHOICE (log entry 10). -/
def toQ32 (n : Nat) (r : Rat) : W64 :=
  let x := r * 2 ^ 32
  BitVec.ofInt 64 (if Config.rateUp n then x.ceil else x.floor)

/-! Crossings (R99). -/

/-- R97, R99: eighths from `now` until the update has carried the position `d` au beyond where it stands, none
beyond 2^31 eighths or past a turning point. -/
def virtualCross (u : VirtualUpd) (now : W64) (rev : Bool) (d : Rat) : Option Int :=
  let e0 : Rat := sinceUpdate u now
  let sign : Rat := if rev then -1 else 1
  let from_ : Rat := (virtualAdvance u e0).floor
  let before (n : Nat) : Bool := decide (sign * (virtualAdvance u (e0 + n - 1 / 2) - from_) ≤ d)
    && decide (0 ≤ sign * virtualRate u (e0 + n - 1 / 2))
  let n := searchBits before 32 0
  if 2 ^ 31 < n then none
  else if decide (d ≤ sign * (virtualAdvance u (e0 + n + 1 / 2) - from_)) then some n else none

/-- R99: the model time from `now` for `d` au beyond the present model angle; a SLAVE tracker asks its master.
DESIGN CHOICE (log entry 140). -/
def crossTime (ts : Vector Tracker 16) (now : W64) : Nat → TrackIx → Rat → Option Int
  | 0, _, _ => none
  | fuel + 1, i, d =>
    let t := ts[i]
    match srcKind t with
    | .slave =>
      if t.gear.forceNum = 0 then none
      else crossTime ts now fuel (masterOf t) (d * t.gear.forceDen.toNat / t.gear.forceNum.toInt.natAbs)
    | .virtual_ => match t.virt with
      | some u => virtualCross u now (runsBack ts now 1 i) d
      | none => none
    | _ => (trackFit t).map fun f =>
        let d0 : Rat := modelDelta t now
        roundUpHalf (fitTime f (d0 + d) - fitTime f d0)

/-- R93, R115: a crossing direction that DIR allows (0 forward, 1 reverse, 2 either), as the tracker runs. -/
def dirAllows (dir : Nat) (rev : Bool) : Bool := dir == 2 || (dir == 1 && rev) || (dir == 0 && !rev)

/-- R99: the distance from the model angle to ANGLE in the direction of motion. -/
def crossDistance (ts : Vector Tracker 16) (now : W64) (i : TrackIx) (rev : Bool) (angle : Word) : Word :=
  let th : Word := (modelPos ts now 17 i).truncate 32
  if rev then th - angle else angle - th

/-- R99, R100: the crossing time of ANGLE predicted at a tick; none when the tracker is not SYNCED, the direction does
not qualify or the crossing lies more than 2^31 eighths away. `first`: a distance of 0 is a whole cycle (R114). -/
def predictCross (ts : Vector Tracker 16) (now : W64) (i : TrackIx) (dir : Nat) (angle : Word) (first : Bool) :
    Option W64 :=
  let rev := runsBack ts now 17 i
  if ts[i].state != .synced || !dirAllows dir rev then none
  else
    let d := crossDistance ts now i rev angle
    match crossTime ts now 17 i (if first then span d else d.toNat) with
    | some e => if 0 ≤ e ∧ e ≤ 2 ^ 31 then some (now + BitVec.ofInt 64 e) else none
    | none => none

/-- R227: PRED of a quill, from the trackers as the tick found them: valid bit and record time. -/
def predOf (s : State) (i : TrackIx) (dir : Nat) (angle : Word) : Option W64 :=
  if dir = 3 then none else predictCross s.tickTrackers (s.time.tickTb <<< 3) i dir angle true

/-- R154: the log entry in force in the core cycle that contains a record time. -/
def logAt (t : Tracker) (time : W64) : Option (Pos × Bool) :=
  (t.log.find? fun e => notAfter e.1 (time >>> 3)).map (·.2)

/-- R154: the position a tracker reported in the core cycle that contains a record time, if it was SYNCED or STALLED
then. -/
def stampPos (t : Tracker) (time : W64) : Option Pos :=
  match logAt t time with
  | some (p, true) => some p
  | _ => none

end Sys2Proof.Machine
end

