-- ==== Sys2Proof/Machine/NibOps.lean ====
section
/-! DEFINITION. The shared operations of a nib: its pin (R118), its status records (R124 to R126), capture streams
(R162), locking and lateness (R116, R117), cancelling, the SAFE state (R128), hold (R127) and disabling (R479). -/
namespace Sys2Proof.Machine

/-! The fields of a stroke (R109, R110). -/
def strokeAction (r : W128) : Option Action := Action.all.find? fun a => a.code == fld r 127 122
def strokeNib (r : W128) : NibIx := Fin.ofNat 256 (fld r 121 114)
def strokeTrack (r : W128) : TrackIx := Fin.ofNat 16 (fld r 113 110)
def timeTriggered (r : W128) : Bool := tst r 109
def strokeLate (r : W128) : Nat := fld r 108 107
def strokeDir (r : W128) : Nat := fld r 106 105
def strokeTag (r : W128) : Nat := fld r 104 96
def strokeArg (r : W128) : Nat := if timeTriggered r then fld r 95 64 else fld r 31 0
def strokeOffset (r : W128) : Int := if timeTriggered r then 0 else sfld r 95 64
def strokeAngle (r : W128) : Word := word32 r 1
def strokeTime (r : W128) : W64 := word64 r 0

/-- R130: MODE of a nib. -/
def nibMode (x : Nib) : Nat := fld x.ctrl 3 1

/-- R111: the modes in which an action is accepted (0 STROKE, 1 PWM, 2 PATTERN, 3 EMU, 4 DIRECT). -/
def actionInMode (a : Action) (mode : Nat) : Bool :=
  match a with
  | .nop | .safe | .cancel => true
  | .pwmLoad => mode == 1
  | .patternStart | .patternStop => mode == 2
  | .captureArm => mode ≤ 2
  | .reflexArm => mode != 4
  | _ => mode == 0

/-- R111: the ARG that an action needs lies in its range. -/
def argInRange (a : Action) (arg : Nat) : Bool :=
  match a with
  | .pulse | .pulseLow => 8 ≤ arg
  | .pulseAngle => 1 ≤ arg
  | .burst => 1 ≤ arg / 2 ^ 20 && 8 ≤ arg % 2 ^ 20
  | .patternStart => arg / 2 ^ 28 == 0
  | _ => true

/-- R139: a REFLEX_ARM must go through a nib whose owner also owns the link's target nib. -/
def reflexArmAllowed (s : State) (n : NibIx) (arg : Nat) : Bool :=
  let l : LinkIx := Fin.ofNat 64 (arg % 64)
  let target : NibIx := Fin.ofNat 256 (fld s.links[l].action 7 0)
  s.nibs[n].owner.isSome && s.nibs[target].owner == s.nibs[n].owner

/-- R111, R139: the stroke is INVALID whatever its nib's state. -/
def strokeInvalid (s : State) (n : NibIx) (r : W128) : Bool :=
  match strokeAction r with
  | none => true
  | some a =>
    !actionInMode a (nibMode s.nibs[n]) || !argInRange a (strokeArg r)
      || (!timeTriggered r && strokeDir r == 3) || (a == .pulseAngle && timeTriggered r)
      || (a == .reflexArm && !reflexArmAllowed s n (strokeArg r))

/-! Events, streams and status records. -/

/-- R126, R166: an event of a nib. Queue routes of the input events carry records; the caller delivers those. -/
def raiseNibEvent (s : State) (n : NibIx) (bit : Nat) : State :=
  let s := modNib s n fun x => { x with evtStatus := setBit x.evtStatus bit true }
  if tst s.nibs[n].evtEnable bit then deliverEvent s .nib n bit (unitNo s .nib n) else s

/-- R162: the fill level that sets ABOVE_WM. -/
def watermark (x : CapStream) : Nat := min 512 (max 1 (fld x.ctrl 25 16))

/-- R162: the stream is a destination. -/
def streamOn (x : CapStream) : Bool := tst x.ctrl 0 && x.run

/-- R162: a record enters a stream; a full stream loses the last record of its order. -/
def pushStream (s : State) (g : StreamIx) (record : W128) (group index : Nat) : State :=
  let x := s.streams[g]
  let e : QueueEntry := { record := record, tb := s.time.tb, group := group, index := index }
  if !streamOn x then s
  else if 512 ≤ x.fifo.length then
    modStream s g fun x => { x with fifo := (insertEntry e x.fifo).take 512, lost := satAdd x.lost 1 }
  else
    let s := modStream s g fun x => { x with fifo := insertEntry e x.fifo, written := x.written + 1 }
    if x.fifo.length + 1 = watermark x ∧ tst x.ctrl 1 then
      deliverEvent s .stream g 0 (unitNo s .captureStream g) else s

/-- The stream of a nib's group. -/
def streamOf (n : NibIx) : StreamIx := ⟨n.val / 32, by omega⟩

/-- R124: FLAGS as a number. -/
def flagBits (f : StrokeFlags) : Nat :=
  packFields [(1, b2n f.late), (1, b2n f.tie), (1, b2n f.spaced), (1, b2n f.truncated), (1, b2n f.predicted),
    (1, b2n f.early), (1, b2n f.unjudged), (1, b2n f.coarse), (1, b2n f.altPin)]

/-- R124: a status record. -/
def statusRecord (n : NibIx) (seq : BitVec 16) (r : W128) (f : StrokeFlags) (st : StrokeStatus) (time : W64) : W128 :=
  BitVec.ofNat 128 (packFields [(64, time.toNat), (8, st.code), (9, flagBits f), (6, fld r 127 122),
    (9, strokeTag r), (16, seq.toNat), (8, n.val), (8, 0x40)])

/-- R135, R137: the flags that the nib itself adds. -/
def nibFlags (x : Nib) (f : StrokeFlags) : StrokeFlags :=
  { f with coarse := f.coarse || (!x.vernAOk && !x.vernBOk), altPin := f.altPin || (256 ≤ x.pin && x.pin ≤ 271) }

/-- R124, R126: the status record of a stroke, and where it goes. -/
def writeStatus (s : State) (n : NibIx) (r : W128) (f : StrokeFlags) (st : StrokeStatus) (time : W64) : State :=
  let x := s.nibs[n]
  let f := nibFlags x f
  if tst x.ctrl 8 && st == .done && flagBits f == 0 then s
  else
    let rec_ := statusRecord n x.stsSeq r f st time
    let s := modNib s n fun x => { x with stsSeq := x.stsSeq + 1 }
    let s := match x.owner with
      | some q => if tst x.ctrl 6 then enqueue s q rec_ 2 n else s
      | none => s
    if tst x.ctrl 7 then pushStream s (streamOf n) rec_ 2 n else s

/-! Slots. -/

def getSlot (x : Nib) (k : SlotIx) : Option StrokeSlot := x.slots[k]
def putSlot (s : State) (n : NibIx) (k : SlotIx) (v : Option StrokeSlot) : State :=
  modNib s n fun x => { x with slots := x.slots.set k v }
def modSlot (s : State) (n : NibIx) (k : SlotIx) (f : StrokeSlot → StrokeSlot) : State :=
  modNib s n fun x => { x with slots := x.slots.set k (x.slots[k].map f) }

/-- R113: the slots in use. -/
def armedCount (x : Nib) : Nat := (x.slots.toList.filter (·.isSome)).length

/-- R143: a pulse or burst is in progress. -/
def pulseInProgress (x : Nib) : Bool :=
  x.reflexEnd.isSome || x.slots.toList.any fun o => match o with
    | some v => v.placed.isSome && strokeAction v.raw != some .patternStart
    | none => false

/-- R123: the stroke's record waits for a judgement. -/
def needsJudgement (v : StrokeSlot) : Bool :=
  v.placed.isSome && !v.judged && (v.flags.predicted || (v.opening.isSome && !v.openReached))

/-- A stroke ends: its slot is freed and its record written, unless a judgement must come first, or has written the
record already (R123). -/
def endStroke (s : State) (n : NibIx) (k : SlotIx) (v : StrokeSlot) (st : StrokeStatus) : State :=
  let s := putSlot s n k none
  if v.reported then s
  else if st == .done && needsJudgement v then modNib s n fun x => { x with judging := x.judging ++ [v] }
  else writeStatus s n v.raw v.flags st (v.placed.getD (nowTime s))

/-- R117: a stroke that is not placed is counted and raises SKIPPED. -/
def notPlaced (s : State) (n : NibIx) (k : SlotIx) (v : StrokeSlot) (st : StrokeStatus) : State :=
  let s := endStroke s n k v st
  raiseNibEvent (modNib s n fun x => { x with lost := satAdd x.lost 1 }) n 1

/-- R116, R117: a stroke's fire time becomes known: it is locked, and judged against its placement limit. -/
def lockStroke (s : State) (n : NibIx) (k : SlotIx) (crossing limit : W64) : State :=
  match getSlot s.nibs[n] k with
  | none => s
  | some v =>
    let fire := crossing + BitVec.ofInt 64 (strokeOffset v.raw)
    let v := { v with locked := true, crossing := crossing, fire := fire, limit := limit, place := fire }
    if precedes fire limit then
      let s := raiseNibEvent (modNib s n fun x => { x with late := satAdd x.late 1 }) n 0
      let placeLate := { v with place := limit, flags := { v.flags with late := true } }
      match strokeLate v.raw with
      | 0 => putSlot s n k (some placeLate)
      | 1 => notPlaced s n k v .skippedLate
      | 2 =>
        if (limit - fire).toNat ≤ s.nibs[n].lateWin.toNat then putSlot s n k (some placeLate)
        else notPlaced s n k v .skippedLate
      | _ => raiseFault (notPlaced s n k v .faultLate) 49 (unitNo s .nib n)
    else putSlot s n k (some v)

/-- R128: the level of SAFE_LEVEL. -/
def safeLevel (x : Nib) : Drive := match fld x.safe 1 0 with | 0 => .low | 1 => .high | _ => .z

/-- The pin of a nib is driven from a record time on; another driven level is still to show at its ball (R147).
DEDUCED (log entry 158). -/
def driven (x : Nib) (d : Drive) (t : W64) : Nib :=
  if x.drive = d then x else { x with drive := d, drivenFrom := t, seen := d == .z }

/-- R431: from PORST_N low to START, no nib drives its pin; it does so until LOAD_FOLIO after a STOP_TO_SAFE.
DEDUCED (log entry 196). -/
def pinsLive (s : State) : Bool := s.folio.started || s.scribe.stoppedSafe

/-- R431: what a nib shows on its pin. -/
def pinDrive (s : State) (n : NibIx) : Drive := if pinsLive s then s.nibs[n].drive else .z

/-- The pin of a nib is driven from now on. -/
def setDrive (s : State) (n : NibIx) (d : Drive) : State := modNib s n fun x => driven x d (nowTime s)

/-- R135: with both verniers failed, an edge goes to a whole nanosecond. DESIGN CHOICE (log entry 157). -/
def vernierTime (x : Nib) (t : W64) : W64 :=
  if x.vernAOk || x.vernBOk || t &&& 7 == 0 then t
  else (t &&& ~~~7) + (if Config.placeUp t.toNat then 8 else 0)

/-- R118: where an edge of fire time `plan` whose earliest time is `t` is placed, and whether it was moved: with the
last edge where that has the same fire time and stands no earlier, else at least 8 eighths after it. -/
def edgeTime (x : Nib) (plan t : W64) : W64 × Bool :=
  let t := vernierTime x t
  match x.lastEdge, x.lastPlan with
  | some e, some p =>
    if p = plan ∧ notAfter t e then (e, e != t) else if precedes t (e + 8) then (e + 8, true) else (t, false)
  | _, _ => (t, false)

/-- R118, R140: an edge of fire time `plan` is placed at `t` or later; a reflex pulse that would end after it has
ended. DESIGN CHOICE (log entry 45). -/
def placeEdge (s : State) (n : NibIx) (plan t : W64) (d : Drive) : State :=
  modNib s n fun x =>
    let u := (edgeTime x plan t).1
    { driven x d u with
      lastEdge := some u, lastPlan := some plan, reflexEnd := x.reflexEnd.filter fun e => !precedes u e.1 }

/-- A level driven at a time, with an edge where it differs from the present one. -/
def driveAt (s : State) (n : NibIx) (t : W64) (d : Drive) : State :=
  if s.nibs[n].drive = d then s else placeEdge s n t t d

/-- R111: the action drives the pin. -/
def drivesPin (a : Action) : Bool :=
  match a with
  | .set | .clear | .toggle | .float | .pulse | .pulseLow | .pulseAngle | .burst | .patternStart | .patternStop
  | .safe => true
  | _ => false

/-- The earliest record time of the next edge or action of a slot, if it is known. -/
def nextDue (v : StrokeSlot) : Option W64 :=
  if v.placed.isSome then v.next else if v.locked then some v.place else none

/-- R118: the time that the next edge or action of a slot is planned for. -/
def planOf (v : StrokeSlot) : W64 :=
  if v.placed.isSome then (v.nextPlan.orElse fun _ => v.next).getD 0 else v.fire

/-- The next edge or action of a slot moves the pin. -/
def movesPin (v : StrokeSlot) : Bool := v.placed.isSome || (strokeAction v.raw).any drivesPin

/-- R118: another stroke of the nib has an edge of the same fire time. -/
def tied (x : Nib) (k : SlotIx) (plan : W64) : Bool :=
  x.lastPlan == some plan || (indices 16).any fun j => j != k && match x.slots[j] with
    | some v => (nextDue v).isSome && planOf v == plan && movesPin v
    | none => false

/-- R118, R29: one slot's next edge, at `t`, comes before another's, at `u`: by time, fire time and commit order.
DEDUCED (log entry 155). -/
def slotBefore (v w : StrokeSlot) (t u : W64) : Bool :=
  if t != u then precedes t u
  else if planOf v != planOf w then precedes (planOf v) (planOf w) else v.order < w.order

/-- R118: the first of the slots that `p` names, with its stroke and its time. DEDUCED (log entry 41). -/
def firstStroke (x : Nib) (p : StrokeSlot → Bool) : Option (SlotIx × StrokeSlot × W64) :=
  (indices 16).foldl (fun best k =>
    match x.slots[k] with
    | none => best
    | some v => match (if p v then nextDue v else none), best with
      | some t, some (_, w, u) => if slotBefore v w t u then some (k, v, t) else best
      | some t, none => some (k, v, t)
      | none, _ => best) none

/-- R118: the slot whose edge or action comes next on this nib, its time, and the time at which it is placed. -/
def firstSlot (x : Nib) : Option (SlotIx × W64 × W64) :=
  let e := (firstStroke x movesPin).map fun (k, v, t) => (k, v, t, (edgeTime x (planOf v) t).1)
  match e, firstStroke x (!movesPin ·) with
  | some (k, v, t, u), some (j, w, r) =>
    if precedes r u || (r == u && w.order < v.order) then some (j, r, r) else some (k, t, u)
  | some (k, _, t, u), none => some (k, t, u)
  | none, some (j, _, r) => some (j, r, r)
  | none, none => none

/-- R144: BIT_NS in eighths. -/
def bitEighths (x : Nib) : Nat := 8 * max 1 (fld x.param1 15 0)

/-- R132: the planned time of the next bit, or of the end. -/
def nextBitTime (x : Nib) (p : PatternRun) : W64 := p.base + BitVec.ofNat 64 (p.index * bitEighths x)

/-- What a nib places of itself: the next edge or action of a slot, a bit of its pattern, the end of a reflex pulse. -/
inductive OutEvent | slot (k : SlotIx) | bit | reflexEnd
  deriving DecidableEq, Repr

/-- R118, R140: what the nib places next, and when: the earliest, then the pattern's bit before another stroke's edge,
and the end of a reflex pulse after both. DEDUCED (log entry 156). -/
def nextOut (x : Nib) : Option (OutEvent × W64) :=
  let bit := x.pattern.map fun p =>
    let t := nextBitTime x p
    (OutEvent.bit, t, (edgeTime x t t).1)
  let slot := (firstSlot x).map fun (k, t, u) => (OutEvent.slot k, t, u)
  let fin := x.reflexEnd.map fun (t, _, _) => (OutEvent.reflexEnd, t, (edgeTime x t t).1)
  let sooner (a b : Option (OutEvent × W64 × W64)) : Option (OutEvent × W64 × W64) :=
    match a, b with
    | some (_, t, _), some (_, u, _) => if precedes u t then b else a
    | some _, none => a
    | none, _ => b
  (sooner (sooner bit slot) fin).map fun (e, _, u) => (e, u)

/-- The record time lies before the end of the present core cycle. -/
def dueNow (s : State) (t : W64) : Bool := precedes t (nowTime s + 8)

/-- This is what the nib places next, and its time has come. -/
def outDue (s : State) (n : NibIx) (e : OutEvent) : Bool :=
  match nextOut s.nibs[n] with
  | some (f, u) => f == e && dueNow s u
  | none => false

/-- The slot is the nib's next one, and its time has come. -/
def slotDue (s : State) (n : NibIx) (k : SlotIx) : Bool := outDue s n (.slot k)

/-- R158: a window that is open at `now` closes without a WIN_EMPTY record; one that has reached its closing time has
closed of itself. -/
def closeWindow (w : Window) (now : W64) : Window :=
  if !w.live then w
  else if w.closes.any fun c => notAfter c now then { w with live := false }
  else { w with live := false, closes := some now, admitted := true }

/-- R158: the open window of a nib closes. -/
def closeWindows (s : State) (n : NibIx) (now : W64) : State :=
  modNibIn s n fun i => { i with windows := i.windows.map fun w => closeWindow w now }

/-! Actions at their fire time (R111, R120, R132, R139, R158). -/

/-- R118, R124: the record time at which the edge of a stroke of fire time `plan` is placed, and its flags. -/
def edgeFlags (x : Nib) (k : SlotIx) (v : StrokeSlot) (plan t : W64) : W64 × StrokeFlags :=
  let (u, moved) := edgeTime x plan t
  (u, { v.flags with tie := v.flags.tie || tied x k plan, spaced := v.flags.spaced || moved })

/-- R122: a PULSE_ANGLE whose level HOLD keeps is ended by another stroke's edge. -/
def endHeld (s : State) (n : NibIx) (k : SlotIx) : State :=
  forAll (indices 16) s fun s j =>
    match getSlot s.nibs[n] j with
    | some v => if j ≠ k ∧ v.heldEnd ∧ v.placed.isSome then endStroke s n j v .done else s
    | none => s

/-- An action that places one edge and ends its stroke. -/
def fireLevel (s : State) (n : NibIx) (k : SlotIx) (v : StrokeSlot) (d : Drive) : State :=
  let (u, f) := edgeFlags s.nibs[n] k v v.fire v.place
  let s := endHeld (placeEdge s n v.fire v.place d) n k
  endStroke s n k { v with placed := some u, flags := f } .done

/-- R111: TOGGLE drives the inverse of the commanded level, a floating pin high. -/
def toggled : Drive → Drive | .high => .low | _ => .high

/-- R120: the first edge of a pulse; without room for its end edge the stroke is not placed.
DEDUCED (log entry 153). -/
def firePulse (s : State) (n : NibIx) (k : SlotIx) (v : StrokeSlot) (d : Drive) (fin : Option W64) : State :=
  let (u, f) := edgeFlags s.nibs[n] k v v.fire v.place
  let noRoom := match v.nextPlan.orElse fun _ => fin with
    | some e => !v.flags.truncated && notAfter e (u + 8)
    | none => false
  if noRoom then notPlaced s n k v .skippedLate
  else
    let s := endHeld (placeEdge s n v.fire v.place d) n k
    putSlot s n k (some { v with placed := some u, next := fin, flags := f })

/-- R120: the planned end of a PULSE or PULSE_LOW, from the planned fire time. -/
def pulseEnd (v : StrokeSlot) : W64 := v.fire + BitVec.ofNat 64 (strokeArg v.raw)

/-- R111: COUNT and HALF of a BURST. -/
def burstCount (r : W128) : Nat := strokeArg r / 2 ^ 20
def burstHalf (r : W128) : Nat := strokeArg r % 2 ^ 20

/-- R120: the planned falling edge of pulse `j` of a burst. -/
def burstFall (v : StrokeSlot) (j : Nat) : W64 := v.fire + BitVec.ofNat 64 ((2 * j + 1) * burstHalf v.raw)

/-- R120: the first pulse that is placed: of a late burst, the first that still has room after its placement limit. -/
def burstFirst (v : StrokeSlot) : Option Nat :=
  (List.range (burstCount v.raw)).find? fun j => !precedes v.fire v.limit || precedes (v.limit + 8) (burstFall v j)

/-- R111, R120: the first edge of a burst. -/
def fireBurst (s : State) (n : NibIx) (k : SlotIx) (v : StrokeSlot) : State :=
  let planned (j : Nat) : W64 := v.fire + BitVec.ofNat 64 (2 * j * burstHalf v.raw)
  match burstFirst v with
  | none => notPlaced s n k v .skippedLate
  | some j =>
    let at_ := if precedes (planned j) v.place then v.place else planned j
    if at_ = v.place then
      let (u, f) := edgeFlags s.nibs[n] k v (planned j) at_
      let s := endHeld (placeEdge s n (planned j) at_ .high) n k
      putSlot s n k (some { v with
        placed := some u, next := some (burstFall v j), left := burstCount v.raw - j, highNow := true, flags := f })
    else putSlot s n k (some { v with place := at_ })

/-- R131: PWM_LOAD writes the duty shadow. -/
def firePwmLoad (s : State) (n : NibIx) (k : SlotIx) (v : StrokeSlot) : State :=
  let s := modNib s n fun x => { x with param1 := BitVec.ofNat 32 (strokeArg v.raw) }
  endStroke s n k { v with placed := some v.place } .done

/-- R132: the level of one bit of the word being serialized. -/
def bitDrive (w : W128) (i : Nat) : Drive := if tst w (i % 128) then .high else .low

/-- R132: the word of the pattern that holds bit `i`; words past the end of the bank wrap. -/
def patternWord (s : State) (n : NibIx) (start : Fin 4096) (i : Nat) : W128 × State :=
  let b : InkIx := Fin.ofNat 64 (fld s.nibs[n].param0 5 0)
  inkRead (usePort s b) b (Fin.ofNat 4096 (start.val + i / 128))

/-- R144: PARAM0.IDLE, and PARAM0.LOOP. -/
def idleDrive (x : Nib) : Drive := if tst x.param0 7 then .high else .low
def patternLoops (x : Nib) : Bool := tst x.param0 6

/-- R132: PATTERN_START drives bit 0 at its fire time; it replaces a pattern that runs. A late one begins with the bit
that its placement limit falls in. DEDUCED (log entry 150). -/
def firePatternStart (s : State) (n : NibIx) (k : SlotIx) (v : StrokeSlot) : State :=
  let s := match s.nibs[n].pattern with
    | some p => match getSlot s.nibs[n] p.slot with
      | some o => endStroke s n p.slot o .done
      | none => s
    | none => s
  let x := s.nibs[n]
  let arg := strokeArg v.raw
  let start : Fin 4096 := Fin.ofNat 4096 (arg % 4096)
  let bits := if arg / 4096 % 65536 = 0 then 65536 else arg / 4096 % 65536
  let past := (v.place - v.fire).toNat / bitEighths x
  let round := if patternLoops x then past / bits else 0
  let i := past - round * bits
  let (w, s) := if i < bits then patternWord s n start i else (0, s)
  let (u, f) := edgeFlags s.nibs[n] k v v.fire v.place
  let s := placeEdge s n v.fire v.place (if i < bits then bitDrive w i else idleDrive x)
  let s := modNib s n fun x => { x with pattern := some {
    start := start, bits := bits, index := min (i + 1) bits
    base := v.fire + BitVec.ofNat 64 (round * bits * bitEighths x), buf := w, slot := k } }
  putSlot s n k (some { v with placed := some u, next := none, flags := f })

/-- R132: the pattern ends: its stroke is done and PATTERN_DONE is raised. -/
def finishPattern (s : State) (n : NibIx) : State :=
  match s.nibs[n].pattern with
  | none => s
  | some p =>
    let s := modNib s n fun x => { x with pattern := none }
    let s := match getSlot s.nibs[n] p.slot with | some o => endStroke s n p.slot o .done | none => s
    raiseNibEvent s n 6

/-- R132: one bit of the pattern is driven; a new word is read where it begins. -/
def patternBit (s : State) (n : NibIx) (p : PatternRun) (i : Nat) (base t : W64) : State :=
  let (w, s) := if i % 128 = 0 then patternWord s n p.start i else (p.buf, s)
  let s := driveAt s n t (bitDrive w i)
  modNib s n fun x => { x with pattern := some { p with index := i + 1, base := base, buf := w } }

/-- R132: the next bit, the start of another round, or the end of the pattern. -/
def patternStep (s : State) (n : NibIx) : State :=
  match s.nibs[n].pattern with
  | none => s
  | some p =>
    let t := nextBitTime s.nibs[n] p
    if p.index < p.bits then patternBit s n p p.index p.base t
    else if patternLoops s.nibs[n] then patternBit s n p 0 t t
    else finishPattern (driveAt s n t (idleDrive s.nibs[n])) n

/-- R140: a reflex pulse ends with the inverse of its level. -/
def endReflex (s : State) (n : NibIx) : State :=
  match s.nibs[n].reflexEnd with
  | some (t, _, d) => modNib (placeEdge s n t t d) n fun x => { x with reflexEnd := none }
  | none => s

/-- R132: PATTERN_STOP ends a pattern and drives the idle level. -/
def firePatternStop (s : State) (n : NibIx) (k : SlotIx) (v : StrokeSlot) : State :=
  fireLevel (finishPattern s n) n k v (idleDrive s.nibs[n])

/-- R158: CAPTURE_ARM opens a window at its fire time; a window it replaces forms no WIN_EMPTY. -/
def fireCaptureArm (s : State) (n : NibIx) (k : SlotIx) (v : StrokeSlot) : State :=
  let arg := strokeArg v.raw
  let s := if tst s.nibs[n].inp.ctrl 3 then
      let s := closeWindows s n v.place
      modNibIn s n fun i => { i with windows := { opened := v.place, closes := if arg = 0 then none else some (v.place + BitVec.ofNat 64 arg) } :: i.windows }
    else s
  endStroke s n k { v with placed := some v.place } .done

/-- R146: ARM_MODE of a link; 3 acts as 0. DESIGN CHOICE (log entry 199). -/
def linkMode (x : ReflexLink) : Nat := x.armMode % 3

/-- R139: REFLEX_ARM arms or disarms a STROKE-mode link. -/
def fireReflexArm (s : State) (n : NibIx) (k : SlotIx) (v : StrokeSlot) : State :=
  let arg := strokeArg v.raw
  let l : LinkIx := Fin.ofNat 64 (arg % 64)
  let x := s.links[l]
  let s := if linkMode x = 2 ∧ x.run then
      modLink s l fun x => { x with armed := !arg.testBit 6, armedAt := some s.time.tb }
    else s
  endStroke s n k { v with placed := some v.place } .done

/-- R111: the first edge or action of a stroke. -/
def fireAction (s : State) (n : NibIx) (k : SlotIx) (v : StrokeSlot) (a : Action) : State :=
  match a with
  | .nop | .cancel => s
  | .set => fireLevel s n k v .high
  | .clear => fireLevel s n k v .low
  | .toggle => fireLevel s n k v (toggled s.nibs[n].drive)
  | .float => fireLevel s n k v .z
  | .pulse => firePulse s n k v .high (some (pulseEnd v))
  | .pulseLow => firePulse s n k v .low (some (pulseEnd v))
  | .pulseAngle => firePulse s n k v .high v.next
  | .burst => fireBurst s n k v
  | .pwmLoad => firePwmLoad s n k v
  | .patternStart => firePatternStart s n k v
  | .patternStop => firePatternStop s n k v
  | .captureArm => fireCaptureArm s n k v
  | .reflexArm => fireReflexArm s n k v
  | .safe => fireLevel s n k v (safeLevel s.nibs[n])

/-- R120: the end edge of a pulse, of the last pulse of a burst, or of a PULSE_ANGLE; the slot is freed. -/
def fireEnd (s : State) (n : NibIx) (k : SlotIx) (v : StrokeSlot) (t : W64) : State :=
  let d : Drive := if strokeAction v.raw = some .pulseLow then .high else .low
  let (_, f) := edgeFlags s.nibs[n] k v (planOf v) t
  endStroke (endHeld (placeEdge s n (planOf v) t d) n k) n k { v with flags := f } .done

/-- R111: a later edge of a burst, other than its last. -/
def fireBurstEdge (s : State) (n : NibIx) (k : SlotIx) (v : StrokeSlot) (t : W64) : State :=
  let (_, f) := edgeFlags s.nibs[n] k v t t
  let s := endHeld (placeEdge s n t t (if v.highNow then .low else .high)) n k
  putSlot s n k (some { v with
    next := some (t + BitVec.ofNat 64 (burstHalf v.raw))
    left := if v.highNow then v.left - 1 else v.left
    highNow := !v.highNow
    flags := f })

/-- The next edge of a slot is the one that ends its stroke. -/
def isEndEdge (v : StrokeSlot) : Bool :=
  v.placed.isSome && (strokeAction v.raw != some .burst || (v.left == 1 && v.highNow))

/-- What the next edge or action of a slot is. -/
def fireSlot (s : State) (n : NibIx) (k : SlotIx) : State :=
  match getSlot s.nibs[n] k with
  | none => s
  | some v =>
    if v.placed.isSome then
      match v.next with
      | none => s
      | some t => if isEndEdge v then fireEnd s n k v t else fireBurstEdge s n k v t
    else match strokeAction v.raw with
      | some a => if v.locked then fireAction s n k v a else s
      | none => s

/-- What a nib places of itself is placed. -/
def outStep (s : State) (n : NibIx) : OutEvent → State
  | .slot k => fireSlot s n k
  | .bit => patternStep s n
  | .reflexEnd => endReflex s n

/-- R128, R129, R398: edges and actions of a nib whose times precede `cut` are placed, in order. -/
def fireBefore (s : State) (n : NibIx) (cut : W64) : Nat → State
  | 0 => s
  | fuel + 1 =>
    match nextOut s.nibs[n] with
    | some (e, t) => if precedes t cut then fireBefore (outStep s n e) n cut fuel else s
    | none => s

/-! Cancelling, hold, SAFE and disabling. -/

/-- A stroke in a slot is cancelled; all but a cancel by tag raise CANCELLED (R143). -/
def cancelSlot (s : State) (n : NibIx) (k : SlotIx) (st : StrokeStatus) : State :=
  match getSlot s.nibs[n] k with
  | none => s
  | some v =>
    let s := endStroke s n k v st
    if st == .cancelledTag then s else raiseNibEvent s n 4

/-- Every stroke in the slots of a nib is cancelled, in commit order. -/
def cancelAll (s : State) (n : NibIx) (st : StrokeStatus) : State :=
  let ks := (indices 16).filter fun k => (getSlot s.nibs[n] k).isSome
  let rank (k : SlotIx) : Nat := ((getSlot s.nibs[n] k).map (·.order)).getD 0
  forAll (ks.mergeSort fun a b => rank a ≤ rank b) s fun s k => cancelSlot s n k st

/-- R132: the pattern ends, raising PATTERN_DONE. -/
def endPattern (s : State) (n : NibIx) : State :=
  if (s.nibs[n].pattern).isSome then raiseNibEvent (modNib s n fun x => { x with pattern := none }) n 6 else s

/-- R128, R479: everything that the nib is placing stops without an end edge, and the pin goes to SAFE_LEVEL. -/
def stopOutput (s : State) (n : NibIx) (st : StrokeStatus) : State :=
  let s := endPattern (cancelAll s n st) n
  modNib s n fun x => { driven x (safeLevel x) (nowTime s) with
    pwmOn := false, emuFrom := none, emuOn := false, reflexEnd := none }

/-- R128: entry into the SAFE state. Edges whose times precede `cut` are placed first. -/
def enterSafe (s : State) (n : NibIx) (cut : W64) : State :=
  if s.nibs[n].inSafe then s
  else
    let s := modNib (fireBefore s n cut 64) n fun x => { x with inSafe := true }
    let s := closeWindows (stopOutput s n .cancelledSafe) n (nowTime s)
    raiseNibEvent s n 5

/-- R26: a CONTROL.SAFE of the nib's unit or of a glyph above it is 1. -/
def safeAbove (us : List UnitSt) : Nat → Nat → Bool
  | 0, _ => false
  | fuel + 1, u =>
    match findUnit us u with
    | some x => x.safe || (x.rec_.parent != 0xFFFF && safeAbove us fuel x.rec_.parent)
    | none => false

/-- R128, R396, R398: a cause of the SAFE state holds for the nib. -/
def safeCause (s : State) (n : NibIx) : Bool :=
  let x := s.nibs[n]
  bound s .nib n && (x.safeN || x.stopped
    || (match unitOf s .nib n with
        | some u => safeAbove s.folio.units (s.folio.units.length + 1) u.rec_.unit
        | none => false)
    || s.blotter.classes.toList.any fun c => c.level == 4 || (c.level == 3 && c.scope.getLsbD n))

/-- R128, R129, R398: every nib for which a cause holds enters the SAFE state; edges up to 8 eighths after the present
cycle's record time are placed. -/
def reviewSafe (s : State) : State :=
  forAll (indices 256) s fun s n => if safeCause s n then enterSafe s n (nowTime s + 8) else s

/-- R128: at a tick, every nib with no cause left leaves the SAFE state. -/
def leaveSafe (s : State) : State :=
  forAll (indices 256) s fun s n =>
    if s.nibs[n].inSafe && !safeCause s n then modNib s n fun x => { x with inSafe := false } else s

/-- R127: a withheld commit of the nib's owner, at the tick it would have taken effect. -/
def holdNib (s : State) (n : NibIx) : State :=
  if tst s.nibs[n].safe 2 then
    modNib (stopOutput s n .cancelledHold) n fun x => { x with held := true }
  else s

/-- R127: every nib that the quill owns. -/
def holdOwned (s : State) (q : QuillIx) : State :=
  forAll (indices 256) s fun s n => if s.nibs[n].owner = some q then holdNib s n else s

/-- R479: the nib's effective enable goes to 0. -/
def disableNib (s : State) (n : NibIx) : State :=
  modNib (stopOutput s n .cancelledDisable) n fun x => { x with run := false }

/-- R479: the nib's effective enable goes to 1; the pin stays at SAFE_LEVEL. -/
def enableNib (s : State) (n : NibIx) : State :=
  modNib s n fun x => { x with run := true, pwmOn := false, pwmBad := false, emuFrom := none, emuOn := false }

end Sys2Proof.Machine
end

