-- ==== Sys2Proof/Machine/Blotter.lean ====
section
/-! DEFINITION. The blotter (chapter 16): how a raise changes its class (R399), the scope (R397), `settle`, which
judges every raise a command has caused, acknowledgement (R400), recovery (R401), and the end of an injection
(R414). -/
namespace Sys2Proof.Machine

/-- R393, R394: the configured level of a source; source 24 is fixed at L2. -/
def configuredLevel (s : State) (src : Nat) : Nat :=
  if src = 24 then 2 else if h : src < 256 then s.blotter.levels[src].val + 1 else 1

/-- R397: the nibs in the scope of a raise of a unit. -/
def scopeOf (s : State) (unit : Nat) : BitVec 256 :=
  if unit = 0xFFF ∨ unit = 0 then BitVec.allOnes 256
  else match findUnit s.folio.units unit with
    | some u => nibMask s.folio.units u.rec_.parent
    | none => BitVec.allOnes 256

/-- R399: the new level in force, from the level, UNACK and the change of this ruling before the raise. -/
def raisedLevel (before : Nat × Bool × Bool) (configured : Nat) : Nat :=
  let (level, unack, changed) := before
  if level = 0 then configured
  else if unack && !changed then min 4 (max (level + 1) configured)
  else max level configured

/-- R417: an acknowledgement of the class in the present cycle; a raise of that cycle is judged before it. -/
def ackedNow (f : FaultClass) (tb : W64) : Option Bool := (f.acked.filter fun x => x.1 == tb).map (·.2)

/-- R399, R417: a class after a raise at TB `tb`; raises of one cycle are judged as one at the highest level. -/
def raiseClass (f : FaultClass) (tb : W64) (frame : Word) (src unit configured : Nat) (scope : BitVec 256) :
    FaultClass :=
  let joins := f.lastTb == some tb
  let before := if joins then f.before else (f.level, (ackedNow f tb).getD f.unack, f.changed)
  let top := if joins then max f.cycleLevel configured else configured
  let level := raisedLevel before top
  let enters := f.level == 0
  { f with
    level := level
    unack := (ackedNow f tb).isNone
    raises := if enters then 1 else satAdd f.raises 1
    last := at_ 0 src ||| at_ 8 unit ||| at_ 20 level
    entry := if enters then frame else f.entry
    quiet := 0
    scope := (if enters then 0 else f.scope) ||| scope
    changed := f.changed || level != f.level
    lastTb := some tb
    before := before
    cycleLevel := top }

/-- The class of a source (R392). -/
def classOf (src : Nat) : ClassIx := Fin.ofNat 32 (src / 8)

/-- R392, R399: one raise is judged. -/
def takeRaise (s : State) (r : Raise) : State :=
  let c := classOf r.source
  let f := s.blotter.classes[c]
  let f' := raiseClass f s.time.tb (lo32 s.time.frame) r.source r.unit
    (r.level.getD (configuredLevel s r.source)) (scopeOf s r.unit)
  let s := modClass s c fun _ => f'
  let s := modBlotter s fun b => { b with
    sticky := b.sticky ||| (1#256 <<< r.source)
    lastTime := nowTime s
    lastSrc := f'.last
    raises := b.raises + 1 }
  let s := if f.level < f'.level then
      let stale := if f.lastTb = some s.time.tb ∧ 0 < f.level then 3 + f.level else 0
      let s := modEic s fun e => { e with causes := e.causes.eraseP fun x => x.val == stale }
      pushCause s (3 + f'.level)
    else s
  if 3 ≤ f'.level then reviewSafe s else s

/-- Every raise on its way is judged, in order; the SAFE entries a raise causes may bring further raises. No command
uses the fuel up; were one to, what is left would be dropped. -/
def settleFor : Nat → State → State
  | 0, s => modBlotter s fun b => { b with queue := [] }
  | fuel + 1, s =>
    match s.blotter.queue with
    | [] => s
    | r :: rest => settleFor fuel (takeRaise (modBlotter s fun b => { b with queue := rest }) r)

/-- More raises than this no command can cause: every nib enters the SAFE state once. -/
def settleFuel : Nat := 65536

/-- Every raise that a command caused is judged. -/
def settle (s : State) : State := settleFor settleFuel s

/-- The outcome of every command: its effect, with every raise it caused judged. -/
def finish (s : State) : Host.Outcome State Fault Refusal := .next (settle s)

/-- R400, R417: acknowledgement of one class. -/
def ackClass (tb : W64) (f : FaultClass) : FaultClass :=
  { f with unack := false, acked := some (tb, (ackedNow f tb).getD f.unack) }

/-- R400: the classes that SOURCE and ALL name. -/
def ackMask (src : Nat) (all : Bool) : BitVec 32 := if all then BitVec.allOnes 32 else 1#32 <<< (classOf src).val

/-- R400: acknowledgement of the classes of a mask. -/
def ackClasses (b : Blotter) (tb : W64) (m : BitVec 32) : Blotter :=
  { b with classes := b.classes.mapIdx fun c f => if tst m c then ackClass tb f else f }

/-- R400: ACK_FAULT acts at its start. -/
def acknowledge (s : State) (src : Nat) (all : Bool) : State :=
  modBlotter s fun b => ackClasses b s.time.tb (ackMask src all)

/-- R400: a write of ACK acts in the cycle after. -/
def writeAck (s : State) (v : Word) : State :=
  modBlotter s fun b => { b with ackNext := b.ackNext ||| ackMask (fld v 7 0) (tst v 8) }

/-- R400: what writes of ACK have asked for. -/
def takeAcks (b : Blotter) (tb : W64) : Blotter :=
  if b.ackNext = 0 then b else { ackClasses b tb b.ackNext with ackNext := 0 }

/-- R401: QUIET_TIME in ns. -/
def quietNs (b : Blotter) : Nat := 1000000 * max 1 (fld b.quietTime 15 0)

/-- R401: the class waits at L4 for its acknowledgement. -/
def holdsL4 (b : Blotter) (f : FaultClass) : Bool := f.level == 4 && tst b.ctrl 0 && f.unack

/-- R401: the quiet timer of the class has reached QUIET_TIME. -/
def quietDue (b : Blotter) (f : FaultClass) : Bool := f.level != 0 && !holdsL4 b f && quietNs b ≤ f.quiet

/-- R401: a class leaves its fault state. -/
def leaveFault (f : FaultClass) : FaultClass :=
  { f with level := 0, unack := false, recoveries := satAdd f.recoveries 1, quiet := 0, scope := 0 }

/-- R401: the quiet timer of a class expires. -/
def execQuietTimerExpiry (c : ClassIx) (s : State) : Host.Outcome State Fault Refusal :=
  finish (if quietDue s.blotter s.blotter.classes[c] then modClass s c leaveFault else s)

/-- R414: the accesses of an injection have been made. -/
def injectionOver (j : Injection) : Bool := j.active && j.remaining == 0

/-- R414: the injection ends; CHECKER_FAIL if fewer than N were detected. -/
def execInjectionDone (s : State) : Host.Outcome State Fault Refusal :=
  let j := s.blotter.inj
  finish (if injectionOver j then
      let s := modBlotter s fun b => { b with inj := { b.inj with active := false } }
      if j.hits < j.total then raiseFault s 11 else s
    else s)

/-- R50, R418: the highest level in force. -/
def highestLevel (b : Blotter) : Nat := b.classes.toList.foldl (fun m f => max m f.level) 0

/-- R402: the level input of EIC source 3 + l. -/
def levelUnacked (b : Blotter) (l : Nat) : Bool := b.classes.toList.any fun f => f.level == l && f.unack

/-- R403: ALIVE may toggle. -/
def aliveRuns (b : Blotter) : Bool := highestLevel b != 4 && !b.wdogExpired

/-- R403: ALIVE_PERIOD in ns, brought to its nearer limit. -/
def alivePeriodNs (b : Blotter) : Nat := 1000 * min 100000 (max 10 (fld b.alivePeriod 16 0))

/-- R403: at a tick ALIVE toggles when its period has passed since its last toggle. -/
def toggleAlive (s : State) : State :=
  modBlotter s fun b =>
    let due := match b.aliveNs with | none => true | some n => alivePeriodNs b ≤ n
    if aliveRuns b && due then { b with alive := !b.alive, aliveNs := some 0 } else b

/-- R401, R403: a number of ns of TB passes for the quiet timers and for ALIVE. -/
def blotterTime (b : Blotter) (ns : Nat) : Blotter :=
  { b with
    aliveNs := b.aliveNs.map (· + ns)
    classes := if b.classes.toList.any fun f => f.level != 0 then
        b.classes.map fun f => if f.level != 0 && !holdsL4 b f then { f with quiet := f.quiet + ns } else f
      else b.classes }

end Sys2Proof.Machine
end

