-- ==== Sys2Proof/Machine/March.lean ====
section
/-! DEFINITION. Handovers (R321), the march engine (R326 to R329), migration and the ledger (R330, R331, R413), BAR4
(R316 to R318), and the INKCTL registers (R333, R334). -/
namespace Sys2Proof.Machine

/-! Free banks (R300) and exhausted spares (R31). -/

/-- R300: a physical bank is free when it is not retired, mapped, reserved for a staged leaf or a migration, the source
of a carry copy, or the holder of an understudy region. -/
def bankFree (s : State) (p : Nat) : Bool :=
  p < 68 && !s.ink.retired.getLsbD p
    && !(s.ink.banks.toList.any fun x => x.phys == some p || (x.redirect.map (·.2)) == some p)
    && !(s.co.staged.any fun l => l.banks.any fun b => b.2 == p)
    && !(s.co.copies.any fun c => c.source == p && !c.words.isEmpty)
    && s.ink.march.understudy != some p
    && !(s.ink.migration.any fun g => g.target == p)

/-- R309: words are still to be carried from a physical bank. -/
def carriesFrom (s : State) (p : Nat) : Bool := s.co.copies.any fun c => c.source == p && !c.words.isEmpty

/-- The free physical banks, ascending. -/
def freeBanks (s : State) : List Nat := (List.range 68).filter (bankFree s)

/-- R330, R331: a physical bank is retired. -/
def retireBank (s : State) (p cause place : Nat) (unit : Nat := 0xFFF) : State :=
  let s := modInk s fun k => { k with
    retired := k.retired ||| (1#68 <<< p), evtStatus := setBit k.evtStatus 2 true }
  raiseFault (addLedger s 2 p cause place) 43 unit

/-- R31, R301: the spare inkwell banks after a change; the understudy's bank, and one that a staged leaf reserves, is a
spare still unused. -/
def reviewBanks (s : State) : State :=
  let mapped (p : Nat) : Bool := s.ink.banks.toList.any fun x => x.phys == some p
  noteExhausted s 1 ((freeBanks s).isEmpty && s.ink.march.understudy.isNone
    && !(s.co.staged.any fun l => l.banks.any fun x => !mapped x.2))

/-! Handovers (R319, R321). -/

/-- R334: an owner as OWNER shows or names it. -/
def ownerOf (v : Word) : Option InkOwner :=
  let k := match fld v 2 0 with
    | 0 => some OwnerKind.none | 1 => some .quill | 2 => some .scribe | 3 => some .dma | 4 => some .host | _ => none
  k.map fun k => { kind := k, quill := (v.extractLsb' 4 4).toFin, shareDma := tst v 8, shareHost := tst v 9 }

/-- R334: OWNER. -/
def ownerWord (x : Inkwell) : Word :=
  let o := x.owner
  at_ 0 o.kind.code ||| at_ 4 o.quill ||| bitAt 8 o.shareDma ||| bitAt 9 o.shareHost ||| at_ 16 x.gen.toNat

/-- R321: the handover that an OWNER write asks for, unless it is refused. -/
def handoverFor (s : State) (b : InkIx) (v : Word) : Option InkOwner :=
  let x := s.ink.banks[b]
  match ownerOf v with
  | none => none
  | some o =>
    if fld v 31 16 = x.gen.toNat ∧ x.pend = none ∧ x.phys ≠ none ∧ x.destroying = false
      ∧ (o.kind ≠ .quill ∨ (unitOf s .quill o.quill).isSome) then some o
    else none

/-- R321: an OWNER write. A handover that involves no quill acts in the cycle after acceptance. -/
def writeOwner (s : State) (b : InkIx) (v : Word) : State :=
  match handoverFor s b v with
  | none => raiseBankEvent (modBank s b fun x => { x with refused := true }) b 1
  | some o =>
    let quill := o.kind == .quill || s.ink.banks[b].owner.kind == .quill
    modBank s b fun x => { x with pend := some { owner := o, ticks := if quill then commitTicks s else 0 } }

/-- R321: a handover takes effect. -/
def applyHandover (s : State) (b : InkIx) (o : InkOwner) : State :=
  raiseBankEvent (modBank s b fun x => { x with owner := o, gen := x.gen + 1, pend := none }) b 0

/-- R321: the handovers due in the present core cycle, which no commit bounds. -/
def handoversDue (s : State) : State :=
  forAll (indices 64) s fun s b =>
    match s.ink.banks[b].pend with
    | some p => if p.ticks = 0 ∧ !s.ink.banks[b].destroying then applyHandover s b p.owner else s
    | none => s

/-- R253 step 5: the handovers bound to a commit. One waits for the end of a destroying test of its bank (R327).
DEDUCED (log entry 182). -/
def handoversTick (s : State) : State :=
  forAll (indices 64) s fun s b =>
    match s.ink.banks[b].pend with
    | some p =>
      if p.ticks ≤ 1 then (if s.ink.banks[b].destroying then s else applyHandover s b p.owner)
      else modBank s b fun x => { x with pend := some { p with ticks := p.ticks - 1 } }
    | none => s

/-! Copies (R309, R328, R330). -/

/-- The logical bank that a physical one serves. -/
def mappedTo (s : State) (p : Nat) : Option InkIx :=
  (indices 64).find? fun (b : InkIx) => s.ink.banks[b].phys == some p

/-- R309, R325, R330: the carry copies end. A bank in which one of them found a word beyond correction is retired, or
migrates where it serves a logical bank. -/
def endCopies (s : State) : State :=
  let copies := s.co.copies
  forAll copies (modCo s fun k => { k with copies := [] }) fun s c =>
    match c.lost with
    | none => s
    | some w => match mappedTo s c.source with
      | some b => wantMigration s b 2
      | none => if tst s.ink.retired c.source then s else reviewBanks (retireBank s c.source 2 w)

/-- A number of words of a physical bank written zero. -/
def zeroBank (s : State) (p : Nat) : State :=
  modInk s fun k => { k with
    cells := k.cells.filter fun c => c.1 / 65536 != p
    errors := k.errors.filter fun e => e.1 / 4096 != p }

/-- R328: 8 ns a word. -/
def wordDue (s : State) (since : W64) : Bool := 8 ≤ (s.time.tb - since).toNat

/-- R328: the copy or the restore of a slice goes on by a word. -/
def sliceCopy (s : State) : State :=
  let m := s.ink.march
  if h : m.bank < 64 then
    let b : InkIx := ⟨m.bank, h⟩
    if m.words < 256 && wordDue s m.since then
      let w : Fin 4096 := Fin.ofNat 4096 (256 * m.slice + m.words)
      match m.phase with
      | .copy =>
        let (v, s) := copyRead s b w
        let s := match m.understudy with | some u => putWhole s (4096 * u + w) v | none => s
        modInk s fun k => { k with march := { k.march with words := m.words + 1, since := m.since + 8 } }
      | .restore =>
        let (v, s) := copyRead s b w
        let s := match s.ink.banks[b].phys with | some p => putWhole s (4096 * p + w) v | none => s
        modInk s fun k => { k with march := { k.march with words := m.words + 1, since := m.since + 8 } }
      | _ => s
    else s
  else s

/-- R330: the words of a migration that are already in the target. -/
def migrationSkips (s : State) (g : Migration) : Nat :=
  match s.ink.banks[g.bank].redirect with
  | some (slice, p) => if p = g.target ∧ g.copied / 256 = slice then 256 - g.copied % 256 else 0
  | none => 0

/-- R330: the copy of a migration goes on by a word. -/
def migrationCopy (s : State) : State :=
  match s.ink.migration with
  | some g =>
    let skip := migrationSkips s g
    if 0 < skip then modInk s fun k => { k with migration := some { g with copied := g.copied + skip } }
    else if g.copied < 4096 && wordDue s g.since then
      let w : Fin 4096 := Fin.ofNat 4096 g.copied
      let (v, s) := copyRead s g.bank w
      let s := putWhole s (4096 * g.target + w) v
      modInk s fun k => { k with migration := some { g with copied := g.copied + 1, since := g.since + 8 } }
    else s
  | none => s

/-- R329: the test of a free bank is given up, as the bank is taken. -/
def endFreeTest (s : State) (p : Nat) : State :=
  if s.ink.march.freeTesting = some p then
    modInk s fun k => { k with march := { k.march with phase := .idle, freeTesting := none } }
  else s

/-- R330: the next bank that waits begins its migration; with no target it keeps its physical bank. -/
def migrationBegin (s : State) : State :=
  match s.ink.migration, s.ink.waiting with
  | none, (b, cause) :: rest =>
    let s := modInk s fun k => { k with waiting := rest }
    let x := s.ink.banks[b]
    let target := if x.failed then x.redirect.map (·.2) else (freeBanks s).head?
    match target with
    | some p => modInk (endFreeTest s p) fun k => { k with
        migration := some { bank := b, target := p, since := s.time.tb, cause := cause } }
    | none => failureWithoutSpare (noteExhausted s 1 true) (unitNo s .inkwell b)
  | _, _ => s

/-- R330: the words of a migration have all been copied. -/
def migrationCopied (s : State) : Bool :=
  match s.ink.migration with | some g => 4096 ≤ g.copied && !g.done | none => false

/-- R330: a migration copy completes and awaits its tick. -/
def execMigrationCopyDone (s : State) : Host.Outcome State Fault Refusal :=
  finish (if migrationCopied s then
      modInk s fun k => { k with migration := k.migration.map fun g => { g with done := true } }
    else s)

/-- R330: at a tick the bank of a completed migration maps to its target. -/
def bankSwitch (s : State) : State :=
  match s.ink.migration with
  | some g =>
    if g.done then
      let old := s.ink.banks[g.bank].phys
      let place := match s.ink.banks[g.bank].redirect with | some (slice, _) => slice | none => 0
      let s := modBank s g.bank fun x => { x with phys := some g.target, redirect := none, failed := false }
      let s := modInk s fun k => { k with migration := none }
      let s := raiseBankEvent s g.bank 7
      let s := match old with
        | some p => retireBank s p g.cause place (unitNo s .inkwell g.bank)
        | none => s
      reviewBanks s
    else s
  | none => s

/-! The march engine (R326 to R329). -/

/-- R334: ALG 0 acts as 3. -/
def marchOps (v : Word) : Nat := match fld v 1 0 with | 1 => 10 | 2 => 4 | _ => 14
/-- R334. -/
def marchBgEn (v : Word) : Bool := tst v 2
/-- R334: INTERVAL. -/
def marchInterval (v : Word) : Nat := max 1 (fld v 31 16)

/-- R327, R328: a test of `words` words that began at `since` has run its time: one operation per ACLK cycle. -/
def testOver (s : State) (words : Nat) (since : W64) : Bool :=
  2 * marchOps s.ink.march.ctrl * words ≤ (s.time.tb - since).toNat

/-- The march engine changed. -/
def modMarch (s : State) (f : March → March) : State := modInk s fun k => { k with march := f k.march }

/-- R329: a bank whose slices are tested: backed, and neither migrating nor redirected nor in a destroying test. -/
def marchable (s : State) (b : InkIx) : Bool :=
  let x := s.ink.banks[b]
  x.phys.isSome && x.redirect.isNone && !x.destroying && !(s.ink.migration.any fun g => g.bank == b)

/-- R329: a pass ends: the understudy moves to the next free bank, and every other free bank is tested. -/
def passEnds (s : State) : State :=
  let others := freeBanks s
  let now := s.ink.march.understudy
  let next := match now with
    | some u => match others.find? fun p => u < p with | some p => some p | none => others.head?
    | none => others.head?
  let under := match next with | some p => some p | none => now
  let rest := ((others ++ now.toList).filter fun p => some p != under).mergeSort
  modInk s fun k => { k with
    evtStatus := setBit k.evtStatus 0 true
    march := { k.march with
      passes := k.march.passes + 1, understudy := under, freeToTest := rest, nextBank := 0, nextSlice := 0 } }

/-- R329: the engine goes on to the next slice of the bank, or to the next bank. -/
def nextSliceOf (s : State) : State :=
  let m := s.ink.march
  if m.slice + 1 < 16 then modMarch s fun m => { m with phase := .idle, nextBank := m.bank, nextSlice := m.slice + 1 }
  else
    let s := if h : m.bank < 64 then
        modBank s ⟨m.bank, h⟩ fun x => { x with passes := x.passes + 1 }
      else s
    let s := modMarch s fun m => { m with phase := .idle, nextBank := m.bank + 1, nextSlice := 0 }
    if (indices 64).any fun b => m.bank < b.val && s.ink.banks[b].phys.isSome then s else passEnds s

/-- R329: background testing stops for want of an understudy; it is tried again an INTERVAL later. -/
def marchStops (s : State) : State :=
  let again := s.ink.march.stopped
  let s := modMarch s fun m => { m with stopped := true, rulings := 0 }
  if again then s
  else
    raiseFault (modInk s fun k => { k with evtStatus := setBit k.evtStatus 1 true }) 29

/-- R328: a slice begins to be copied. -/
def sliceBegin (s : State) (b : InkIx) (slice : Nat) : State :=
  modMarch s fun m => { m with
    bank := b, slice := slice, phase := .copy, words := 0, since := s.time.tb, rulings := 0, stopped := false }

/-- R329: a slice, or the test of a free bank, is due at this tick. DEDUCED (log entry 64). -/
def marchDue (s : State) : Bool :=
  let m := s.ink.march
  marchBgEn m.ctrl && m.phase == .idle && m.destroying.isNone && s.time.cycle == 0
    && marchInterval m.ctrl ≤ m.rulings

/-- R329: what follows a pass that ended for want of a further bank: the free banks it leaves to test, the first slice
of the next pass, or, with nothing to test, another INTERVAL. -/
def anotherPass (s : State) : State :=
  if !s.ink.march.freeToTest.isEmpty then s
  else match (indices 64).find? (marchable s) with
    | some b => sliceBegin s b 0
    | none => modMarch s fun m => { m with rulings := 0 }

/-- R329: the next preserving test, or the next free bank's destroying test, begins. -/
def marchBegin (s : State) : State :=
  let s := modMarch s fun m => { m with understudy :=
    (m.understudy.filter fun u => !tst s.ink.retired u && !carriesFrom s u).or (freeBanks s).head? }
  match s.ink.march.freeToTest with
  | p :: rest =>
    if bankFree s p then
      modMarch s fun m => { m with
        phase := .freeBank, freeTesting := some p, freeToTest := rest, since := s.time.tb, rulings := 0 }
    else modMarch s fun m => { m with freeToTest := rest }
  | [] =>
    match s.ink.march.understudy with
    | none => marchStops s
    | some _ =>
      let m := s.ink.march
      let from_ := (indices 64).filter fun b => m.nextBank ≤ b.val && marchable s b
      match from_.head? with
      | some b => sliceBegin s b (if b.val = m.nextBank then m.nextSlice else 0)
      | none => anotherPass (passEnds s)

/-- R329: a preserving test begins copying the next slice. -/
def execMarchSliceStart (s : State) : Host.Outcome State Fault Refusal :=
  finish (if marchDue s then marchBegin s else s)

/-- R328: the slice is copied: every access to it is served by the understudy from now on. -/
def execSliceCopyDone (s : State) : Host.Outcome State Fault Refusal :=
  let m := s.ink.march
  finish (if h : m.bank < 64 then
      if m.phase == .copy && m.words == 256 then
        let s := modBank s ⟨m.bank, h⟩ fun x => { x with
          redirect := m.understudy.map fun u => (m.slice, u), lastSlice := m.slice }
        modMarch s fun m => { m with phase := .test, since := s.time.tb }
      else s
    else s)

/-- R328, R330: the test of a slice ends. A slice that fails stays redirected, and its bank migrates. -/
def sliceTested (s : State) (pass : Bool) : State :=
  let m := s.ink.march
  if pass then modMarch s fun m => { m with phase := .restore, words := 0, since := s.time.tb }
  else if h : m.bank < 64 then
    let b : InkIx := ⟨m.bank, h⟩
    let s := raiseBankEvent (modBank s b fun x => { x with failed := true }) b 6
    let s := modMarch s fun m => { m with failSlices := satAdd m.failSlices 1, understudy := none }
    reviewBanks (nextSliceOf (wantMigration s b 1))
  else s

/-- R328: a slice's test ends. -/
def execSliceTestDone (pass : Bool) (s : State) : Host.Outcome State Fault Refusal :=
  finish (if s.ink.march.phase == .test && testOver s 256 s.ink.march.since then sliceTested s pass else s)

/-- R328: the slice is restored and awaits the lift. -/
def execSliceRestoreDone (s : State) : Host.Outcome State Fault Refusal :=
  finish (if s.ink.march.phase == .restore && s.ink.march.words == 256 then
      modMarch s fun m => { m with phase := .lift }
    else s)

/-- R328: at a tick the redirect of a restored slice is lifted. -/
def sliceLift (s : State) : State :=
  let m := s.ink.march
  if m.phase == .lift then
    if h : m.bank < 64 then
      nextSliceOf (modBank s ⟨m.bank, h⟩ fun x => { x with redirect := none })
    else s
  else s

/-- R329: a tick counts towards INTERVAL. -/
def marchTick (s : State) : State := modMarch s fun m => { m with rulings := m.rulings + 1 }

/-- R327: a destroying test of a logical bank begins. -/
def destroyBegin (s : State) (b : InkIx) : State :=
  let s := modBank s b fun x => { x with destroying := true, owner := { kind := .march } }
  modMarch s fun m => { m with destroying := some b, destroySince := s.time.tb }

/-- R327: a destroying test has run its time. -/
def destroyOver (s : State) : Bool :=
  let m := s.ink.march
  match m.destroying, m.freeTesting with
  | some _, _ => testOver s 4096 m.destroySince
  | none, some _ => m.phase == .freeBank && testOver s 4096 m.since
  | none, none => false

/-- R327, R329, R330: a destroying test ends; every word is left zero and the owner returns to none. -/
def destroyEnds (s : State) (pass : Bool) : State :=
  match s.ink.march.destroying with
  | some b =>
    let s := match s.ink.banks[b].phys with | some p => zeroBank s p | none => s
    let s := match s.ink.banks[b].redirect with
      | some (slice, u) => forAll (List.range 256) s fun s i => putWhole s (4096 * u + 256 * slice + i) 0
      | none => s
    let s := modBank s b fun x => { x with destroying := false, owner := {} }
    let s := modMarch s fun m => { m with destroying := none }
    if pass then s else wantMigration s b 1
  | none =>
    match s.ink.march.freeTesting with
    | some p =>
      let s := modMarch (zeroBank s p) fun m => { m with
        phase := .idle, freeTesting := none
        failBanks := if pass then m.failBanks else satAdd m.failBanks 1 }
      if pass then s else reviewBanks (retireBank s p 1 0)
    | none => s

/-! BAR4 (R316 to R318). -/

/-- R316, R317: byte `j` of an access that begins at a BAR4 address: the bank, the word and the byte in it. -/
def bar4Byte (addr j : Nat) : InkIx × Fin 4096 × Nat :=
  let rotated := 0x400000 ≤ addr
  let a := addr % 0x400000
  let (word, byte) :=
    if rotated then (a / 16 + j / 16, (a + j) % 16) else ((a + j) / 16, (a + j) % 16)
  (Fin.ofNat 64 (word / 4096), Fin.ofNat 4096 word, byte)

/-- The words of an access, in ascending order. -/
def bar4Words (addr len : Nat) : List (InkIx × Fin 4096) :=
  ((List.range len).map fun j => let (b, w, _) := bar4Byte addr j; (b, w)).eraseDups

/-- R318: the bytes of a write that fall into one word: their enables and data. -/
def bar4Lane (addr : Nat) (data : List (Option Byte)) (b : InkIx) (w : Fin 4096) : BitVec 16 × W128 :=
  (data.zipIdx).foldl (fun (acc : BitVec 16 × W128) (x : Option Byte × Nat) =>
    let (d, j) := x
    let (b', w', i) := bar4Byte addr j
    match d with
    | some d => if b' = b ∧ w' = w then (setBit acc.1 i true, setFld acc.2 (8 * i + 7) (8 * i) d.toNat) else acc
    | none => acc) (0, 0)

/-- R334: who an access path is. -/
def pathWho : Path → Accessor | .pcie => .pcie | .sp => .sp | .scribe => .scribe

/-! INKCTL (R333, R334). -/

/-- R333: three words of a 68-bit mask. -/
def mask68 (m : BitVec 68) (i : Nat) : Word := (m >>> (32 * i)).truncate 32

/-- R334: LEDGER. -/
def ledgerWord (k : InkSt) : Word :=
  at_ 0 k.ledger.length ||| at_ 8 k.volatileCount.toNat ||| bitAt 16 (k.ledger.length == 128)

/-- R334: COLD_MARCH. -/
def coldWord (k : InkSt) : Word := at_ 0 k.coldTested ||| at_ 8 k.coldRetired

/-- R330, R334: the words of a migration still to be copied; those of a failed slice are in the target already. -/
def wordsToCopy (s : State) (g : Migration) : Nat :=
  let ahead := match s.ink.banks[g.bank].redirect with
    | some (slice, p) => if p = g.target then 256 - min 256 (g.copied - 256 * slice) else 0
    | none => 0
  4096 - g.copied - ahead

/-- R334: MIGRATE. -/
def migrateWord (s : State) : Word :=
  match s.ink.migration with
  | some g => at_ 0 g.bank ||| at_ 8 g.target ||| at_ 16 (wordsToCopy s g) ||| bitAt 31 true
  | none => 0

/-- R333: a device-wide register as it stands. -/
def inkctlPeek (s : State) (off : Nat) : Word :=
  let k := s.ink
  let m := k.march
  let free : BitVec 68 := (freeBanks s).foldl (fun acc p => acc ||| (1#68 <<< p)) 0
  match off with
  | 0x00 => bitAt 0 (marchBgEn m.ctrl && !m.stopped) ||| bitAt 1 m.stopped ||| bitAt 2 k.migration.isSome
      ||| at_ 8 (min 4 (freeBanks s).length)
  | 0x04 => m.ctrl
  | 0x08 => at_ 0 m.bank ||| at_ 8 m.slice ||| at_ 12 m.phase.code ||| at_ 16 (m.understudy.getD 0)
  | 0x0C => m.passes
  | 0x10 => at_ 0 m.failSlices.toNat ||| at_ 16 m.failBanks.toNat
  | 0x14 => migrateWord s
  | 0x18 => mask68 k.retired 0
  | 0x1C => mask68 k.retired 1
  | 0x20 => mask68 k.retired 2
  | 0x24 => mask68 free 0
  | 0x28 => mask68 free 1
  | 0x2C => mask68 free 2
  | 0x30 => ledgerWord k
  | 0x34 => coldWord k
  | 0x38 => k.evtStatus
  | 0x3C => k.evtEnable
  | _ => 0

/-- R334: STATUS of a bank. -/
def bankStatus (s : State) (b : InkIx) : Word :=
  let x := s.ink.banks[b]
  bitAt 0 (match x.pend with | some p => 0 < p.ticks | none => false) ||| bitAt 1 x.refused
    ||| bitAt 2 x.redirect.isSome ||| bitAt 3 (s.ink.migration.any fun g => g.bank == b) ||| bitAt 4 x.destroying
    ||| bitAt 5 x.phys.isNone

/-- R333: a register of a bank as it stands. -/
def bankPeek (s : State) (b : InkIx) (off : Nat) : Word :=
  let x := s.ink.banks[b]
  match off with
  | 0x00 => ownerWord x
  | 0x04 => bankStatus s b
  | 0x08 => at_ 0 (x.phys.getD 0) ||| at_ 16 ((x.redirect.map (·.1)).getD 0)
  | 0x0C => at_ 0 x.corrected.toNat ||| at_ 16 x.uncorrected.toNat
  | 0x10 => x.eccAddr
  | 0x14 => at_ 0 x.bCollide.toNat ||| at_ 16 x.denied.toNat
  | 0x18 => at_ 0 x.waitDma.toNat ||| at_ 16 x.waitPcie.toNat
  | 0x1C => at_ 0 x.waitSp.toNat ||| at_ 16 x.waitScribe.toNat
  | 0x20 => at_ 0 x.passes.toNat ||| at_ 16 x.lastSlice
  | 0x24 => x.lastDenied
  | 0x28 => x.evtStatus
  | 0x2C => x.evtEnable
  | _ => 0

/-- R333: the INKCTL block. -/
def inkPeek (s : State) (off : Nat) : Word :=
  if off < 0x100 then inkctlPeek s off
  else if off < 0x1100 then bankPeek s (Fin.ofNat 64 ((off - 0x100) / 64)) ((off - 0x100) % 64) else 0

/-- R333: the counters that a read clears. -/
def inkReadClear (s : State) (off : Nat) : State :=
  if off < 0x100 then
    if off = 0x10 then modMarch s fun m => { m with failSlices := 0, failBanks := 0 } else s
  else if off < 0x1100 then
    let b : InkIx := Fin.ofNat 64 ((off - 0x100) / 64)
    match (off - 0x100) % 64 with
    | 0x0C => modBank s b fun x => { x with corrected := 0, uncorrected := 0 }
    | 0x14 => modBank s b fun x => { x with bCollide := 0, denied := 0 }
    | 0x18 => modBank s b fun x => { x with waitDma := 0, waitPcie := 0 }
    | 0x1C => modBank s b fun x => { x with waitSp := 0, waitScribe := 0 }
    | _ => s
  else s

/-- R333: a write to the INKCTL block. -/
def inkWrite (s : State) (off : Nat) (v : Word) : State :=
  if off < 0x100 then
    match off with
    | 0x38 => modInk s fun k => { k with evtStatus := w1c k.evtStatus v }
    | 0x3C => modInk s fun k => { k with evtEnable := v &&& 0xF }
    | _ => s
  else if off < 0x1100 then
    let b : InkIx := Fin.ofNat 64 ((off - 0x100) / 64)
    match (off - 0x100) % 64 with
    | 0x00 => writeOwner s b v
    | 0x04 => if tst v 1 then modBank s b fun x => { x with refused := false } else s
    | 0x28 => modBank s b fun x => { x with evtStatus := w1c x.evtStatus v }
    | 0x2C => modBank s b fun x => { x with evtEnable := v &&& 0xFF }
    | _ => s
  else s

end Sys2Proof.Machine
end

