-- ==== Sys2Proof/Machine/Dma.lean ====
section
/-! DEFINITION. The DMA engine (chapter 13): descriptors, beats, completion records and rings, the tail, halts and
their recovery, and the DMA registers. -/
namespace Sys2Proof.Machine

/-! Events (R346) and the link (R349). -/

/-- R346: a channel signals. -/
def signalChan (s : State) (c : DmaIx) : State :=
  let s := modDma s fun d => { d with evtStatus := setBit d.evtStatus c true }
  if tst s.dma.evtEnable c then pushCause s (16 + c) else s

/-- R349: why no request can be issued: the link is down, or Bus Master Enable is 0 or the function in D3hot. -/
def noRequest (s : State) : Option Nat :=
  if !s.host.linkUp then some 6 else if !s.host.bme || s.host.d3hot then some 5 else none

/-- R349, R357: a channel halts. -/
def haltChan (s : State) (c : DmaIx) (place : Nat) (write : Bool) (cause : Nat) (addr : W64) : State :=
  signalChan (modChan s c fun x => { x with
    state := .halted, errAddr := addr
    errInfo := at_ 0 place ||| bitAt 3 write ||| at_ 4 cause }) c

/-- R335: the channel is bound by a unit in force. -/
def chanBound (s : State) (c : DmaIx) : Bool := (unitOf s .dmaChannel c).isSome

/-! Descriptors (R336 to R338). -/

/-- R336: the fields of a descriptor fetched from an address. -/
def descriptorOf (addr : W64) (d : BitVec 256) : Descriptor where
  addr := addr
  src := word64 d 0
  dst := word64 d 1
  len := (word32 d 4).toNat
  ctrl := word32 d 5
  next := word64 d 3

/-- R337. -/
def barrier (d : Descriptor) : Bool := tst d.ctrl 0
def descIrq (d : Descriptor) : Bool := tst d.ctrl 1
def srcKindOf (d : Descriptor) : Nat := fld d.ctrl 3 2
def dstKindOf (d : Descriptor) : Nat := fld d.ctrl 5 4
def descPrio (d : Descriptor) : Nat := fld d.ctrl 11 10
/-- R337 COMPLETION: the ring that the descriptor names, or the channel's own. -/
def ringOf (x : DmaChan) (d : Option Descriptor) : RingIx :=
  match d with
  | some d => if tst d.ctrl 9 then Fin.ofNat 8 (fld d.ctrl 8 6) else Fin.ofNat 8 (fld x.ctrl 3 1)
  | none => Fin.ofNat 8 (fld x.ctrl 3 1)

/-- R338: an inkwell address range lies within one of the two windows. -/
def inkRange (a : W64) (len : Nat) : Bool :=
  a.toNat + len ≤ 0x400000 || (0x400000 ≤ a.toNat && a.toNat + len ≤ 0x800000)

/-- R338. -/
def descValid (d : Descriptor) : Bool :=
  let src := match srcKindOf d with
    | 0 => decide (d.src.toNat + d.len ≤ 2 ^ 64)
    | 1 => inkRange d.src d.len
    | 2 => decide (d.src.toNat < 8) && d.len % 16 == 0 && decide (16 ≤ d.len) && decide (d.len ≤ 8192)
    | _ => false
  let dst := match dstKindOf d with
    | 0 => decide (d.dst.toNat + d.len ≤ 2 ^ 64)
    | 1 => inkRange d.dst d.len
    | _ => false
  src && dst && fld d.ctrl 31 12 == 0 && (tst d.ctrl 9 || fld d.ctrl 8 6 == 0) && d.next.toNat % 32 == 0

/-- R340: the bytes that a descriptor moves. -/
def descTotal (x : DmaChan) (d : Descriptor) : Nat := if srcKindOf d = 2 then 16 * x.taken else d.len

/-- R340: the stream that a descriptor names. -/
def descStream (d : Descriptor) : StreamIx := Fin.ofNat 8 d.src.toNat

/-- R340: another channel's descriptor holds records of the stream. -/
def streamHeld (s : State) (g : StreamIx) : Bool :=
  s.dma.chans.toList.any fun x => x.holds == some g

/-! Records and rings (R343 to R346). -/

/-- R345: a ring is configured. -/
def ringOk (r : CqRing) : Bool := 4 ≤ r.sizeLog2.toNat
/-- R345: a ring is full. -/
def ringFull (r : CqRing) : Bool := ringOk r && (r.prod - r.cons).toNat == 2 ^ r.sizeLog2.toNat

/-- R343: a completion record. -/
def recordOf (c : DmaIx) (x : DmaChan) (r : DmaRecord) (phase : Bool) : W128 :=
  BitVec.ofNat 128 (packFields
    [(64, x.cur.toNat), (15, r.count), (1, b2n phase), (8, r.status.code), (8, c), (32, x.seq.toNat)])

/-- R345: where the next record of a ring goes. -/
def entryAddr (r : CqRing) : W64 := r.base + BitVec.ofNat 64 (16 * (r.prod.toNat % 2 ^ r.sizeLog2.toNat))

/-- R345, R355: a record into a ring, which may be full with it. DEDUCED (log entry 189). -/
def putRecord (s : State) (c : DmaIx) (r : DmaRecord) : State :=
  let ring := s.dma.rings[r.ring]
  let size := 2 ^ ring.sizeLog2.toNat
  let s := post s (.write (entryAddr ring) (leBytes 16 (recordOf c s.dma.chans[c] r ring.phase).toNat))
  modRing s r.ring fun y =>
    let z := { y with prod := y.prod + 1, phase := if (y.prod.toNat + 1) % size = 0 then !y.phase else y.phase }
    { z with sticky := y.sticky || ringFull z }

/-- R340: the records of a descriptor leave their stream. -/
def releaseStream (s : State) (c : DmaIx) : State :=
  let x := s.dma.chans[c]
  match x.holds with
  | some g => modChan (modStream s g fun y => { y with fifo := y.fifo.drop x.taken }) c fun x => { x with holds := none }
  | none => s

/-- A fetch of the descriptor at an address begins (R347). -/
def startFetch (s : State) (c : DmaIx) (a : W64) : State :=
  let s := modChan s c fun x => { x with
    state := .fetch, cur := a, desc := none, askNext := false, repeated := false }
  match noRequest s with
  | some cause => haltChan s c 0 false cause a
  | none => s

/-- R348 step 1: word 3 of the descriptor is read again. -/
def readNext (s : State) (c : DmaIx) : State :=
  let a := s.dma.chans[c].cur + 24
  let s := modChan s c fun x => { x with
    dbPending := false, askNext := true, state := if x.state = .tailWait then .tailWait else .fetch }
  match noRequest s with
  | some cause => haltChan s c 5 false cause a
  | none => s

/-- R348: the chain goes on after a record. -/
def chainOn (s : State) (c : DmaIx) : State :=
  match s.dma.chans[c].desc with
  | some d => if d.next = 0 then readNext s c else startFetch s c d.next
  | none => modChan s c fun x => { x with state := .idle }

/-- R340: a descriptor takes records of its stream, `held` of them at most, and runs, or waits for them. -/
def takeRecords (s : State) (c : DmaIx) (d : Descriptor) (held : Nat) : State :=
  let g := descStream d
  let n := min (d.len / 16) held
  if n = 0 ∨ streamHeld s g then modChan s c fun x => { x with state := .streamWait }
  else modChan s c fun x => { x with state := .run, taken := n, holds := some g }

/-- R353: the records that a stream held before the present cycle. -/
def heldBefore (s : State) (g : StreamIx) : Nat := (s.streams[g].fifo.filter fun e => e.tb != s.time.tb).length

/-- R340: a channel that waits for a stream takes its records. -/
def wakeStream (s : State) (g : StreamIx) : State :=
  forAll (indices 32) s fun s c =>
    match s.dma.chans[c].desc with
    | some d =>
      if s.dma.chans[c].state = .streamWait ∧ srcKindOf d = 2 ∧ descStream d = g then
        takeRecords s c d s.streams[g].fifo.length
      else s
    | none => s

/-- R345, R346: a record is issued, or waits for room, or halts the channel. -/
def issueRecord (s : State) (c : DmaIx) (r : DmaRecord) : State :=
  let ring := s.dma.rings[r.ring]
  let s := modChan s c fun x => { x with record := some r }
  if !ringOk ring then haltChan s c 4 true 7 ring.base
  else if ringFull ring then
    let s := modRing (modChan s c fun x => { x with state := .cqWait }) r.ring fun y => { y with sticky := true }
    if ring.ie then pushCause s (48 + r.ring) else s
  else
    match noRequest s with
    | some cause => haltChan s c 4 true cause (entryAddr ring)
    | none =>
      let x := s.dma.chans[c]
      let s := putRecord s c r
      let total := match x.desc with | some d => descTotal x d | none => 0
      let held := x.holds
      let s := releaseStream s c
      let s := modChan s c fun x => { x with
        seq := x.seq + 1, done := x.done + 1, lastStatus := BitVec.ofNat 8 r.status.code
        bytes := if r.status = .complete then x.bytes + BitVec.ofNat 64 total else x.bytes
        invalidFlag := x.invalidFlag || r.status == .invalid
        deniedFlag := x.deniedFlag || r.status == .denied
        record := none, recordAt := some s.time.tb }
      let s := if x.desc.any descIrq then signalChan s c else s
      let s := match held with | some g => wakeStream s g | none => s
      if x.leaving then modChan s c fun _ => {}
      else match r.after with
        | .next => chainOn s c
        | .idle => modChan s c fun x => { x with state := .idle }

/-- The record of the descriptor in hand. -/
def chanRecord (s : State) (c : DmaIx) (status : DmaStatus) (after : AfterRecord) : State :=
  let x := s.dma.chans[c]
  issueRecord s c { ring := ringOf x x.desc, status := status, count := if x.holds.isSome then x.taken else 0, after := after }

/-- R344: the status of a descriptor whose data have all been moved. -/
def doneStatus (x : DmaChan) : DmaStatus := if x.denied then .denied else if x.repeated then .repeated else .complete

/-- R346: the last destination address that a descriptor wrote. -/
def flushAddr (x : DmaChan) (d : Descriptor) : W64 := d.dst + BitVec.ofNat 64 (x.written - 1)

/-- R346: the data of a descriptor have been moved. -/
def dataMoved (s : State) (c : DmaIx) : State :=
  let x := s.dma.chans[c]
  match x.desc with
  | some d =>
    if barrier d && dstKindOf d == 0 then
      let s := modChan s c fun x => { x with state := .flush }
      match noRequest s with
      | some cause => haltChan s c 3 false cause (flushAddr x d)
      | none => s
    else chanRecord s c (doneStatus x) .next
  | none => s

/-- R340, R350: what a repeated descriptor still holds: its records, if it names their stream as before.
DESIGN CHOICE (log entry 186). -/
def holdKept (x : DmaChan) (d : Descriptor) : Option StreamIx :=
  x.holds.filter fun g => srcKindOf d == 2 && descStream d == g

/-- R340, R350: a hold that a repeated descriptor gives up leaves its records in the stream. -/
def giveUpHold (s : State) (c : DmaIx) (d : Descriptor) : State :=
  let x := s.dma.chans[c]
  match x.holds with
  | some g =>
    if (holdKept x d).isSome then modChan s c fun y => { y with taken := min y.taken (d.len / 16) }
    else wakeStream (modChan s c fun y => { y with holds := none, taken := 0 }) g
  | none => modChan s c fun y => { y with taken := 0 }

/-- R338, R347: a descriptor has been read whole and begins. -/
def beginDescriptor (s : State) (c : DmaIx) (d : Descriptor) : State :=
  let s := modChan (giveUpHold s c d) c fun x => { x with
    desc := some d, fetched := 0, written := 0, buffer := [], denied := false, state := .run }
  if !descValid d then chanRecord s c .invalid .idle
  else if srcKindOf d = 2 then
    (if s.dma.chans[c].holds.isSome then s else takeRecords s c d (heldBefore s (descStream d)))
  else if d.len = 0 then dataMoved s c
  else s

/-- R347: a descriptor fetch returns. -/
def execDescriptorFetched (c : DmaIx) (d : BitVec 256) (s : State) : Host.Outcome State Fault Refusal :=
  let x := s.dma.chans[c]
  finish (if x.state == .fetch && !x.askNext then beginDescriptor s c (descriptorOf x.cur d) else s)

/-! Moving the data (R339 to R342). -/

/-- Bytes from an address to the next boundary of a size, at most `left`. -/
def upTo (a size left : Nat) : Nat := min left (size - a % size)

/-- R339: the bytes that a size code in force allows, 256 at most. -/
def hostLimit (code : BitVec 3) : Nat := min 256 (128 * 2 ^ code.toNat)

/-- R339: the next request to host memory, under a limit, across no 4 KiB boundary. -/
def hostRequest (limit a left : Nat) : Nat := min limit (upTo a 4096 left)

/-- R317, R339: the bytes of the next word access of an inkwell side, `done` bytes into the descriptor. -/
def inkChunk (base done left : Nat) : Nat :=
  if 0x400000 ≤ base then min left (16 - done % 16) else upTo (base + done) 16 left

/-- R339: the next part of the destination to be written; `pay` is the payload in force. -/
def dstChunk (pay : Nat) (x : DmaChan) (d : Descriptor) : Nat :=
  let left := descTotal x d - x.written
  if dstKindOf d = 0 then hostRequest pay (d.dst.toNat + x.written) left else inkChunk d.dst.toNat x.written left

/-- A beat reads a word of an inkwell or a record of a stream. -/
def beatReads (x : DmaChan) (d : Descriptor) : Bool :=
  srcKindOf d != 0 && x.fetched < descTotal x d && x.buffer.length < 256

/-- A beat writes: the whole next part of the destination stands in the buffer. -/
def beatWrites (pay : Nat) (x : DmaChan) (d : Descriptor) : Bool :=
  x.written < descTotal x d && dstChunk pay x d ≤ x.buffer.length

/-- R342: the channel has a beat ready. -/
def beatReady (pay : Nat) (x : DmaChan) : Bool :=
  match x.desc with
  | some d => x.state == .run && (beatReads x d || beatWrites pay x d)
  | none => false

/-- R342: the priority of a channel that has a beat ready. -/
def beatPrio (x : DmaChan) : Nat := match x.desc with | some d => descPrio d | none => 0

/-- R342: the channel that takes the next beat. -/
def nextBeat (s : State) : Option DmaIx :=
  let ready := (indices 32).filter fun c => beatReady (hostLimit s.host.payload) s.dma.chans[c]
  let top := ready.foldl (fun m c => max m (beatPrio s.dma.chans[c])) 0
  let best := ready.filter fun c => beatPrio s.dma.chans[c] == top
  if best.contains s.dma.turn && s.dma.turnBytes < 256 then some s.dma.turn
  else match best.find? fun c => s.dma.turn.val < c.val with
    | some c => some c
    | none => best.head?

/-- R316, R317: the access at `done` bytes into an inkwell side: `n` bytes of one word. -/
def inkSide (base done : Nat) (i : Nat) : InkIx × Fin 4096 × Nat :=
  if 0x400000 ≤ base then bar4Byte base (done + i) else bar4Byte (base + done) i

/-- R341: a beat reads an inkwell word. -/
def beatInkRead (s : State) (c : DmaIx) (x : DmaChan) (d : Descriptor) : State :=
  let n := inkChunk d.src.toNat x.fetched (descTotal x d - x.fetched)
  let (b, w, _) := inkSide d.src.toNat x.fetched 0
  let (v, s) := inkReadBy s b w .dma
  let bytes := (List.range n).map fun i => byteOf v (inkSide d.src.toNat x.fetched i).2.2
  modChan s c fun y => { y with
    fetched := y.fetched + n, buffer := y.buffer ++ bytes, denied := y.denied || !admits s b .dma }

/-- R340: a beat reads a record of the stream. -/
def beatStreamRead (s : State) (c : DmaIx) (x : DmaChan) (d : Descriptor) : State :=
  let r := match s.streams[descStream d].fifo[x.fetched / 16]? with | some e => e.record | none => 0
  modChan s c fun y => { y with fetched := y.fetched + 16, buffer := y.buffer ++ leBytes 16 r.toNat }

/-- R339, R341: a beat writes the next part of the destination. -/
def beatWrite (s : State) (c : DmaIx) (x : DmaChan) (d : Descriptor) : State :=
  let n := dstChunk (hostLimit s.host.payload) x d
  let data := x.buffer.take n
  let s :=
    if dstKindOf d = 0 then post s (.write (d.dst + BitVec.ofNat 64 x.written) data)
    else
      let (b, w, _) := inkSide d.dst.toNat x.written 0
      let (be, v) := (data.zipIdx).foldl (fun (acc : BitVec 16 × W128) (y : Byte × Nat) =>
        let i := (inkSide d.dst.toNat x.written y.2).2.2
        (setBit acc.1 i true, setFld acc.2 (8 * i + 7) (8 * i) y.1.toNat)) (0, 0)
      let no := !admits s b .dma
      modChan (inkWriteBy s b w be v .dma) c fun y => { y with denied := y.denied || no }
  modChan s c fun y => { y with written := y.written + n, buffer := y.buffer.drop n }

/-- R342: a beat of a channel. -/
def beat (s : State) (c : DmaIx) : State :=
  let x := s.dma.chans[c]
  match x.desc with
  | some d =>
    let s := modDma s fun m => { m with
      waited := false, turn := c, turnBytes := if m.turn = c ∧ m.turnBytes < 256 then m.turnBytes + 16 else 16 }
    let s := busTransfer s 1
    if beatWrites (hostLimit s.host.payload) x d then
      match if dstKindOf d = 0 then noRequest s else none with
      | some cause => haltChan s c 2 true cause (d.dst + BitVec.ofNat 64 x.written)
      | none =>
        let s := beatWrite s c x d
        let y := s.dma.chans[c]
        if y.written = descTotal y d then dataMoved s c else s
    else if srcKindOf d = 1 then beatInkRead s c x d else beatStreamRead s c x d
  | none => s

/-- R323: the bank whose port B the next beat of a channel takes. -/
def beatBank (pay : Nat) (x : DmaChan) : Option InkIx :=
  x.desc.bind fun d =>
    if beatWrites pay x d then (if dstKindOf d = 1 then some (inkSide d.dst.toNat x.written 0).1 else none)
    else if srcKindOf d = 1 then some (inkSide d.src.toNat x.fetched 0).1
    else none

/-- R323: the port B that a beat of a channel takes has served no access yet in the present ACLK cycle. -/
def beatOpen (s : State) (c : DmaIx) : Bool :=
  match beatBank (hostLimit s.host.payload) s.dma.chans[c] with
  | some b => !s.ink.used.contains b
  | none => true

/-- R323, R342: one beat; the engine chooses the channel. -/
def execDmaBeat (c : DmaIx) (s : State) : Host.Outcome State Fault Refusal :=
  finish (if nextBeat s == some c && beatOpen s c then beat s c else s)

/-- R339: the next read request of a channel: its address, a multiple of 16, its bytes, and the first and the number of
those that belong to the source. -/
def readRequest (limit : Nat) (x : DmaChan) : Option (W64 × Nat × Nat × Nat) :=
  match x.desc with
  | some d =>
    if x.state = .run ∧ srcKindOf d = 0 ∧ x.fetched < d.len then
      let a := d.src + BitVec.ofNat 64 x.fetched
      let skip := a.toNat % 16
      let room := 256 - min 256 x.buffer.length
      let whole := (skip + (d.len - x.fetched) + 15) / 16 * 16
      let n := min ((skip + room) / 16 * 16) (hostRequest limit (a.toNat - skip) whole)
      if n = 0 then none else some (a - BitVec.ofNat 64 skip, n, skip, min (n - skip) (d.len - x.fetched))
    else none
  | none => none

/-- R339: the read request that a channel has to issue. -/
def chanRequest (s : State) (c : DmaIx) : Option (W64 × Nat × Nat × Nat) :=
  readRequest (hostLimit s.host.request) s.dma.chans[c]

/-- R339: data of a host-memory source arrive: the bytes of the request, of which the channel keeps those of its
source. -/
def execDmaReadCompletion (c : DmaIx) (data : List Byte) (s : State) : Host.Outcome State Fault Refusal :=
  finish (match chanRequest s c with
    | some (_, _, skip, n) =>
      let l := (data.drop skip).take n
      modChan s c fun x => { x with fetched := x.fetched + l.length, buffer := x.buffer ++ l }
    | none => s)

/-- R340: a record that has reached a stream releases a channel that waits for it. -/
def execStreamRecordArrival (g : StreamIx) (s : State) : Host.Outcome State Fault Refusal := finish (wakeStream s g)

/-- R346: the flush read completes. -/
def execDmaFlushDone (c : DmaIx) (s : State) : Host.Outcome State Fault Refusal :=
  finish (if s.dma.chans[c].state == .flush then chanRecord s c (doneStatus s.dma.chans[c]) .next else s)

/-! The tail (R347, R348). -/

/-- R347, R348, R353: a DOORBELL write. -/
def doorbell (s : State) (c : DmaIx) : State :=
  let x := s.dma.chans[c]
  if !chanBound s c then s
  else if x.state = .idle then (if x.head = 0 then s else startFetch s c x.head)
  else if x.askNext ∧ x.polledAt = some s.time.tb then s
  else
    let s := modChan s c fun x => { x with dbPending := true }
    if x.state = .tailWait ∧ x.askNext = false then readNext s c else s

/-- R348: the read of NEXT returns. -/
def nextReturned (s : State) (c : DmaIx) (next : W64) : State :=
  let x := s.dma.chans[c]
  let s := modChan s c fun x => { x with askNext := false }
  if next ≠ 0 then startFetch s c next
  else if x.dbPending then readNext s c
  else modChan s c fun x => { x with state := .tailWait, pollNs := 0 }

/-- R348: a NEXT read returns. -/
def execNextReadReturn (c : DmaIx) (next : W64) (s : State) : Host.Outcome State Fault Refusal :=
  let x := s.dma.chans[c]
  finish (if x.askNext && (x.state == .fetch || x.state == .tailWait) then nextReturned s c next else s)

/-- R348, R354: a TAIL_POLL interval has ended. DESIGN CHOICE (log entry 202). -/
def pollDue (s : State) (c : DmaIx) : Bool :=
  let x := s.dma.chans[c]
  x.state == .tailWait && tst x.ctrl 0 && !x.askNext && 1000 * max 1 (fld s.dma.tailPoll 15 0) ≤ x.pollNs

/-- R348: a poll interval of a channel in TAIL_WAIT causes a read of NEXT. -/
def pollTail (s : State) (c : DmaIx) : State :=
  if pollDue s c then readNext (modChan s c fun x => { x with pollNs := 0, polledAt := some s.time.tb }) c else s

/-- R348: a channel in TAIL_WAIT reads NEXT again. -/
def execTailPoll (c : DmaIx) (s : State) : Host.Outcome State Fault Refusal := finish (pollTail s c)

/-- The poll timers count (R348). -/
def dmaTime (d : DmaSt) (ns : Nat) : DmaSt :=
  if d.chans.toList.any fun x => x.state == .tailWait then
    { d with chans := d.chans.map fun x => if x.state = .tailWait then { x with pollNs := x.pollNs + ns } else x }
  else d

/-! Halts and recovery (R349 to R351). -/

/-- R349, R350: the request a channel has outstanding: its place, direction and address. -/
def outstanding (s : State) (c : DmaIx) : Option (Nat × Bool × W64) :=
  let x := s.dma.chans[c]
  match x.state with
  | .fetch => if x.askNext then some (5, false, x.cur + 24) else some (0, false, x.cur)
  | .tailWait => if x.askNext then some (5, false, x.cur + 24) else none
  | .flush => x.desc.map fun d => (3, false, flushAddr x d)
  | .run => match x.desc with
    | some d =>
      match chanRequest s c with
      | some (a, _) => some (1, false, a)
      | none =>
      if dstKindOf d = 0 then some (2, true, d.dst + BitVec.ofNat 64 x.written)
      else if srcKindOf d = 0 ∧ x.fetched < d.len then some (1, false, d.src + BitVec.ofNat 64 x.fetched)
      else none
    | none => none
  | _ => none

/-- R349: a request of a channel fails. -/
def execDmaBusError (c : DmaIx) (e : BusError) (s : State) : Host.Outcome State Fault Refusal :=
  finish (match outstanding s c with
    | some (place, dir, _) => if 1 ≤ e.cause ∧ e.cause ≤ 4 then haltChan s c place dir e.cause e.addr else s
    | none => s)

/-- R349: every channel that has a request to issue halts. -/
def haltAll (s : State) (cause : Nat) : State :=
  forAll (indices 32) s fun s c =>
    match outstanding s c with
    | some (place, dir, a) => haltChan s c place dir cause a
    | none => s

/-- R350 WHERE of a halted channel. -/
def haltPlace (x : DmaChan) : Nat := fld x.errInfo 2 0

/-- R350: the record that halted the channel is issued again. -/
def reissue (s : State) (c : DmaIx) (after : Option AfterRecord) : State :=
  match s.dma.chans[c].record with
  | some r => issueRecord s c { r with after := after.getD r.after }
  | none => s

/-- R350: the fetch that a RESUME repeats, from the first byte of its descriptor. -/
def refetch (s : State) (c : DmaIx) (again : Bool) : State :=
  let a := s.dma.chans[c].cur
  let s := startFetch s c a
  modChan s c fun x => { x with repeated := again }

/-- R350: RESUME. -/
def dmaResumeAt (s : State) (c : DmaIx) : State :=
  let x := s.dma.chans[c]
  if x.state = .halted then
    match haltPlace x with
    | 0 => refetch s c x.repeated
    | 4 => reissue s c none
    | 5 => readNext (modChan s c fun x => { x with state := .fetch }) c
    | _ => refetch s c true
  else s

/-- R350: SKIP. -/
def dmaSkipAt (s : State) (c : DmaIx) : State :=
  let x := s.dma.chans[c]
  if x.state = .halted then
    match haltPlace x with
    | 0 => chanRecord (modChan s c fun x => { x with desc := none }) c .skipped .idle
    | 4 => reissue s c none
    | 5 => modChan s c fun x => { x with state := .idle, askNext := false }
    | _ => chanRecord s c .skipped .next
  else s

/-- R351: ABORT_RESULT. -/
def abortResult (s : State) (c : DmaIx) (r : Nat) : State :=
  modChan s c fun x => { x with abortResult := BitVec.ofNat 2 r }

/-- R350, R310: an aborted channel is IDLE, and one that is leaving its unit is in the reset state. -/
def abortIdle (c : DmaIx) (s : State) : State :=
  modChan s c fun y => if y.leaving then {} else { y with state := .idle, askNext := false }

/-- R350, R351: ABORT. DEDUCED (log entry 188). -/
def dmaAbortAt (s : State) (c : DmaIx) : State :=
  let x := s.dma.chans[c]
  let issuedNow := x.recordAt == some s.time.tb
  match x.state with
  | .halted =>
    match haltPlace x with
    | 0 => chanRecord (modChan s c fun x => { x with desc := none }) c .aborted .idle
    | 4 => reissue s c (some .idle)
    | 5 => abortIdle c s
    | _ => chanRecord s c .aborted .idle
  | .idle => if issuedNow then abortResult s c 2 else abortIdle c (abortResult s c 3)
  | .tailWait => abortIdle c (abortResult s c 3)
  | .cqWait => abortResult (modChan s c fun y => { y with
      record := y.record.map fun r => { r with status := .aborted, after := .idle } }) c 1
  | .fetch =>
    if x.askNext || issuedNow then abortIdle c (abortResult s c 2)
    else chanRecord (abortResult (modChan s c fun x => { x with desc := none }) c 1) c .aborted .idle
  | .run | .streamWait | .flush => chanRecord (abortResult s c 1) c .aborted .idle

/-- R310, R351: the unit that bound a channel has left: an ABORT, and then the reset state. -/
def chanLeaves (s : State) (c : DmaIx) : State :=
  dmaAbortAt (modChan s c fun x => { x with leaving := true }) c

/-! Registers (R354 to R357). -/

/-- R353: the records that wait for a ring are issued as far as it has room. -/
def drainRing (s : State) (k : RingIx) : State :=
  forAll (indices 32) s fun s c =>
    let x := s.dma.chans[c]
    match x.record with
    | some r => if x.state = .cqWait ∧ r.ring = k ∧ !ringFull s.dma.rings[k] then issueRecord s c r else s
    | none => s

/-- R345: a write of CONS. -/
def writeCons (s : State) (k : RingIx) (v : Word) : State :=
  let r := s.dma.rings[k]
  let n : BitVec 16 := BitVec.ofNat 16 (fld v 31 16)
  if (r.prod - n).toNat ≤ 2 ^ r.sizeLog2.toNat then drainRing (modRing s k fun y => { y with cons := n }) k
  else modDma s fun d => { d with consErr := true }

/-- R345: a record is pending for a ring; a channel halted for want of a ring (NO_RING) waits for a RESUME, so that its
ring can be set up. DESIGN CHOICE (log entry 187). -/
def recordPending (s : State) (k : RingIx) : Bool :=
  s.dma.chans.toList.any fun x =>
    !(x.state == .halted && fld x.errInfo 7 4 == 7) && x.record.any fun r => r.ring == k

/-- R345: the base of a ring is applied whole, unless a record is pending for it. -/
def writeCqBase (s : State) (k : RingIx) (v : W64) : State :=
  if recordPending s k then s
  else modRing s k fun y => { y with
    base := v &&& ~~~0xFF#64, ie := tst v 4, sizeLog2 := v.truncate 4, prod := 0, cons := 0, phase := true }

/-- R354: BAR0 address of CQk.BASE_LO. -/
def cqAddr (k : RingIx) : Nat := 0x20020 + 12 * k

/-- R345: BASE of a ring as it reads. -/
def cqBase (r : CqRing) : W64 := r.base ||| BitVec.ofNat 64 (r.sizeLog2.toNat + 16 * b2n r.ie)

/-- R347: HEAD is written while the channel is IDLE and bound. -/
def writeHead (s : State) (c : DmaIx) (v : W64) : State :=
  if chanBound s c ∧ s.dma.chans[c].state = .idle then modChan s c fun x => { x with head := v &&& ~~~0x1F#64 } else s

/-- BAR0 address of CHn.HEAD_LO. -/
def headAddr (c : DmaIx) : Nat := 0x21000 + 64 * c + 8

/-- R335, R357: a write of CHn.CTRL; RESUME, SKIP and ABORT act in this order. -/
def writeChanCtrl (s : State) (c : DmaIx) (v : Word) : State :=
  if chanBound s c then
    let s := modChan s c fun x => { x with ctrl := v.truncate 4 }
    let s := if tst v 8 then dmaResumeAt s c else s
    let s := if tst v 9 then dmaSkipAt s c else s
    if tst v 10 then dmaAbortAt s c else s
  else s

/-- One bit for every channel that a test admits. -/
def chanMask (s : State) (f : DmaChan → Bool) : Word :=
  (indices 32).foldl (fun m (c : DmaIx) => m ||| bitAt c (f s.dma.chans[c])) 0

/-- R347: the descriptor in hand. -/
def inHand (x : DmaChan) : Option Descriptor := if x.state = .idle then none else x.desc

/-- R356: bytes of the descriptor in hand not yet written. -/
def remainOf (x : DmaChan) : Word :=
  match inHand x with
  | some d => BitVec.ofNat 32 (descTotal x d - x.written)
  | none => 0

/-- R356: a register of a channel as it stands. -/
def chanPeek (s : State) (c : DmaIx) (off : Nat) : Word :=
  let x := s.dma.chans[c]
  match off with
  | 0x00 => x.ctrl.zeroExtend 32
  | 0x04 => at_ 0 x.state.code ||| bitAt 3 x.dbPending ||| at_ 4 x.abortResult.toNat ||| bitAt 6 x.invalidFlag
      ||| bitAt 7 x.deniedFlag ||| at_ 8 (match inHand x with | some d => descPrio d | none => 0)
      ||| at_ 16 x.lastStatus.toNat
  | 0x08 => lo32 x.head
  | 0x0C => hi32 x.head
  | 0x14 => lo32 x.cur
  | 0x18 => hi32 x.cur
  | 0x1C => x.seq
  | 0x20 => remainOf x
  | 0x24 => lo32 x.errAddr
  | 0x28 => hi32 x.errAddr
  | 0x2C => x.errInfo
  | 0x30 => x.done
  | 0x34 => lo32 x.bytes
  | 0x38 => hi32 x.bytes
  | _ => 0

/-- R356: a write to a register of a channel. -/
def chanWrite (s : State) (c : DmaIx) (off : Nat) (v : Word) : State :=
  match off with
  | 0x00 => writeChanCtrl s c v
  | 0x04 => modChan s c fun x => { x with
      invalidFlag := x.invalidFlag && !tst v 6, deniedFlag := x.deniedFlag && !tst v 7 }
  | 0x10 => doorbell s c
  | 0x1C => if chanBound s c ∧ s.dma.chans[c].state = .idle then modChan s c fun x => { x with seq := v } else s
  | _ => s

/-- R354: a register of the block below 0x800 as it stands. -/
def dmaPeek (s : State) (off : Nat) : Word :=
  match off with
  | 0x00 => bitAt 0 s.host.bme ||| bitAt 1 s.dma.consErr
  | 0x04 => chanMask s fun x => x.state != .idle
  | 0x08 => chanMask s fun x => x.state == .halted
  | 0x0C => chanMask s fun x => x.state == .tailWait
  | 0x10 => s.dma.tailPoll
  | 0x14 => (indices 8).foldl (fun m (k : RingIx) =>
      m ||| bitAt k (ringFull s.dma.rings[k]) ||| bitAt (8 + k) s.dma.rings[k].sticky) 0
  | 0x18 => s.dma.evtStatus
  | 0x1C => s.dma.evtEnable
  | _ =>
    if 0x20 ≤ off ∧ off < 0x80 then
      let r := s.dma.rings[Fin.ofNat 8 ((off - 0x20) / 12)]
      match (off - 0x20) % 12 with
      | 0 => lo32 (cqBase r)
      | 4 => hi32 (cqBase r)
      | _ => at_ 0 r.prod.toNat ||| at_ 16 r.cons.toNat
    else 0

/-- R354: a write to a register of the block below 0x800. -/
def dmaWrite (s : State) (off : Nat) (v : Word) : State :=
  match off with
  | 0x00 => modDma s fun d => { d with consErr := d.consErr && !tst v 1 }
  | 0x10 => modDma s fun d => { d with tailPoll := v &&& 0xFFFF }
  | 0x14 => forAll (indices 8) s fun s k => if tst v (8 + k) then modRing s k fun r => { r with sticky := false } else s
  | 0x18 => modDma s fun d => { d with evtStatus := w1c d.evtStatus v }
  | 0x1C => modDma s fun d => { d with evtEnable := v }
  | _ =>
    if 0x20 ≤ off ∧ off < 0x80 ∧ (off - 0x20) % 12 = 8 then writeCons s (Fin.ofNat 8 ((off - 0x20) / 12)) v else s

end Sys2Proof.Machine
end

