-- ==== Sys2Proof/Machine/PortB.lean ====
section
/-! DEFINITION. Port B of the inkwells (R323): the accesses to BAR4, word by word (R316 to R318), and the turns of its
masters. -/
namespace Sys2Proof.Machine

/-- R316, R317: the bytes of a read, in order. -/
def jobBytes (j : Bar4Job) : List Byte :=
  (List.range j.len).map fun i =>
    let (b, w, k) := bar4Byte j.addr i
    match j.got.find? fun x => x.1 == (b, w) with
    | some x => byteOf x.2 k
    | none => 0

/-- R318: the next word of an access is read or written. -/
def jobWord (s : State) (j : Bar4Job) : State × Bar4Job :=
  match j.left with
  | [] => (s, j)
  | (b, w) :: rest =>
    match j.data with
    | none =>
      let (v, s) := inkReadBy s b w (pathWho j.path)
      (s, { j with left := rest, got := j.got ++ [((b, w), v)], waited := false })
    | some d =>
      let (be, v) := bar4Lane j.addr d b w
      (inkWriteBy s b w be v (pathWho j.path), { j with left := rest, waited := false })

/-- The access of a path that comes first. -/
def pathJob (s : State) (p : Path) : Option Bar4Job := s.host.bar4.find? fun j => j.path == p

/-- The first access of a path is put aside for another state of it, or for none. -/
def putJob (p : Path) (new : Option Bar4Job) : List Bar4Job → List Bar4Job
  | [] => []
  | j :: rest => if j.path = p then new.toList ++ rest else j :: putJob p new rest

/-- R318: a read whose last word has been read answers its bytes, that of a READ frame to the service port (R456). -/
def jobAnswers (s : State) (j : Bar4Job) : State :=
  let d := jobBytes j
  if j.frame then modHost s fun h => { h with
    spAccess := h.spAccess.map fun a => { a with data := BitVec.ofNat 32 (leNat d), done := true } }
  else { s with readBytes := d }

/-- R318: the first access of a path goes on by one word. -/
def jobGoesOn (s : State) (p : Path) : State :=
  match pathJob s p with
  | none => s
  | some j =>
    let (s, j) := jobWord s j
    if j.left.isEmpty then
      let s := modHost s fun h => { h with bar4 := putJob p none h.bar4 }
      if j.data.isNone then jobAnswers s j else s
    else modHost s fun h => { h with bar4 := putJob p (some j) h.bar4 }

/-- R323: the bank that the next word of a path's access asks for at port B. -/
def jobBank (s : State) (p : Path) : Option InkIx :=
  if (pathWho p).master.isNone then none else (pathJob s p).bind fun j => j.left.head?.map (·.1)

/-- R318: an access begins. Its first word comes at once, unless an earlier access of its path is in progress, or port B
has served another one in this ACLK cycle; every further word has an ACLK cycle of its own.
DEDUCED (log entry 183). -/
def startJob (s : State) (j : Bar4Job) : State :=
  let first := (pathJob s j.path).isNone
  let s := modHost s fun h => { h with bar4 := h.bar4 ++ [j] }
  if first && !(jobBank s j.path).any s.ink.used.contains then jobGoesOn s j.path else s

/-! The turns of port B (R323). -/

/-- R323: how far a master is from its turn: the one after the last served comes first. -/
def turnAfter (last m : Nat) : Nat := (m + 3 - last) % 4

/-- R323: what the masters ask of port B in an ACLK cycle: DMA, PCIe and the service port. -/
def portAsks (s : State) : List (Nat × InkIx) :=
  let dma := (nextBeat s).bind fun c => beatBank (hostLimit s.host.payload) s.dma.chans[c]
  [(1, dma), (2, jobBank s .pcie), (3, jobBank s .sp)].filterMap fun (m, b) => b.map fun b => (m, b)

/-- R323: the master that asks for a bank has the turn. -/
def portWins (s : State) (m : Nat) (b : InkIx) : Bool :=
  let last := s.ink.banks[b].lastB
  (portAsks s).all fun (n, c) => c != b || turnAfter last m ≤ turnAfter last n

/-- R323: the next word of a path's access is seen to wait. -/
def waitJob (s : State) (p : Path) : State :=
  modHost s fun h => { h with bar4 := putJob p ((pathJob s p).map fun j => { j with waited := true }) h.bar4 }

/-- R323: that word has been seen to wait. -/
def jobWaited (s : State) (p : Path) : Bool := (pathJob s p).any (·.waited)

/-- R323: an access that waits for another master is counted once, for the master that waits. -/
def noteWait (s : State) (m : Nat) (b : InkIx) : State :=
  match m with
  | 1 => if s.dma.waited then s
    else modDma (modBank s b fun x => { x with waitDma := satAdd x.waitDma 1 }) fun d => { d with waited := true }
  | 2 => if jobWaited s .pcie then s else waitJob (modBank s b fun x => { x with waitPcie := satAdd x.waitPcie 1 }) .pcie
  | _ => if jobWaited s .sp then s else waitJob (modBank s b fun x => { x with waitSp := satAdd x.waitSp 1 }) .sp

/-- R323, R342: an ACLK cycle: one beat, and one word of each access whose path has its turn at port B. -/
def portEdge (s : State) : State :=
  let s := modInk s fun k => { k with used := [] }
  let asks := portAsks s
  let wins (m : Nat) : Bool := asks.all fun (n, b) => n != m || portWins s m b
  let t := forAll (asks.filter fun (m, b) => !portWins s m b) s fun t (m, b) => noteWait t m b
  let t := match nextBeat s with
    | some c => if wins 1 then beat t c else t
    | none => t
  let t := if wins 2 then jobGoesOn t .pcie else t
  let t := if wins 3 then jobGoesOn t .sp else t
  jobGoesOn t .scribe

end Sys2Proof.Machine
end

