-- ==== Sys2Proof/Machine/BlotterRegs.lean ====
section
/-! DEFINITION. The registers of the blotter (R418, R419). -/
namespace Sys2Proof.Machine

/-- One bit for every class that fits. -/
def classMask (b : Blotter) (f : FaultClass → Bool) : Word :=
  (indices 32).foldl (fun m (c : ClassIx) => m ||| bitAt c (f b.classes[c])) 0

/-- R419: BLOTTER.STATUS. -/
def blotterStatus (b : Blotter) : Word :=
  at_ 0 (highestLevel b) ||| bitAt 3 (aliveRuns b) ||| bitAt 4 b.wdogExpired ||| bitAt 5 b.inj.active

/-- R418: LEVELj: level - 1 of each of 16 sources; that of source 24 is fixed (R394). -/
def levelWord (s : State) (j : Nat) : Word :=
  (List.range 16).foldl (fun w i => w ||| at_ (2 * i) ((configuredLevel s (16 * j + i) - 1) % 4)) 0

/-- R419: CLASSc.STATUS. -/
def classStatus (b : Blotter) (f : FaultClass) : Word :=
  at_ 0 f.level ||| bitAt 3 f.unack ||| bitAt 4 (holdsL4 b f) ||| at_ 8 f.raises.toNat ||| at_ 16 f.recoveries.toNat

/-- The class of a word of the class registers. -/
def classAt (off base : Nat) : ClassIx := Fin.ofNat 32 ((off - base) / 4)

/-- R418: a word of the blotter's registers as it stands. -/
def blotterPeek (s : State) (off : Nat) : Word :=
  let b := s.blotter
  match off with
  | 0x00 => b.ctrl
  | 0x04 => blotterStatus b
  | 0x08 => b.quietTime
  | 0x0C => b.alivePeriod
  | 0x14 => classMask b fun f => f.level != 0
  | 0x18 => classMask b fun f => f.unack
  | 0x1C => classMask b fun f => 3 ≤ f.level
  | 0x20 => lo32 b.lastTime
  | 0x24 => hi32 b.lastTime
  | 0x28 => b.lastSrc
  | 0x2C => b.raises
  | 0x30 => at_ 0 b.wdog.toNat
  | 0x34 => at_ 0 b.inj.checker ||| at_ 16 b.inj.inst
  | 0x38 => at_ 0 b.inj.remaining.toNat ||| bitAt 16 b.inj.active ||| bitAt 17 b.inj.collide
  | 0x3C => at_ 0 b.inj.detected.toNat ||| at_ 16 b.inj.collided.toNat
  | off =>
    if 0x40 ≤ off ∧ off < 0x60 then word32 b.sticky ((off - 0x40) / 4)
    else if 0x80 ≤ off ∧ off < 0xC0 then levelWord s ((off - 0x80) / 4)
    else if 0x100 ≤ off ∧ off < 0x180 then classStatus b b.classes[classAt off 0x100]
    else if 0x180 ≤ off ∧ off < 0x200 then b.classes[classAt off 0x180].last
    else if 0x200 ≤ off ∧ off < 0x280 then b.classes[classAt off 0x200].entry
    else 0

/-- R418: what a read of INJ_COUNT clears. -/
def blotterReadClear (s : State) (off : Nat) : State :=
  if off = 0x3C then modBlotter s fun b => { b with inj := { b.inj with detected := 0, collided := 0 } } else s

/-- R418: a write by an access path. -/
def blotterWrite (s : State) (off : Nat) (v : Word) : State :=
  if off = 0x10 then writeAck s v
  else if 0x40 ≤ off ∧ off < 0x60 then
    modBlotter s fun b => { b with sticky := b.sticky &&& ~~~(v.zeroExtend 256 <<< (8 * (off - 0x40))) }
  else if 0x100 ≤ off ∧ off < 0x180 then
    modClass s (classAt off 0x100) fun f => { f with recoveries := if fld v 31 16 = 0 then f.recoveries else 0 }
  else s

/-- R281, R418: a setting of the folio. -/
def blotterConfig (s : State) (off : Nat) (v : Word) : State :=
  match off with
  | 0x00 => modBlotter s fun b => { b with ctrl := v &&& 1 }
  | 0x08 => modBlotter s fun b => { b with quietTime := v &&& 0xFFFF }
  | 0x0C => modBlotter s fun b => { b with alivePeriod := v &&& 0x1FFFF }
  | _ => s

end Sys2Proof.Machine
end

