-- ==== Sys2Proof/Machine/Eic.lean ====
section
/-! DEFINITION. The event interrupt controller (chapter 14): offers and messages (R363, R367), arrivals (R361),
coalescing (R366), claim and completion (R363, R364), register writes (R366, R369, R370) and the fallback (R371). -/
namespace Sys2Proof.Machine

/-! R376: the fields of SRC_CFG, GRP.CFG and FALLBACK. -/
def srcTmask (y : EicSource) : Nat := fld y.cfg 8 0
def srcEn (y : EicSource) : Bool := tst y.cfg 9
def srcFast (y : EicSource) : Bool := tst y.cfg 10
def srcLevel (y : EicSource) : Bool := tst y.cfg 11
def srcGroup (y : EicSource) : Fin 64 := Fin.ofNat 64 (fld y.cfg 17 12)
def srcGrouped (y : EicSource) : Bool := tst y.cfg 18
def groupEn (g : EicGroup) : Bool := tst g.cfg 24
def groupCount (g : EicGroup) : Nat := max 1 (fld g.cfg 7 0)
def groupTime (g : EicGroup) : Nat := fld g.cfg 23 8
def fallbackEn (e : Eic) : Bool := tst e.fallback 4
def fallbackTarget (e : Eic) : Fin 8 := Fin.ofNat 8 (fld e.fallback 2 0)
def fallbackDelay (e : Eic) : Nat := fld e.fallback 31 16

/-- R361, R372: the EIC takes arrivals and its timers run. -/
def eicListens (s : State) : Bool := s.power.mode == .up

/-- R361: PENDING and not HELD. -/
def isOffered (y : EicSource) : Bool := y.phase == .pending && !y.held

/-- R363: the source is offered to a target. -/
def offeredTo (y : EicSource) (k : Nat) : Bool :=
  isOffered y && (tst y.cfg k || (y.fallback.map (·.val)) == some k)

/-- R367: a message may go to the target: it is awake or it is reached by fallback, and it has no IRQ_N delivery. -/
def mayMessage (e : Eic) (y : EicSource) (k : Fin 8) : Bool :=
  (tst e.awake k || y.fallback == some k) && !tst e.irqnCtrl k

/-- R367: the vector of a class of a target. -/
def vectorOf (k : Fin 8) (fast : Bool) : Fin 16 := Fin.ofNat 16 (2 * k.val + b2n fast)

/-- R367: a message of a vector is due at the end of the ACLK cycle. -/
def wantMessage (e : Eic) (v : Fin 16) : Eic :=
  { e with vectors := modifyAt e.vectors v fun x => { x with due := true } }

/-- R367: a source changed; each target to which it became offered is sent a message. -/
def putSource (s : State) (x : SrcIx) (y : EicSource) : State :=
  let old := s.eic.sources[x]
  let s := modSource s x fun _ => y
  forAll (indices 8) s fun s k =>
    let was := offeredTo old k && srcFast old == srcFast y
    if offeredTo y k && !was && mayMessage s.eic y k then
      modEic s fun e => wantMessage e (vectorOf k (srcFast y)) else s

/-! Coalescing (R366). -/

/-- R366: the source is a member of an enabled group. -/
def inEnabledGroup (e : Eic) (y : EicSource) : Bool := srcGrouped y && groupEn e.groups[srcGroup y]

/-- R366: every HELD member of the group is offered in the same cycle. -/
def releaseGroup (s : State) (g : Fin 64) : State :=
  let s := modGroup s g fun x => { x with count := 0, timer := none, releases := x.releases + 1 }
  forAll (indices 1024) s fun s x =>
    let y := s.eic.sources[x]
    if y.held && srcGrouped y && srcGroup y == g then putSource s x { y with held := false } else s

/-- R366: the count or the time of a group has reached its threshold. -/
def groupReady (g : EicGroup) : Bool :=
  g.timer.isSome && (groupCount g ≤ g.count.toNat || groupTime g == 0)

/-- R366: an arrival to a HELD member of the group. -/
def groupArrival (s : State) (g : Fin 64) : State :=
  let s := modGroup s g fun x => { x with count := satAdd x.count 1, timer := some (x.timer.getD 0) }
  if groupReady s.eic.groups[g] then releaseGroup s g else s

/-! Arrivals (R361, R362). -/

/-- R362: ARRIVALS with one arrival more; at 255 the arrival is counted elsewhere. -/
def countArrival (s : State) (x : SrcIx) : State :=
  if s.eic.sources[x].arrivals = 255 then modEic s fun e => { e with satCount := satAdd e.satCount 1 }
  else modSource s x fun y => { y with arrivals := y.arrivals + 1 }

/-- R361, R366: the source becomes PENDING, held by an enabled group. -/
def becomePending (s : State) (x : SrcIx) (y : EicSource) : State :=
  let held := inEnabledGroup s.eic y
  let s := putSource s x { y with phase := .pending, held := held, fallback := none, timer := none }
  if held then groupArrival s (srcGroup y) else s

/-- R361: an arrival, or a write of PENDING = 1. -/
def arrive (s : State) (x : SrcIx) (byWrite : Bool) : State :=
  let y := s.eic.sources[x]
  if !srcEn y || x.val == 0 || x.val == 1023 then s
  else match y.phase with
    | .idle => becomePending s x { y with arrivals := 1, swset := byWrite }
    | .pending =>
      let s := countArrival s x
      if y.held then groupArrival s (srcGroup y) else s
    | .active => countArrival s x

/-- R365: a level source offered to a target is withdrawn: the flags of its class. -/
def withdrawnFlag (fast : Bool) (k : Nat) : BitVec 18 := 1#18 <<< (k + if fast then 9 else 0)

/-- R361: the input of a level source falls. -/
def inputFalls (s : State) (x : SrcIx) : State :=
  let y := s.eic.sources[x]
  let s := modSource s x fun y => { y with input := false }
  if y.phase == .pending && srcLevel y && !y.swset then
    let flags := (List.range 9).foldl (fun m k => if offeredTo y k then m ||| withdrawnFlag (srcFast y) k else m) 0
    let s := modEic s fun e => { e with
      withdrawn := satAdd e.withdrawn 1, withdrawnFlags := e.withdrawnFlags ||| flags }
    putSource s x { y with input := false, phase := .idle, arrivals := 0, held := false, fallback := none, timer := none }
  else s

/-! Claim and completion (R363 to R365). -/

/-- R363: the lowest-numbered source of a class that is offered to a target. -/
def firstOffered (e : Eic) (k : Nat) (fast : Bool) : Option SrcIx :=
  (indices 1024).find? fun x => offeredTo e.sources[x] k && srcFast e.sources[x] == fast

/-- R365: the flag of the target's class. -/
def hasWithdrawn (e : Eic) (k : Nat) (fast : Bool) : Bool := (e.withdrawnFlags &&& withdrawnFlag fast k) != 0

/-- R363, R365: what a claim or a peek returns. -/
def claimValue (e : Eic) (k : Nat) (fast : Bool) : Word :=
  let flag := bitAt 30 (e.lvMode && hasWithdrawn e k fast)
  match firstOffered e k fast with
  | some x => at_ 0 x ||| at_ 16 e.sources[x].arrivals.toNat ||| flag
  | none => bitAt 31 e.lvMode ||| flag

/-- R363, R365: the claim itself. DEDUCED (log entry 190). -/
def claim (s : State) (k : Fin 9) (fast : Bool) : State :=
  let found := firstOffered s.eic k fast
  let s := modEic s fun e => { e with withdrawnFlags := e.withdrawnFlags &&& ~~~(withdrawnFlag fast k) }
  match found with
  | some x => putSource s x { s.eic.sources[x] with
      phase := .active, holder := k, heldFast := fast, arrivals := 0, held := false, swset := false, fallback := none, timer := none }
  | none => s

/-- R364: the completion is one that is acted on. -/
def completes (e : Eic) (k : Fin 9) (fast : Bool) (x : SrcIx) : Bool :=
  let y := e.sources[x]
  y.phase == .active && y.holder == k && y.heldFast == fast

/-- R361, R364, R365: a completion write. -/
def complete (s : State) (k : Fin 9) (fast : Bool) (v : Word) : State :=
  let x : SrcIx := Fin.ofNat 1024 (fld v 9 0)
  if completes s.eic k fast x then
    let y := s.eic.sources[x]
    if srcLevel y then
      if y.input then
        becomePending s x { y with arrivals := if y.arrivals = 0 then 1 else y.arrivals, swset := false }
      else putSource s x { y with phase := .idle, arrivals := 0 }
    else if y.arrivals = 0 then putSource s x { y with phase := .idle }
    else becomePending s x { y with swset := false }
  else if x = 0 ∧ s.eic.lvMode then s
  else modEic s fun e => { e with spurious := satAdd e.spurious 1 }

/-! Register writes. -/

/-- R376: the bits of SRC_CFG that are not reserved. -/
def srcCfgMask : Word := 0x0007FFFF

/-- R361, R369: a write of SRC_CFG. DEDUCED (log entry 67). DEDUCED (log entry 191). -/
def writeSrcCfg (s : State) (x : SrcIx) (v : Word) (input : Bool) : State :=
  let y := s.eic.sources[x]
  let z : EicSource := { y with
    cfg := v &&& srcCfgMask
    input := if tst v 11 then (if srcLevel y then y.input else input) else false
    timer := if fld y.cfg 8 0 = fld v 8 0 then y.timer else none }
  let s := if srcLevel z then modEic s fun e => { e with causes := e.causes.filter (· != x) } else s
  if y.phase == .pending then
    if !srcEn z then
      putSource s x { z with
        phase := .idle, arrivals := 0, held := false, swset := false, fallback := none, timer := none }
    else
      let stays := srcGrouped z && srcGroup z == srcGroup y
      putSource s x { z with held := y.held && stays }
  else putSource s x z

/-- R366: a write of GRP.CFG. -/
def writeGrpCfg (s : State) (g : Fin 64) (v : Word) : State :=
  let was := groupEn s.eic.groups[g]
  let s := modGroup s g fun x => { x with cfg := v &&& 0x01FFFFFF }
  if was && !tst v 24 then releaseGroup s g
  else if groupReady s.eic.groups[g] then releaseGroup s g else s

/-- R367, R370: a write of TARGET_AWAKE; a target that wakes is sent a message for each class offered to it. -/
def writeAwake (s : State) (v : Word) : State :=
  let old := s.eic.awake
  let now : BitVec 8 := v.truncate 8
  let s := modEic s fun e => { e with awake := now }
  let s := forAll (indices 1024) s fun s x =>
    if (srcTmask s.eic.sources[x] &&& (now.toNat &&& (255 - old.toNat))) != 0 then
      modSource s x fun y => { y with timer := none } else s
  forAll (indices 8) s fun s k =>
    if tst now k && !tst old k && !tst s.eic.irqnCtrl k then
      forAll [false, true] s fun s fast =>
        if (firstOffered s.eic k fast).isSome then modEic s fun e => wantMessage e (vectorOf k fast) else s
    else s

/-! Timers (R366, R371). -/

/-- R371: every target in the source's TMASK sleeps; T8 never does. -/
def allAsleep (e : Eic) (y : EicSource) : Bool :=
  srcTmask y != 0 && !tst y.cfg 8 && (srcTmask y &&& e.awake.toNat) == 0

/-- R371: the source's fallback timer runs. -/
def fallbackRuns (e : Eic) (y : EicSource) : Bool :=
  fallbackEn e && isOffered y && y.fallback.isNone && allAsleep e y

/-- R371: the fallback timer of the source has reached DELAY. -/
def fallbackDue (e : Eic) (y : EicSource) : Bool :=
  fallbackRuns e y && 1000 * fallbackDelay e ≤ y.timer.getD 0

/-- R366: the group's timer has reached TIME_THRESHOLD. -/
def groupDue (g : EicGroup) : Bool :=
  groupEn g && match g.timer with | some n => 1000 * groupTime g ≤ n | none => false

/-- R366, R371: a number of ns of TB passes for the group timers and the fallback timers. -/
def eicTime (e : Eic) (ns : Nat) : Eic :=
  let e := if e.groups.toList.any fun g => g.timer.isSome then
      { e with groups := e.groups.map fun g => { g with timer := g.timer.map (· + ns) } } else e
  if fallbackEn e then
    { e with sources := e.sources.map fun y =>
      if y.phase == .pending then { y with timer := if fallbackRuns e y then some (y.timer.getD 0 + ns) else none }
      else y }
  else e

/-! Messages (R367). -/

/-- R446, R367: MSI-X Enable, the function mask, Bus Master Enable and the vector's own mask allow a message. -/
def vectorOpen (enabled functionMask : Bool) (v : MsixVector) : Bool := enabled && !functionMask && !v.masked

/-- R368, R431: IRQ_N[k] is driven low; in Sleep it is released. -/
def irqnLow (s : State) (k : Fin 8) : Bool :=
  s.power.mode == .up && tst s.eic.irqnCtrl k && tst s.eic.awake k && s.eic.sources.toList.any fun y => offeredTo y k

/-! The commands. -/

/-- R363: a read of CLAIM or FCLAIM. Reads of CLAIM_T8 by a path other than the scribe's return 0 (R358). -/
def claimBy (s : State) (p : Path) (k : Fin 9) (fast : Bool) : Word × State :=
  if k = 8 ∧ (p ≠ .scribe ∨ fast) then (0, s) else (claimValue s.eic k fast, claim s k fast)

/-- R358, R364: a completion write; host writes of COMPLETE_T8 are ignored. -/
def completeBy (s : State) (p : Path) (k : Fin 9) (fast : Bool) (v : Word) : State :=
  if k = 8 ∧ (p ≠ .scribe ∨ fast) then s else complete s k fast v

/-- R366: the group's timer reaches its threshold. -/
def execGroupTimerExpiry (g : Fin 64) (s : State) : Host.Outcome State Fault Refusal :=
  finish (if eicListens s && groupDue s.eic.groups[g] then releaseGroup s g else s)

/-- R367, R371: the source is offered to the fallback target too, which is sent a message. -/
def fallBack (s : State) (x : SrcIx) : State :=
  let k := fallbackTarget s.eic
  let s := modEic s fun e => { e with fallbackCount := satAdd e.fallbackCount 1 }
  let s := putSource s x { s.eic.sources[x] with fallback := some k, timer := none }
  if tst s.eic.irqnCtrl k then s
  else modEic s fun e => wantMessage e (vectorOf k (srcFast s.eic.sources[x]))

/-- R371. -/
def execFallbackTimer (x : SrcIx) (s : State) : Host.Outcome State Fault Refusal :=
  finish (if eicListens s && fallbackDue s.eic s.eic.sources[x] then fallBack s x else s)

end Sys2Proof.Machine
end

