-- ==== Sys2Proof/Machine/StrokeTrack.lean ====
section
/-! DEFINITION. Strokes and their trackers: crossings found by the reported angle (R82, R115), prediction and lock at
a tick (R99, R114, R120, R121), cancelling and the stall policy (R100, R122), and the judgement of predicted
strokes (R123). -/
namespace Sys2Proof.Machine

/-- The stroke waits for, or was triggered by, an angle of the tracker. -/
def strokeOn (i : TrackIx) (v : StrokeSlot) : Bool := !timeTriggered v.raw && strokeTrack v.raw == i

/-- The slots of a nib in use, in commit order. -/
def slotsInOrder (x : Nib) : List SlotIx :=
  let rank (k : SlotIx) : Nat := ((getSlot x k).map (·.order)).getD 0
  ((indices 16).filter fun k => (getSlot x k).isSome).mergeSort fun a b => rank a ≤ rank b

/-- `f` for every stroke in a slot that is on the tracker: nib by nib, each nib in commit order. -/
def forStrokes (s : State) (i : TrackIx) (f : State → NibIx → SlotIx → StrokeSlot → State) : State :=
  forAll (indices 256) s fun s n =>
    forAll (slotsInOrder s.nibs[n]) s fun s k =>
      match getSlot s.nibs[n] k with
      | some v => if strokeOn i v then f s n k v else s
      | none => s

/-- The action of a stroke is PULSE_ANGLE. -/
def isPulseAngle (v : StrokeSlot) : Bool := strokeAction v.raw == some .pulseAngle

/-! Judgement (R123). -/

/-- A change of every stroke on a tracker that is in a slot or waits for its judgement. -/
def mapStrokes (s : State) (i : TrackIx) (f : StrokeSlot → StrokeSlot) : State :=
  let g (v : StrokeSlot) : StrokeSlot := if strokeOn i v then f v else v
  { s with nibs := s.nibs.map fun x =>
    if armedCount x = 0 && x.judging.isEmpty then x
    else { x with slots := x.slots.map (·.map g), judging := x.judging.map g } }

/-- R123: the record of a judged stroke whose pulse is still in progress is written. DEDUCED (log entry 154). -/
def reportJudged (s : State) (n : NibIx) (k : SlotIx) : State :=
  match getSlot s.nibs[n] k with
  | some v =>
    if v.judged && !v.reported then
      writeStatus (modSlot s n k fun v => { v with reported := true }) n v.raw v.flags .done (v.placed.getD v.fire)
    else s
  | none => s

/-- R123: records that need wait no longer are written. -/
def flushJudged (s : State) : State :=
  forAll (indices 256) s fun s n =>
    let ready := s.nibs[n].judging.filter fun v => !needsJudgement v
    let s := if ready.isEmpty then s
      else
        let s := modNib s n fun x => { x with judging := x.judging.filter needsJudgement }
        forAll ready s fun s v => writeStatus s n v.raw v.flags .done (v.placed.getD v.fire)
    if armedCount s.nibs[n] = 0 then s else forAll (slotsInOrder s.nibs[n]) s fun s k => reportJudged s n k

/-- R123: a tooth reaches an entry; a synthesized one makes the strokes that it opens the pitch for PREDICTED. -/
def noteEntry (s : State) (i : TrackIx) (entry : Nat) (time : W64) (synth : Bool) : State :=
  flushJudged <| mapStrokes s i fun v =>
    if !v.locked then v
    else
      let opens := v.opening == some entry && !v.openReached
      let v := if opens then { v with openReached := true } else v
      if synth then { v with flags := { v.flags with predicted := v.flags.predicted || opens } }
      else { v with teeth := v.teeth ++ [(entry, time)] }

/-- R123: the tracker synthesized a tooth, discarded a pulse or failed a check: strokes that fired before their opening
entry was reached are PREDICTED. -/
def noteDoubt (s : State) (i : TrackIx) : State :=
  mapStrokes s i fun v =>
    if v.placed.isSome && v.opening.isSome && !v.openReached then { v with flags := { v.flags with predicted := true } }
    else v

/-- R123: a reference is evaluated at `time`: real teeth move `shift` entries on. -/
def judgeStrokes (s : State) (i : TrackIx) (shift teeth : Nat) (time : W64) : State :=
  flushJudged <| mapStrokes s i fun v =>
    if v.placed.isSome && v.flags.predicted && !v.judged && precedes v.fire time then
      let early := v.teeth.any fun (e, t) => v.opening == some ((e + shift) % teeth) && precedes v.crossing t
      { v with judged := true, flags := { v.flags with early := v.flags.early || early } }
    else v

/-- R123: the tracker leaves SYNCED before any reference is evaluated. -/
def leaveUnjudged (s : State) (i : TrackIx) : State :=
  flushJudged <| mapStrokes s i fun v =>
    if !v.locked || v.judged then v
    else if v.placed.isSome && v.flags.predicted then
      { v with judged := true, flags := { v.flags with unjudged := true } }
    else { v with opening := none }

/-! Locking. -/

/-- R123: the entry that opens the pitch that holds an angle, in the direction of motion. -/
def openingEntry (t : Tracker) (angle : Word) : Nat :=
  let n := teethOf t
  let below := (List.range n).filter fun k => (effAngle t k).toNat ≤ angle.toNat
  let k := (below.getLast?).getD (n - 1)
  if t.reverse then (if effAngle t k = angle then k else (k + 1) % n) else k

/-- R123: the opening entry of a crossing, whether it has been reached, and whether by a synthesized tooth. -/
def openingOf (t : Tracker) (pos : Pos) : Option Nat × Bool × Bool :=
  if srcKind t != .tooth || t.state != .synced then (none, false, false)
  else
    let d := if t.reverse then (t.base - pos).toInt else (pos - t.base).toInt
    if d < nextPitch t then (some t.entry, true, t.synth)
    else (some (openingEntry t (pos.truncate 32)), false, false)

/-- R116: the start of an angle stroke locks. -/
def lockAngle (s : State) (n : NibIx) (k : SlotIx) (t : Tracker) (rev : Bool) (crossing limit : W64) (pos : Pos) :
    State :=
  let (e, reached, synth) := openingOf t pos
  let s := modSlot s n k fun v => { v with
    crossPos := pos, forward := !rev, opening := e, openReached := reached
    flags := { v.flags with predicted := synth } }
  lockStroke s n k crossing limit

/-- R120, R121: the end of a PULSE_ANGLE locks; it is always placed, at its limit if it is late. -/
def lockEnd (s : State) (n : NibIx) (k : SlotIx) (crossing limit : W64) (startSide : Bool) : State :=
  modSlot s n k fun v =>
    let e := crossing + BitVec.ofInt 64 (strokeOffset v.raw)
    let late := precedes e limit
    { v with
      next := some (if late then limit else e)
      nextPlan := if late then some e else none
      heldEnd := false
      endCrossed := none
      flags := { v.flags with late := v.flags.late || late, truncated := v.flags.truncated || startSide } }

/-! Crossings found by the reported angle (R115). -/

/-- The position at which a move in the direction of motion first stands at an angle. -/
def passes (old new : Pos) (rev : Bool) (angle : Word) : Option Pos :=
  let moved := if rev then (old - new).toInt else (new - old).toInt
  let lo : Word := old.truncate 32
  let d := span (if rev then lo - angle else angle - lo)
  if (d : Int) ≤ moved then some (movePos old rev d) else none

/-- R121: the boundary of a PULSE_ANGLE that a move crosses: true on the start side, which only a full tracker has. -/
def leavesInterval (i : TrackIx) (v : StrokeSlot) (old new : Pos) : Option Bool :=
  let along (p : Pos) : Int := if v.forward then (p - v.crossPos).toInt else (v.crossPos - p).toInt
  let arg : Int := strokeArg v.raw
  if along old < arg ∧ arg ≤ along new then some false
  else if isFull i ∧ 0 ≤ along old ∧ along new < 0 then some true
  else none

/-- R82, R86, R115: the reported angle of a tracker moves. `jump`: an early tooth or a resync, which locks what it
crosses at once (R116). `t` is the tracker before the move. -/
def crossStrokes (s : State) (i : TrackIx) (t : Tracker) (old new : Pos) (rev : Bool) (time : W64) (jump : Bool) : State :=
  if old = new then s
  else forStrokes s i fun s n k v =>
    let s :=
      if v.locked || v.crossed.isSome || precedes time v.entered || !dirAllows (strokeDir v.raw) rev then s
      else match passes old new rev (strokeAngle v.raw) with
        | none => s
        | some p =>
          if jump then lockAngle s n k t rev time (nowTime s + 64) p
          else modSlot s n k fun v => { v with crossed := some time, crossPos := p }
    match getSlot s.nibs[n] k with
    | none => s
    | some v =>
      if isPulseAngle v && v.locked && v.next.isNone && v.endCrossed.isNone then
        match leavesInterval i v old new with
        | none => s
        | some startSide =>
          if jump then lockEnd s n k time (nowTime s + 64) startSide
          else modSlot s n k fun v => { v with endCrossed := some (time, startSide) }
      else s

/-! Prediction at a tick (R99, R114, R120). -/

/-- R99: L in eighths. -/
def lockEighths (s : State) (i : TrackIx) : Nat := 8 * max (fld s.trackers[i].cfg.lockLead 19 0) s.time.period

/-- R99: a time no later than the tick plus L. -/
def withinL (s : State) (i : TrackIx) (t : W64) : Bool :=
  notAfter t (nowTime s + BitVec.ofNat 64 (lockEighths s i))

/-- R99, R120: the model time for `d` au beyond a point that lies `e` au beyond the model angle. A VIRTUAL tracker is
asked only for points that lie ahead. -/
def spanTime (ts : Vector Tracker 16) (now : W64) : Nat → TrackIx → Rat → Rat → Option Int
  | 0, _, _, _ => none
  | fuel + 1, i, e, d =>
    let t := ts[i]
    match srcKind t with
    | .slave =>
      if t.gear.forceNum = 0 then none
      else
        let k : Rat := (t.gear.forceDen.toNat : Rat) / t.gear.forceNum.toInt.natAbs
        spanTime ts now fuel (masterOf t) (e * k) (d * k)
    | .virtual_ =>
      match crossTime ts now 1 i (e + d), crossTime ts now 1 i (max 0 e) with
      | some a, some b => some (a - b)
      | _, _ => none
    | _ => (trackFit t).map fun f =>
        let d0 : Rat := modelDelta t now
        roundUpHalf (fitTime f (d0 + e + d) - fitTime f (d0 + e))

/-- R120, R121: the predicted end crossing of a PULSE_ANGLE whose start is locked, and whether it lies on the start
side. A pulse that HOLD has kept is predicted from the present angle. -/
def predictEnd (ts : Vector Tracker 16) (now : W64) (i : TrackIx) (v : StrokeSlot) : Option (W64 × Bool) :=
  if ts[i].state != .synced then none
  else
    let rev := runsBack ts now 17 i
    let th := modelPos ts now 17 i
    let e : Int := if rev then (th - v.crossPos).toInt else (v.crossPos - th).toInt
    let arg : Int := strokeArg v.raw
    if rev != v.forward then
      if v.heldEnd then
        (crossTime ts now 17 i (max 0 (e + arg))).map fun x => (now + BitVec.ofInt 64 x, false)
      else (spanTime ts now 17 i e arg).map fun x => (v.crossing + BitVec.ofInt 64 x, false)
    else if isFull i then (crossTime ts now 17 i (max 0 e)).map fun x => (now + BitVec.ofInt 64 x, true)
    else none

/-- R114, R115: the prediction of one stroke's start at a tick. -/
def predictStart (s : State) (n : NibIx) (k : SlotIx) (v : StrokeSlot) (i : TrackIx) : State :=
  let now := nowTime s
  let t := s.trackers[i]
  let rev := runsBack s.trackers now 17 i
  match v.crossed with
  | some c => lockAngle s n k t rev c now v.crossPos
  | none =>
    if t.state != .synced then s
    else
      let s := modSlot s n k fun v => { v with asked := true }
      match predictCross s.trackers now i (strokeDir v.raw) (strokeAngle v.raw) (!v.asked) with
      | none => s
      | some c =>
        if withinL s i (c + BitVec.ofInt 64 (strokeOffset v.raw)) then
          let d := crossDistance s.trackers now i rev (strokeAngle v.raw)
          let pos := movePos (modelPos s.trackers now 17 i) rev (if v.asked then d.toNat else span d)
          lockAngle s n k t rev c now pos
        else s

/-- R120: the prediction of the end of a PULSE_ANGLE at a tick. -/
def predictPulseEnd (s : State) (n : NibIx) (k : SlotIx) (v : StrokeSlot) (i : TrackIx) : State :=
  let now := nowTime s
  match v.endCrossed with
  | some (c, startSide) => lockEnd s n k c now startSide
  | none =>
    match predictEnd s.trackers now i v with
    | some (c, startSide) =>
      if withinL s i (c + BitVec.ofInt 64 (strokeOffset v.raw)) then lockEnd s n k c now startSide else s
    | none => s

/-- R99: in cycle 0 of every tick each tracker predicts its unlocked strokes and pulse ends. -/
def predictAll (s : State) : State :=
  forAll (indices 16) s fun s i =>
    forStrokes s i fun s n k v =>
      let s := if v.locked then s else predictStart s n k v i
      match getSlot s.nibs[n] k with
      | some v => if v.locked && isPulseAngle v && v.next.isNone then predictPulseEnd s n k v i else s
      | none => s

/-! The tracker falters (R91, R94, R100, R122). -/

/-- R71, R91, R94, R100: unlocked strokes of the tracker are cancelled. -/
def cancelUnlocked (s : State) (i : TrackIx) (st : StrokeStatus) : State :=
  forStrokes s i fun s n k v => if v.locked then s else cancelSlot s n k st

/-- R122: the earlier of a planned edge and the limit. -/
def earlier (a : Option W64) (b : W64) : W64 := match a with | some a => if precedes a b then a else b | none => b

/-- R122: one pulse when its tracker enters STALLED (`hold`: HOLD keeps it), REVERSING, or leaves SYNCED. -/
def stallPulse (s : State) (n : NibIx) (k : SlotIx) (v : StrokeSlot) (hold : Bool) : State :=
  let pol := fld s.nibs[n].safe 4 3
  let limit := nowTime s + 64
  let cut : StrokeFlags := { v.flags with truncated := true }
  match strokeAction v.raw with
  | some .pulseAngle =>
    if pol = 2 ∧ hold then modSlot s n k fun v => { v with heldEnd := v.next.isNone }
    else if v.placed.isSome then
      modSlot s n k fun v => { v with next := some (earlier v.next limit), nextPlan := none, heldEnd := false, flags := cut }
    else modSlot s n k fun v => { v with next := some (v.place + 8), nextPlan := none, flags := cut }
  | some .pulse | some .pulseLow =>
    if (pol = 0 ∨ pol = 3) ∧ v.placed.isSome then
      modSlot s n k fun v => { v with next := some (earlier v.next limit), nextPlan := none, flags := cut }
    else s
  | some .burst =>
    if (pol = 0 ∨ pol = 3) ∧ v.placed.isSome then
      if v.highNow then modSlot s n k fun v => { v with next := some (earlier v.next limit), nextPlan := none, left := 1, flags := cut }
      else endStroke s n k { v with flags := cut } .done
    else s
  | _ => s

/-- R122: every pulse in progress of the tracker. -/
def stallPulses (s : State) (i : TrackIx) (hold : Bool) : State :=
  forStrokes s i fun s n k v => if v.locked then stallPulse s n k v hold else s

end Sys2Proof.Machine
end

