-- ==== Sys2Proof/Machine/Emulator.lean ====
section
/-! DEFINITION. Events of a feedback channel (R185) and its encoder emulator: the count (R186), crossings and edges
(R187), holding and rebase (R188), and the nibs in EMU mode (R133). -/
namespace Sys2Proof.Machine

/-- R185: an event of a channel: its bit, and where enabled its record and its routes. -/
def raiseFbEvent (s : State) (b : FbIx) (bit : Nat) (angle : Word) (time : W64) : State :=
  let s := modFb s b fun x => { x with evtStatus := setBit x.evtStatus bit true }
  let x := s.channels[b]
  if tst x.evtEnable bit then
    let record := mkRecord (0x50 + bit) b x.seq.toNat angle time
    let s := deliverRecord (modFb s b fun x => { x with seq := x.seq + 1 }) .feedback b bit record 4
    deliverEvent s .feedback b bit (unitNo s .feedback b)
  else s

/-! R190: the fields of EMU_CTRL. -/
def emuOfChannel (m : Emulator) : Bool := tst m.ctrl 1
def emuSrc (m : Emulator) : Fin 16 := Fin.ofNat 16 (fld m.ctrl 5 2)
def emuLines4 (m : Emulator) : Int := 4 * fld m.lines 16 0

/-- R186: the output count of a position X. -/
def emuCount (m : Emulator) (x : Int) : Int := (x - m.forceOfs.toNat) * emuLines4 m / 2 ^ 32

/-- R186: X of the emulator's source. -/
def emuX (s : State) (m : Emulator) : Int :=
  if emuOfChannel m then
    s.channels[emuSrc m].pos.toInt * 2 ^ (32 - min 32 (fld m.ctrl 12 8))
  else (reportedPos s.trackers (nowTime s) 17 (emuSrc m)).toInt

/-- R188: a tracker source in any state but SYNCED gives no crossing. -/
def emuLive (s : State) (m : Emulator) : Bool := emuOfChannel m || s.trackers[emuSrc m].state == .synced

/-- The count that the outputs stand for when every waiting edge has been placed. -/
def emuFinal (m : Emulator) : Int := match m.waiting.getLast? with | some e => e.2 | none => m.out

/-- R188: the count nearest to the source's that leaves A and B as they are. DEDUCED (log entry 54). -/
def emuNearest (y out : Int) : Int :=
  let r := (y - out) % 4
  if r ≤ 2 then y - r else y + 1

/-- R186: the outputs A, B and Z of a count; all low while the emulator is off (R188). -/
def emuOutput (m : Emulator) (which : Nat) : Bool :=
  let p := (m.out % 4).toNat
  let a := p == 1 || p == 2
  let b := p == 2 || p == 3
  let zw : Int := if tst m.ctrl 6 then 4 else 1
  m.run && match which with
    | 1 => if tst m.ctrl 7 then a else b
    | 2 => m.out % (max 1 (emuLines4 m)) < zw
    | _ => if tst m.ctrl 7 then b else a

/-- R144: the emulator and the output that a nib in EMU mode carries. -/
def nibEmu (x : Nib) : FbIx := Fin.ofNat 16 (fld x.param0 3 0)
def nibEmuOutput (x : Nib) : Nat := fld x.param0 5 4

/-- The level an emulator output gives a pin. -/
def levelDrive (l : Bool) : Drive := if l then .high else .low

/-- R133: the nib is one that carries an output of the emulator. -/
def carriesEmu (x : Nib) (b : FbIx) : Bool := nibMode x == 3 && x.run && !x.inSafe && nibEmu x == b

/-- R133: the nibs that follow the emulator take an edge at `t` where their output is no longer what it was in `old`. -/
def emuDrive (s : State) (b : FbIx) (old : Emulator) (t : W64) : State :=
  let m := s.channels[b].emu
  forAll (indices 256) s fun s n =>
    let x := s.nibs[n]
    let w := nibEmuOutput x
    if x.emuOn && carriesEmu x b && emuOutput m w != emuOutput old w then
      driveAt s n t (levelDrive (emuOutput m w)) else s

/-- R188: the emulator rebases without a crossing: the count that its outputs stand for becomes the one nearest to its
source's with the same A and B, the edges that wait move along, and the remaining difference follows them. `old` is the
emulator whose outputs the pins carry. DEDUCED (log entry 170). -/
def emuRebase (s : State) (b : FbIx) (old : Emulator) (time : W64) : State :=
  let m := s.channels[b].emu
  let y := emuCount m (emuX s m)
  let shift := emuNearest y m.out - m.out
  let s := modEmu s b fun m => { m with
    y := y
    out := m.out + shift
    waiting := (m.waiting.map fun e => (e.1, e.2 + shift)) ++ (if y = emuFinal m + shift then [] else [(time, y)])
    holding := false }
  raiseFbEvent (emuDrive s b old (nowTime s)) b 11 (BitVec.ofInt 32 y) time

/-- R187, R188: the emulator sees the position of its source at `time`. -/
def emuFollow (s : State) (b : FbIx) (time : W64) : State :=
  let m := s.channels[b].emu
  if !m.run then s
  else if !emuLive s m then modEmu s b fun m => { m with holding := true }
  else if m.holding then emuRebase s b m time
  else
    let y := emuCount m (emuX s m)
    if y = m.y then s else modEmu s b fun m => { m with y := y, waiting := m.waiting ++ [(time, y)] }

/-- Every running emulator sees its source at `time`. -/
def emuFollowAll (s : State) (time : W64) : State :=
  if s.channels.toList.any fun x => x.emu.run then forAll (indices 16) s fun s b => emuFollow s b time else s

/-- R187: where the next edge is placed, and whether it was moved to hold the edge rate. -/
def emuPlace (s : State) (m : Emulator) : Option (W64 × Bool) :=
  match m.waiting with
  | [] => none
  | (t, _) :: _ =>
    let plan := t + BitVec.ofNat 64 (8 * s.time.period + 128)
    match m.lastEdge with
    | some e => if precedes plan (e + 800) then some (e + 800, true) else some (plan, false)
    | none => some (plan, false)

/-- R133: at a tick, nibs whose output is to start, or which have left the SAFE state, follow their emulator from 64
eighths after it. -/
def emuStart (s : State) : State :=
  forAll (indices 256) s fun s n =>
    let x := s.nibs[n]
    if nibMode x = 3 ∧ x.run ∧ !x.inSafe ∧ !x.emuOn ∧ x.emuFrom.isNone then
      modNib s n fun x => { x with emuFrom := some (nowTime s + 64) } else s

/-- R133: the nib is to follow the emulator from now on. -/
def emuNibDue (s : State) (b : FbIx) (x : Nib) : Bool := carriesEmu x b && x.emuFrom.any (dueNow s)

/-- R133: nibs whose time has come drive their output's present level. -/
def emuBegin (s : State) (b : FbIx) : State :=
  forAll (indices 256) s fun s n =>
    let x := s.nibs[n]
    if emuNibDue s b x then
      driveAt (modNib s n fun x => { x with emuOn := true, emuFrom := none }) n (x.emuFrom.getD 0)
        (levelDrive (emuOutput s.channels[b].emu (nibEmuOutput x)))
    else s

/-- R133, R187: a nib is to follow the emulator, or its next edge is due. -/
def emuDue (s : State) (b : FbIx) : Bool :=
  s.nibs.toList.any (emuNibDue s b) ||
    match emuPlace s s.channels[b].emu with | some (t, _) => dueNow s t | none => false

/-- R187: the emulator after its next output edge. -/
def emuMoved (m : Emulator) : Emulator :=
  match m.waiting with
  | (_, y) :: rest =>
    let out := if m.out < y then m.out + 1 else if y < m.out then m.out - 1 else m.out
    { m with out := out, waiting := if out = y then rest else m.waiting }
  | [] => m

/-- R187: one output edge. -/
def emuStep (s : State) (b : FbIx) : State :=
  let m := s.channels[b].emu
  match emuPlace s m with
  | some (t, moved) =>
    let s := modEmu s b fun m => { emuMoved m with lastEdge := some t }
    let s := if moved then
        raiseFbEvent (modFb s b fun x => { x with emuMoved := satAdd x.emuMoved 1 }) b 10 (BitVec.ofInt 32 m.y) t
      else s
    emuDrive s b m t
  | none => s

/-- R133, R187: the nibs that are to follow the emulator do, else its next output edge is placed. -/
def execEmuEdge (b : FbIx) (s : State) : Host.Outcome State Fault Refusal :=
  finish (if s.nibs.toList.any (emuNibDue s b) then emuBegin s b else if emuDue s b then emuStep s b else s)

/-- R190: CYC_LOG2 lies in its range. DEDUCED (log entry 169). -/
def emuCtrlOk (v : Word) : Bool := 1 ≤ fld v 12 8 && fld v 12 8 ≤ 24

/-- R190, EVT_STATUS: a write was refused. -/
def fbCfgErr (s : State) (b : FbIx) : State :=
  raiseFbEvent (modFb s b fun x => { x with cfgErr := true }) b 12 (s.channels[b].pos.truncate 32) (nowTime s)

/-- R188: the emulator's effective enable goes to 1: it rebases from outputs that are low. -/
def emuEnable (s : State) (b : FbIx) : State :=
  let old := s.channels[b].emu
  let s := modEmu s b fun m => { m with run := true, y := 0, out := 0, waiting := [], holding := false }
  if emuLive s s.channels[b].emu then emuRebase s b old (nowTime s)
  else emuDrive (modEmu s b fun m => { m with holding := true }) b old (nowTime s)

/-- R188: the emulator's effective enable goes to 0; its nibs hold their outputs low. -/
def emuOff (s : State) (b : FbIx) : State :=
  let old := s.channels[b].emu
  let s := modEmu s b fun m => { m with run := false, y := 0, out := 0, waiting := [], holding := false }
  emuDrive s b old (nowTime s)

/-- R188, R271: the effective enable of the emulator after its own field or a glyph above it changed. -/
def emuReview (s : State) (b : FbIx) : State :=
  let m := s.channels[b].emu
  let want := tst m.ctrl 0 && glyphsOn s .feedback b
  if want && !m.run then emuEnable s b else if !want && m.run then emuOff s b else s

/-- R190: a write of EMU_CTRL. While EN is 1 a write that would change another field is refused whole. -/
def writeEmuCtrl (s : State) (b : FbIx) (v : Word) : State :=
  let m := s.channels[b].emu
  let v := v &&& 0x1FFF
  let locked := tst m.ctrl 0 && (v &&& 0x1FFE) != (m.ctrl &&& 0x1FFE)
  if locked || !emuCtrlOk v then fbCfgErr s b
  else emuReview (modEmu s b fun m => { m with ctrl := v }) b

/-- R190: a write of EMU_LINES. -/
def writeEmuLines (s : State) (b : FbIx) (v : Word) : State :=
  let m := s.channels[b].emu
  let l := fld v 16 0
  if tst m.ctrl 0 || l == 0 || 65536 < l then fbCfgErr s b
  else modEmu s b fun m => { m with lines := BitVec.ofNat 32 l }

end Sys2Proof.Machine
end

