-- ==== Sys2Proof/Machine/Track.lean ====
section
/-! DEFINITION. How a tracker changes: events (R104), states (R87), what follows a change (SLAVE trackers, R98;
crossings, R115; emulators, R187), references (R84 to R86), learning (R101), phase measurement (R103), and the
processing of teeth, counts and samples (R75 to R96). -/
namespace Sys2Proof.Machine

/-! Events and states. -/

/-- R104: an event of a tracker: its bit, and where enabled its record and its routes. -/
def raiseTrackEvent (s : State) (i : TrackIx) (bit : Nat) (time : W64) : State :=
  let s := modTrack s i fun t => { t with evtStatus := setBit t.evtStatus bit true }
  let t := s.trackers[i]
  if tst t.evtEnable bit then
    let angle : Word := (reportedPos s.trackers (nowTime s) 17 i).truncate 32
    let record := mkRecord (0x20 + bit) i t.seq.toNat angle time
    let s := deliverRecord (modTrack s i fun t => { t with seq := t.seq + 1 }) .tracker i bit record 3
    deliverEvent s .tracker i bit (unitNo s .tracker i)
  else s

/-- STATUS.CFG_ERR of a tracker (R70, R71). -/
def trackCfgErr (s : State) (i : TrackIx) : State :=
  raiseTrackEvent (modTrack s i fun t => { t with cfg := { t.cfg with cfgErr := true } }) i 14 (nowTime s)

/-- The tracker reports an angle. -/
def hasAngle (st : TrackState) : Bool := st == .synced || st == .stalled

/-- R84, R85: what a search keeps as its tracker loses its place: an external event that no tooth has met.
DESIGN CHOICE (log entry 146). -/
def freshSearch (x : Search) : Search := { external := x.external }

/-- R87: entry into a state, with what it brings the tracker's strokes (R91, R94, R100, R122), before its events.
DEDUCED (log entry 144). -/
def takeState (s : State) (i : TrackIx) (new : TrackState) : State :=
  let t := s.trackers[i]
  let old := t.state
  if old = new then s
  else
    let here := reportedPos s.trackers (nowTime s) 17 i
    let lost := new == .counting || new == .unsynced
    let s := modTrack s i fun t => { t with
      state := new
      pos := if hasAngle old || old == .reversing then here else t.pos
      leftCycle := if hasAngle old && !hasAngle new then some ((here >>> 32).truncate 48) else t.leftCycle
      hist := if lost || old == .stalled then [] else t.hist
      suspect := if lost then none else t.suspect
      search := if new == .reversing then {} else if lost && old != .unsynced then freshSearch t.search else t.search
      learn := if old == .synced then { t.learn with opened := none, times := [] } else t.learn
      stallPos := t.lastPos
      synthRun := 0
      syncLosses := if lost && (hasAngle old || old == .reversing) then satAdd t.syncLosses 1 else t.syncLosses }
    let s := if old == .synced then leaveUnjudged s i else s
    match new with
    | .stalled => stallPulses (cancelUnlocked s i .cancelledStall) i true
    | .reversing => stallPulses (cancelUnlocked s i .cancelledReverse) i false
    | .counting | .unsynced =>
      if old == .synced then stallPulses (cancelUnlocked s i .cancelledSync) i false
      else if old == .stalled then stallPulses s i false else s
    | .synced => s

/-- R87, R91, R104: the events of a change of state from `old`, once the tracker reports what it is to report. -/
def noteState (s : State) (i : TrackIx) (old : TrackState) (time : W64) : State :=
  let new := s.trackers[i].state
  if old = new then s
  else
    let s := if old == .stalled then raiseTrackEvent s i 3 time else s
    match new with
    | .synced => raiseTrackEvent s i 0 time
    | .stalled => raiseTrackEvent s i 2 time
    | .reversing => raiseTrackEvent s i 4 time
    | .counting | .unsynced =>
      if hasAngle old || old == .reversing then raiseTrackEvent s i 1 time else s

/-- R87: entry into a state, with its events. -/
def enterState (s : State) (i : TrackIx) (new : TrackState) (time : W64) : State :=
  noteState (takeState s i new) i s.trackers[i].state time

/-- R92: the direction of motion of a tracker, before its event; the first one known is no change. -/
def turnTo (s : State) (i : TrackIx) (rev : Bool) : State :=
  let t := s.trackers[i]
  if !t.dirKnown then modTrack s i fun t => { t with dirKnown := true, reverse := rev }
  else if t.reverse = rev then s
  else modTrack s i fun t => { t with reverse := rev, hist := [], dirChanges := satAdd t.dirChanges 1 }

/-- R92, R104: the event of a change of direction from what `t` had. A compact tracker that turns backward raises
REVERSE as it enters REVERSING. -/
def noteTurn (s : State) (i : TrackIx) (t : Tracker) (time : W64) : State :=
  let rev := s.trackers[i].reverse
  if !t.dirKnown || t.reverse == rev || (rev && !isFull i && t.state != .reversing) then s
  else raiseTrackEvent s i (if rev then 4 else 5) time

/-- R92: the direction of motion of a tracker that moves by itself, with its event. -/
def setDirection (s : State) (i : TrackIx) (rev : Bool) (time : W64) : State :=
  noteTurn (turnTo s i rev) i s.trackers[i] time

/-! What follows a change. -/

/-- R87, R94: the state a SLAVE tracker takes from its master. -/
def slaveState (s : State) (i : TrackIx) : TrackState :=
  let m := s.trackers[masterOf s.trackers[i]].state
  if !isFull i && m == .synced && runsBack s.trackers (nowTime s) 17 i then .reversing else m

/-- R92, R94, R97: a VIRTUAL tracker between updates turns with the sign of its rate. -/
def virtualState (s : State) (i : TrackIx) : TrackState :=
  let t := s.trackers[i]
  if !isFull i && t.state == .synced && runsBack s.trackers (nowTime s) 17 i then .reversing else t.state

/-- R92, R94, R98, R105: one SLAVE or VIRTUAL tracker follows its master or its rate. -/
def followOne (s : State) (i : TrackIx) (time : W64) : State :=
  let t := s.trackers[i]
  if !t.cfg.run then s
  else match srcKind t with
    | .slave =>
      let m := s.trackers[masterOf t]
      let s := if m.dirKnown || m.virt.isSome then setDirection s i (runsBack s.trackers (nowTime s) 17 i) time else s
      enterState s i (slaveState s i) time
    | .virtual_ =>
      let s := if t.virt.isSome && t.state != .reversing then
          setDirection s i (runsBack s.trackers (nowTime s) 17 i) time else s
      enterState s i (virtualState s i) time
    | _ => s

/-- A tracker follows others or its own rate. -/
def follows (t : Tracker) : Bool := t.cfg.run && (srcKind t == .slave || srcKind t == .virtual_)

/-- R98, R105: SLAVE trackers follow at any depth in the same cycle; a chain has at most 16 members. -/
def followMasters (s : State) (time : W64) : State :=
  if s.trackers.toList.any follows then
    forAll (indices 16) s fun s _ => forAll (indices 16) s fun s i => followOne s i time
  else s

/-- R154: the reported position is remembered for 512 core cycles. -/
def logPos (s : State) (i : TrackIx) : State :=
  let p := reportedPos s.trackers (nowTime s) 17 i
  let tb := s.time.tb
  modTrack s i fun t =>
    let entry := (tb, p, hasAngle t.state)
    let older := t.log.filter fun e => e.1 != tb
    let recent := older.takeWhile fun e => precedes (tb - 512) e.1
    { t with log := entry :: (recent ++ (older.drop recent.length).take 1) }

/-- Trackers moved between `before` and now: strokes crossed, CYCLE, the log and the emulators follow. -/
def trackMoved (before : State) (s : State) (time : W64) (jump : Bool) : State :=
  let s := forAll (indices 16) s fun s i =>
    let t0 := before.trackers[i]
    let old := reportedPos before.trackers (nowTime before) 17 i
    let new := reportedPos s.trackers (nowTime s) 17 i
    if old = new && t0.state = s.trackers[i].state then s
    else
      let s := if hasAngle t0.state && hasAngle s.trackers[i].state then
          let s := crossStrokes s i t0 old new (runsBack s.trackers (nowTime s) 17 i) time jump
          if old >>> 32 = new >>> 32 then s else raiseTrackEvent s i 11 time
        else s
      logPos s i
  emuFollowAll s time

/-- A change of tracker `s → s'` with all that follows it in the same cycle. -/
def trackChanged (before : State) (s : State) (time : W64) (jump : Bool) : State :=
  trackMoved before (followMasters s time) time jump

/-! Phase measurement (R103). -/

/-- R103: the average after a sample, and whether it is valid. -/
def phaseSample (p : Phase103) (x : Int) : Phase103 × Bool :=
  let k := min 8 (fld p.ctrl 11 8)
  let p := { p with last := BitVec.ofInt 32 x, seq := p.seq + 1 }
  if tst p.ctrl 12 then
    let avg := p.avg.toInt + (x - p.avg.toInt) / 2 ^ k
    let n := p.count + 1
    ({ p with avg := BitVec.ofInt 32 avg, count := n, valid := p.valid || 2 ^ k ≤ n }, true)
  else
    let sum := p.sum + x
    if 2 ^ k ≤ p.count + 1 then
      ({ p with avg := BitVec.ofInt 32 (sum / 2 ^ k), sum := 0, count := 0, valid := true }, true)
    else ({ p with sum := sum, count := p.count + 1 }, false)

/-! R88, R91: STALL_TIME. -/

/-- R106: STALL_TIME in eighths. -/
def stallEighths (t : Tracker) : Nat := 8000 * max 1 (fld t.cfg.stallTime 23 0)

/-- R80: the tracker's reported angle advances in micro-ticks. -/
def interpolates (t : Tracker) : Bool :=
  t.state == .synced && (srcKind t == .tooth || srcKind t == .quad || srcKind t == .serial)

/-- R91: since when the tracker has stood still. -/
def stillSince (t : Tracker) : W64 :=
  if srcKind t = .tooth then t.stallSince
  else
    let a := if precedes t.near[0] t.near[1] then t.near[0] else t.near[1]
    if precedes a t.near[2] then a else t.near[2]

/-- STALL_TIME has passed since a record time. -/
def stallPassed (s : State) (t : Tracker) (since : W64) : Bool :=
  (stallEighths t : Int) < (nowTime s - since).toInt + 8

/-- R91: the tracker stalls. DEDUCED (log entry 39). -/
def stallDue (s : State) (i : TrackIx) : Bool :=
  let t := s.trackers[i]
  interpolates t && stallPassed s t (stillSince t)

/-- R105: the tracker, or a master it follows, stalls in the present cycle. -/
def stallsNow (s : State) : Nat → TrackIx → Bool
  | 0, _ => false
  | fuel + 1, i =>
    let t := s.trackers[i]
    if srcKind t = .slave then stallsNow s fuel (masterOf t) else t.waiting.isEmpty && stallDue s i

/-- R103: a reference of tracker `i` at `time`: every phase measurement that it triggers takes a sample. -/
def phaseReference (s : State) (i : TrackIx) (time : W64) : State :=
  forAll (indices 16) s fun s j =>
    let p := s.trackers[j].phase
    let other : TrackIx := Fin.ofNat 16 (fld p.ctrl 4 1)
    let (trig, meas) := if tst p.ctrl 5 then (other, j) else (j, other)
    if !tst p.ctrl 0 || trig != i then s
    else match s.trackers[i].state, s.trackers[meas].state, stampPos s.trackers[meas] time, stallsNow s 17 meas with
      | .synced, .synced, some pos, false =>
        let x := ((pos.truncate 32 : Word) - p.nominal).toInt
        let (p, ready) := phaseSample p x
        let s := modTrack s j fun t => { t with phase := p }
        if ready then raiseTrackEvent s j 12 time else s
      | _, _, _, _ => modTrack s j fun t => { t with phase := { t.phase with discarded := satAdd t.phase.discarded 1 } }

/-! Learning (R101, R102). -/

/-- The first REF entry of the map. DEDUCED (log entry 33). -/
def learnRef (t : Tracker) : Nat :=
  ((List.range (teethOf t)).find? fun k => (mapEntry t k).flags.getLsbD 0).getD 0

/-- R101: the learned correction of one entry, and whether it was held at its bound. -/
def learnEntry (t : Tracker) (tR : W64) (len : Nat) (k : Nat) (time : W64) : Word × Bool :=
  let m := mapEntry t k
  let e : Word := BitVec.ofNat 32 ((time - tR).toNat * 2 ^ 32 / len) - m.angle
  let c := m.corr.toInt + (e.toInt - m.corr.toInt) / 2 ^ fld t.learn.ctrl 7 4
  let bound : Int := min (pitchOf t k) (pitchOf t (entryBeforeK t k)) / 4
  if bound < c then (BitVec.ofInt 32 bound, true)
  else if c < -bound then (BitVec.ofInt 32 (-bound), true)
  else (BitVec.ofInt 32 c, false)

/-- R101: a whole cycle is learned. -/
def learnCycle (t : Tracker) (tR : W64) (len : Nat) : Tracker :=
  let ref := learnRef t
  let t' := t.learn.times.foldl (fun (u : Tracker) (k, time) =>
    if k = ref || (mapEntry t k).flags.getLsbD 4 then u
    else
      let (c, held) := learnEntry t tR len k time
      { u with
        map := { u.map with entries := sparsePut {} u.map.entries k { mapEntry t k with corr := c } }
        learn := { u.learn with limit := u.learn.limit || held } }) t
  { t' with learn := { t'.learn with cycles := satAdd t'.learn.cycles 1 } }

/-- R101: the cycle that a REF tooth closes is one to learn from. -/
def learnable (l : Learn) (len : Nat) : Bool :=
  !l.spoiled && match l.previous with
    | none => true
    | some p => (len - p + (p - len)) * 65536 ≤ fld l.ctrl 15 8 * p

/-- R102: LEARN_CTRL.MODE; 3 acts as 2. -/
def learnMode (v : Word) : Nat := min 2 (fld v 1 0)

/-- R101, R102: a tooth of a SYNCED tracker reaches an entry. -/
def learnTooth (s : State) (i : TrackIx) (entry : Nat) (time : W64) : State :=
  let t := s.trackers[i]
  let l := t.learn
  if entry ≠ learnRef t then
    if l.mode = 1 then modTrack s i fun t => { t with learn := { t.learn with times := l.times ++ [(entry, time)] } }
    else s
  else
    let restart (t : Tracker) (len : Option Nat) : Tracker :=
      { t with learn := { t.learn with
        mode := learnMode t.learn.ctrl, opened := some time, times := [], spoiled := false, previous := len } }
    match l.opened with
    | some tR =>
      let len := (time - tR).toNat
      if l.mode = 1 ∧ learnMode l.ctrl = 1 ∧ len ≠ 0 then
        if learnable l len then raiseTrackEvent (modTrack s i fun t => restart (learnCycle t tR len) (some len)) i 13 time
        else modTrack s i fun t =>
          restart { t with learn := { t.learn with skipped := satAdd t.learn.skipped 1 } } (some len)
      else modTrack s i fun t => restart t (some len)
    | none => modTrack s i fun t => restart t l.previous

/-- R101: the cycle in progress is spoiled. -/
def spoilLearning (s : State) (i : TrackIx) : State :=
  modTrack s i fun t => { t with learn := { t.learn with spoiled := true } }

/-! Teeth of a TOOTH source. -/

/-- REF_CTRL and PRED_CTRL (R107). -/
def refRatio (t : Tracker) : Nat := fld t.cfg.refCtrl 15 8
def noiseRatio (t : Tracker) : Nat := fld t.cfg.predCtrl 31 24
def missRatio (t : Tracker) : Nat := fld t.cfg.predCtrl 23 16
def maxSynth (t : Tracker) : Nat := fld t.cfg.predCtrl 11 8
def syncRefs (t : Tracker) : Nat := fld t.cfg.refCtrl 7 6

/-- R84: the level of the cycle wheel. -/
def camLevel (s : State) (t : Tracker) : Bool := s.nibs[(Fin.ofNat 256 (fld t.cfg.refCtrl 23 16) : NibIx)].inp.level

/-- R77, R93: the entry of the tooth that carries the reference feature; backward, an interval feature is closed by
the entry before. -/
def refTooth (t : Tracker) (cam : Bool) : Option Nat :=
  (refEntry t cam).map fun r =>
    if t.reverse && (refKind t == .gap || refKind t == .extra) then entryBeforeK t r else r

/-- The next entry in the direction of motion. -/
def nextEntry (t : Tracker) : Nat := if t.reverse then entryBeforeK t t.entry else entryAfter t t.entry

/-- R89, R93: the map places a reference feature at the next entry. -/
def featureNext (t : Tracker) : Bool :=
  let f (k : Nat) : BitVec 5 := (mapEntry t k).flags
  let n := nextEntry t
  let closes := if t.reverse then t.entry else n
  match refKind t with
  | .gap => (f closes).getLsbD 0
  | .extra => (f closes).getLsbD 0 || (f closes).getLsbD 2
  | .width => (f n).getLsbD 0 || (f n).getLsbD 3
  | _ => false

/-- R83: a tooth shows the reference feature. -/
def featureSeen (t : Tracker) (d : Nat) (width : Option Nat) : Bool :=
  match refKind t, t.lastInterval with
  | .gap, some p => refRatio t * p ≤ 16 * d
  | .extra, some p => d * refRatio t ≤ 16 * p
  | .width, _ => match width with | some w => 8 * fld t.cfg.widthThr 31 16 ≤ w | none => false
  | _, _ => false

/-- R79, R89: P1, the predicted period for one pitch like the last entered one. -/
def onePitch (t : Tracker) : Option Int :=
  match t.hist, trackFit t with
  | x :: _, some f => some (roundUpHalf (fitTime f x.a))
  | _, _ => none

/-- R88, R89: a pulse `d` eighths after the last tooth of a SYNCED tracker is noise. -/
def isNoise (t : Tracker) (d : Int) : Bool :=
  match predPeriod t with
  | none => false
  | some p =>
    let under (p : Int) : Bool := 16 * d < noiseRatio t * p
    if refKind t == .gap && featureNext t then
      match onePitch t with
      | some p1 => under p1 || (missRatio t * p1 < 16 * d && under p)
      | none => under p
    else under p

/-- R89: an accepted tooth fails the feature check. -/
def failsCheck (t : Tracker) (d : Nat) (width : Option Nat) : Bool :=
  featureNext t && match refKind t with
    | .gap => match onePitch t with | some p1 => 16 * (d : Int) ≤ missRatio t * p1 | none => false
    | .extra => t.lastInterval.isSome && !featureSeen t d width
    | .width => !featureSeen t d width
    | _ => false

/-- R77, R93: the next entry is the one that the reference feature closes. -/
def refNext (t : Tracker) : Bool :=
  let k := if t.reverse && refKind t == .extra then t.entry else nextEntry t
  (mapEntry t k).flags.getLsbD 0

/-- R88, R89: the tooth is a reference that the tracker evaluates. An extra or wide tooth that the map places
elsewhere than at a REF entry is none, unless the reference is in doubt. -/
def isReference (t : Tracker) (d : Nat) (width : Option Nat) (failed : Bool) : Bool :=
  match refKind t with
  | .gap => (featureNext t && !failed) || (t.suspect.isSome && featureSeen t d width)
  | .extra | .width => featureSeen t d width && (t.suspect.isSome || !featureNext t || refNext t)
  | _ => false

/-- R88: a pulse is discarded. -/
def discardPulse (s : State) (i : TrackIx) (time : W64) : State :=
  let s := modTrack (noteDoubt (spoilLearning s i) i) i fun t => { t with noise := satAdd t.noise 1 }
  raiseTrackEvent s i 7 time

/-- R78: an interval is entered into the history. DESIGN CHOICE (log entry 139). -/
def enterInterval (h : List Interval) (d a : Nat) : List Interval :=
  if d = 0 ∨ a = 0 then h else ({ d := d, a := a } :: h).take 3

/-- R84: the history with the pitches of the entries it turned out to cover, the newest ending at `entry`. -/
def retag (t : Tracker) (entry : Nat) (h : List Interval) : List Interval :=
  let n := teethOf t
  h.zipIdx.map fun (x, j) =>
    { x with a := pitchOf t (if t.reverse then (entry + j) % n else (entry + 2 * n - 1 - j) % n) }

/-- A tooth at an entry, at a position. -/
def standAt (t : Tracker) (entry : Nat) (pos : Pos) (time : W64) (synth early : Bool) : Tracker :=
  { t with
    entry := entry, base := pos, pos := pos, toothTime := time, hasTooth := true, synth := synth
    toothRev := t.reverse, early := early, micro := 0 }

/-- R82: the tooth came before its micro-ticks had run out. -/
def isEarly (t : Tracker) : Bool := !t.hist.isEmpty && t.micro < lastMicro t

/-- R86: a reference assigns an entry; the position of that entry nearest to the reckoning. -/
def correctedPos (t : Tracker) (reckoned : Pos) (entry : Nat) : Pos :=
  reckoned + (effAngle t entry - (reckoned.truncate 32 : Word)).signExtend 80

/-- R86: a resync is counted and raised. -/
def noteResync (s : State) (i : TrackIx) (time : W64) : State :=
  raiseTrackEvent (spoilLearning (modTrack s i fun t => { t with resyncs := satAdd t.resyncs 1 }) i) i 8 time

/-- R86: ANGLE_ERR, and in CHECK its judgement against REF_TOL. -/
def noteError (s : State) (i : TrackIx) (err : Word) (time : W64) : State :=
  let s := modTrack s i fun t => { t with angleErr := err }
  if tst s.trackers[i].cfg.refCtrl 3 && s.trackers[i].cfg.refTol.toNat < err.toInt.natAbs then
    raiseTrackEvent s i 10 time else s

/-- R85, R86: an EXTERNAL reference waits for this tooth. -/
def externalAt (t : Tracker) (time : W64) : Bool :=
  refKind t == .external && match t.search.external with | some e => notAfter e time | none => false

/-- R88 to R90: an accepted tooth of a SYNCED TOOTH tracker. DESIGN CHOICE (log entry 138). -/
def acceptSynced (s : State) (i : TrackIx) (x : ToothIn) : State :=
  let t := s.trackers[i]
  let d := (x.time - t.toothTime).toNat
  let n := nextEntry t
  let failed := failsCheck t d x.width
  let external := externalAt t x.time
  let reference := isReference t d x.width failed || external
  let target := if reference then (refTooth t (camLevel s t)).getD n else n
  let err := if target = n then (0 : Word) else effAngle t target - effAngle t n
  let checkOnly := external && tst t.cfg.refCtrl 3
  let entry := if checkOnly then n else target
  let reckoned := movePos t.base t.reverse (nextPitch t)
  let pos := if entry = n then reckoned else correctedPos t reckoned entry
  let pitch := if entry = n then nextPitch t
    else if t.reverse then pitchOf t entry else pitchOf t (entryBeforeK t entry)
  let real := !t.synth
  let early := isEarly t
  let suspect := if reference && !external then none
    else match t.suspect with
      | some m => some (m + 1)
      | none => if failed then some 0 else none
  let s' := modTrack s i fun t =>
    { standAt t entry pos x.time false early with
      hist := if failed || !real then t.hist else enterInterval t.hist d pitch
      lastInterval := if real then some d else none
      synthRun := 0
      stallSince := x.time
      suspect := suspect
      search := if external then { t.search with external := none } else t.search }
  let s' := if failed then
      let s' := noteDoubt (spoilLearning (modTrack s' i fun t => { t with refMiss := satAdd t.refMiss 1 }) i) i
      raiseTrackEvent s' i 9 x.time
    else s'
  let s' := noteEntry s' i n x.time false
  let s' := if reference then
      let s' := if checkOnly || external then noteError s' i err x.time else modTrack s' i fun t => { t with angleErr := err }
      let s' := if err ≠ 0 ∧ !checkOnly then noteResync s' i x.time else s'
      judgeStrokes s' i (if checkOnly then 0 else target + teethOf t - n) (teethOf t) x.time
    else s'
  let s' := learnTooth s' i entry x.time
  let s' := trackChanged s s' x.time (early || err != 0)
  let s' := if (mapEntry t entry).flags.getLsbD 0 then phaseReference s' i x.time else s'
  match s'.trackers[i].suspect with
  | some m => if teethOf t + 1 ≤ m then trackChanged s' (enterState s' i .counting x.time) x.time false else s'
  | none => s'

/-- R84: the tooth is a candidate for the REF tooth. -/
def isCandidate (t : Tracker) (d : Option Nat) (x : ToothIn) : Bool :=
  match refKind t with
  | .first => t.search.teeth == 0 || (t.search.confirmed != 0 && t.search.since + 1 == teethOf t)
  | .external => externalAt t x.time
  | .width => featureSeen t 0 x.width
  | .gap | .extra => match d with | some d => featureSeen t d x.width | none => false
  | _ => false

/-- R84: the tooth after a candidate lies in the normal pitch window; FIRST needs none. -/
def confirms (t : Tracker) (r : Nat) (d : Nat) : Bool :=
  if refKind t == .first then true
  else
    let u := { t with hist := retag t r t.hist, entry := r }
    match predPeriod u with
    | none => true
    | some p => noiseRatio t * p ≤ 16 * (d : Int) && 16 * (d : Int) ≤ missRatio t * p

/-- R84: the search once candidate `c` is confirmed: one more in step with the last, one map cycle after it; with
CAM_EN a candidate of the other REF entry in its place between them counts for nothing; any other starts anew.
DEDUCED (log entry 147). -/
def confirmSearch (t : Tracker) (c : Nat) : Search :=
  let x := t.search
  let n := teethOf t
  let apart := if t.reverse then (x.lastRef + n - c) % n else (c + n - x.lastRef) % n
  if x.confirmed ≠ 0 ∧ c = x.lastRef ∧ x.since = n then { x with confirmed := x.confirmed + 1, since := 0 }
  else if x.confirmed ≠ 0 ∧ c ≠ x.lastRef ∧ x.since = apart then x
  else { x with confirmed := 1, since := 0, lastRef := c }

/-- R84: entry into SYNCED at the tooth after the REF tooth. -/
def syncAt (s : State) (i : TrackIx) (r : Nat) (time : W64) : State :=
  let t := s.trackers[i]
  let n := if t.reverse then entryBeforeK t r else entryAfter t r
  let pos : Pos := ((t.leftCycle.getD 0).zeroExtend 80 <<< 32) ||| (effAngle t n).zeroExtend 80
  let s' := modTrack s i fun t =>
    { standAt t n pos time false false with
      hist := retag t n t.hist, search := {}, stallSince := time
      learn := { t.learn with mode := learnMode t.learn.ctrl } }
  trackChanged s (enterState s' i .synced time) time false

/-- R84, R87: an accepted tooth of a TOOTH tracker that is COUNTING, or whose search already runs in UNSYNCED. -/
def acceptCounting (s : State) (i : TrackIx) (x : ToothIn) : State :=
  let t := s.trackers[i]
  let d := if t.hasTooth && !t.synth then some (x.time - t.toothTime).toNat else none
  let ok := match t.search.candidate, d with | some c, some d => confirms t c d | _, _ => false
  let found := match t.search.candidate, ok with | some c, true => confirmSearch t c | _, _ => t.search
  let candidate := isCandidate { t with search := found } d x
  let r := refTooth t (camLevel s t)
  let s' := modTrack s i fun t => { t with
    hist := match d with | some d => enterInterval t.hist d (minPitch t) | none => t.hist
    lastInterval := d
    toothTime := x.time, hasTooth := true, synth := false, toothRev := t.reverse, early := false, stallSince := x.time
    search := { found with
      teeth := t.search.teeth + 1
      since := found.since + 1
      candidate := if candidate then r else none
      external := if candidate && refKind t == .external then none else t.search.external } }
  let s' := if candidate then phaseReference s' i x.time else s'
  match t.search.candidate, ok && syncRefs t + 1 ≤ found.confirmed with
  | some c, true => syncAt s' i c x.time
  | _, _ => s'

/-- R75, R87: an accepted tooth of a TOOTH tracker. -/
def acceptTooth (s : State) (i : TrackIx) (x : ToothIn) : State :=
  let t := s.trackers[i]
  match t.state with
  | .unsynced =>
    if t.hasTooth then acceptCounting (enterState s i .counting x.time) i x else acceptCounting s i x
  | .counting => acceptCounting s i x
  | .synced => acceptSynced s i x
  | .stalled =>
    if t.cfg.stallKeep then
      let s' := takeState s i .synced
      let s' := modTrack s' i fun t => { t with synth := true, lastInterval := none }
      noteState (acceptSynced s' i x) i .stalled x.time
    else
      let s' := enterState s i .counting x.time
      trackChanged s (acceptCounting (modTrack s' i fun t => { t with hasTooth := false }) i x) x.time false
  | .reversing =>
    let s' := enterState s i .counting x.time
    trackChanged s (acceptCounting (modTrack s' i fun t => { t with hasTooth := false }) i x) x.time false

/-- R92: the direction of a pulse. -/
def pulseReverse (t : Tracker) (x : ToothIn) : Bool :=
  if t.cfg.dirMode = 1 then
    match x.width with | some w => 8 * fld t.cfg.widthThr 15 0 ≤ w | none => false
  else false

/-- R75, R88, R92, R94: a pulse of a TOOTH source. -/
def processPulse (s : State) (i : TrackIx) (x : ToothIn) : State :=
  let t := s.trackers[i]
  let d := (x.time - t.toothTime).toInt
  if t.hasTooth && (x.time - t.stallSince).toInt < 320 then discardPulse s i x.time
  else
    let rev := pulseReverse t x
    if rev && !isFull i then
      let s' := enterState (turnTo s i true) i .reversing x.time
      trackChanged s s' x.time false
    else if t.state == .synced && (!t.dirKnown || t.reverse == rev) && isNoise t d then discardPulse s i x.time
    else noteTurn (acceptTooth (turnTo s i rev) i x) i t x.time

/-! Counts of a QUAD source and samples of a SERIAL source (R95, R96). -/

/-- R91: since when the position has stayed within 1 count of p - 1, p and p + 1, after a move to p. -/
def nearAfter (t : Tracker) (p : W64) (time : W64) : Vector W64 3 :=
  let move := (p - t.lastPos).toInt
  Vector.ofFn fun j : Fin 3 =>
    let k : Int := j.val + move
    if h : 0 ≤ k ∧ k < 3 then t.near[k.toNat]'(by omega) else time

/-- R95: COUNTS_IDX. -/
def countsIdx (t : Tracker) : Nat := let c := fld t.cfg.countsIdx 23 0; if c = 0 then countsOf t else c

/-- R95: index events missing so far for a position. -/
def missingIndexes (t : Tracker) (p : W64) : Nat :=
  match t.idxPos with
  | none => 0
  | some q => if countsIdx t = 0 then 0 else (p - q).toInt.natAbs / countsIdx t - 1

/-- R95: missing index events are counted, each once. -/
def noteMissing (s : State) (i : TrackIx) (time : W64) : State :=
  let t := s.trackers[i]
  let m := missingIndexes t t.lastPos
  if refKind t == .index && hasAngle t.state && t.idxMissed < m then
    let s := modTrack s i fun t => { t with idxMissed := m, refMiss := satAdd t.refMiss (m - t.idxMissed) }
    raiseTrackEvent s i 9 time
  else s

/-- R95, R96: the span between two positions of the tracker. -/
def countSpan (t : Tracker) (p q : W64) : Nat := (countPos t p - countPos t q).toInt.natAbs

/-- R95, R96: a count or a sample. A SERIAL tracker enters SYNCED at the first one. -/
def processCount (s : State) (i : TrackIx) (x : ToothIn) (p : W64) : State :=
  let t := s.trackers[i]
  let move := (p - t.lastPos).toInt
  let rev := match x.reverse with | some r => r | none => move < 0
  let turns := x.reverse.isSome || (t.hasTooth && move != 0)
  let s' := if turns then turnTo s i rev else s
  let d := (x.time - t.toothTime).toNat
  let early := t.state == .synced && isEarly s'.trackers[i]
  let near := if t.hasTooth then nearAfter t p x.time else Vector.replicate 3 x.time
  let enter (u : Tracker) : Tracker :=
    if t.hasTooth then { u with hist := enterInterval u.hist d (countSpan t p t.lastPos) } else u
  let place (u : Tracker) : Tracker := standAt u 0 (countPos u p) x.time false early
  let note (u : Tracker) : Tracker := { u with lastPos := p, near := near, stallSince := x.time }
  let serial := srcKind t == .serial
  let s' := match t.state with
    | .unsynced =>
      if serial then modTrack (takeState s' i .synced) i fun u => place (note (enter u))
      else if t.hasTooth then
        modTrack (takeState s' i .counting) i fun u => note (enter { u with toothTime := x.time })
      else modTrack s' i fun u => note { u with toothTime := x.time, hasTooth := true }
    | .counting =>
      if serial then modTrack (takeState s' i .synced) i fun u => place (note (enter u))
      else modTrack s' i fun u => note (enter { u with toothTime := x.time, hasTooth := true })
    | .synced | .reversing => modTrack s' i fun u => place (note (enter u))
    | .stalled =>
      if 2 ≤ (p - t.stallPos).toInt.natAbs then
        modTrack (takeState s' i .synced) i fun u => place (note u)
      else modTrack s' i fun u => note { u with toothTime := x.time }
  let s' := noteTurn (noteState s' i t.state x.time) i t x.time
  noteMissing (trackChanged s s' x.time (early || t.state == .stalled)) i x.time

/-- A number of counts modulo `m`, read as signed. -/
def signedMod (x : Int) (m : Nat) : Int :=
  if m = 0 then 0
  else
    let r := x % m
    if (m : Int) < 2 * r then r - m else r

/-- R86, R95: how far a reference position lies from where it should, in counts: an index event modulo COUNTS_IDX, an
external reference modulo a cycle. DEDUCED (log entry 143). -/
def deviation (t : Tracker) (p : W64) : Int :=
  signedMod (p - t.refPos).toInt (if refKind t = .index then countsIdx t else countsOf t)

/-- R86: the part of a deviation that shows in the angle; a correction leaves whole cycles alone. -/
def angleDeviation (t : Tracker) (p : W64) : Int := signedMod (deviation t p) (countsOf t)

/-- R85, R86: an index event or an external reference of a QUAD tracker, at a position. -/
def processReference (s : State) (i : TrackIx) (p : W64) (time : W64) : State :=
  let t := s.trackers[i]
  let index (u : Tracker) : Tracker := { u with idxPos := some p, idxMissed := 0 }
  match t.state with
  | .unsynced | .counting =>
    let s' := modTrack s i fun u =>
      let u := { index u with refPos := p, lastPos := if t.hasTooth then u.lastPos else p }
      { u with
        base := countPos u u.lastPos, pos := countPos u u.lastPos, micro := 0
        near := if t.hasTooth then u.near else Vector.replicate 3 time }
    let s' := enterState (modTrack s' i fun u => { u with state := .counting }) i .synced time
    phaseReference (trackChanged s s' time false) i time
  | .synced | .stalled =>
    let dv := angleDeviation t p
    let err : Word := 0 - BitVec.ofNat 32 (countAngle (countsOf t) dv)
    let s' := noteError (modTrack s i index) i err time
    let s' := if dv ≠ 0 ∧ !tst t.cfg.refCtrl 3 then
        let s' := modTrack s' i fun u =>
          let u := { u with refPos := u.refPos + BitVec.ofInt 64 dv }
          let base := countPos u u.lastPos
          { u with base := base, pos := u.pos + (base - t.base) }
        noteResync s' i time
      else s'
    phaseReference (trackChanged s s' time (dv != 0 && !tst t.cfg.refCtrl 3)) i time
  | .reversing => s

end Sys2Proof.Machine
end

