-- ==== Sys2Proof/Machine/Tracker.lean ====
section
/-! DEFINITION. The commands of the angle trackers (chapter 03): teeth, micro-ticks, deadlines, enable and its check
(R71), RESYNC (R87), gearing (R98), learning (R102), the map (R107), and what reaches a tracker from its sources. -/
namespace Sys2Proof.Machine

/-! What reaches the trackers (R75, R85, R95). -/

/-- A tooth, count, sample or reference on its way into a tracker. -/
def pushTooth (s : State) (i : TrackIx) (x : ToothIn) : State :=
  modTrack s i fun t => { t with waiting := t.waiting ++ [x] }

/-- R107: SRC. -/
def srcTsel (t : Tracker) : Bool := tst t.cfg.src 3
def srcInput (t : Tracker) : Nat := fld t.cfg.src 11 4
def srcEdge (t : Tracker) : Bool := tst t.cfg.src 12
/-- The feedback channel of a tracker's source. -/
def srcChannel (t : Tracker) : FbIx := Fin.ofNat 16 (fld t.cfg.src 7 4)

/-- R75: the tracker needs the width of each pulse. -/
def needsWidth (t : Tracker) : Bool := t.cfg.dirMode == 1 || refKind t == .width

/-- R75: an accepted edge of a nib input, for a TOOTH tracker on it. -/
def edgeToTracker (s : State) (i : TrackIx) (rising : Bool) (time : W64) : State :=
  let t := s.trackers[i]
  let leading := rising != srcEdge t
  if !needsWidth t then (if leading then pushTooth s i { time := time } else s)
  else if leading then modTrack s i fun t => { t with pulse := some time }
  else match t.pulse with
    | some p => pushTooth (modTrack s i fun t => { t with pulse := none }) i { time := p, width := some (time - p).toNat }
    | none => s

/-- R75: an accepted edge of a nib input reaches every TOOTH tracker on it. -/
def edgeToTrackers (s : State) (n : NibIx) (rising : Bool) (time : W64) : State :=
  forAll (indices 16) s fun s i =>
    let t := s.trackers[i]
    if t.cfg.run && srcKind t == .tooth && !srcTsel t && srcInput t == n.val then edgeToTracker s i rising time else s

/-- R85: the position of a channel at a record time. -/
def channelPosAt (x : Feedback) (time : W64) : W64 :=
  match x.log.find? fun e => notAfter e.1 time with | some e => e.2 | none => x.pos

/-- R85: an event that REF_EXT can select: the source code, and what its qualifiers must be. -/
def externalEvent (s : State) (src : Nat) (fits : Tracker → Bool) (time : W64) : State :=
  forAll (indices 16) s fun s i =>
    let t := s.trackers[i]
    if t.cfg.run && refKind t == .external && fld t.cfg.refExt 8 0 == src && fits t && t.state != .reversing
        && t.resyncAt != some s.time.tb then
      match srcKind t with
      | .tooth => modTrack s i fun t => { t with search := { t.search with external := some time } }
      | .quad => pushTooth s i { time, position := some (channelPosAt s.channels[srcChannel t] time), reference := true }
      | _ => s
    else s

/-! Reflex causes (R138, R139). -/

/-- R139: the link is armed, and was so before the present cycle. -/
def linkArmed (s : State) (x : ReflexLink) : Bool := x.run && x.armed && x.armedAt != some s.time.tb

/-- R146: a cause occurs: its SRC code, and the QUAL values that accept it. -/
def causeReflex (s : State) (src : Nat) (quals : List Nat) : State :=
  let now := nowTime s
  { s with reflexDue := s.reflexDue ++ ((indices 64).filter fun l =>
      let x := s.links[l]
      linkArmed s x && fld x.cause 9 0 == src && quals.contains (fld x.cause 11 10)).map fun l => (l, now) }

/-! Teeth and micro-ticks. -/

/-- R75, R95, R96: the next tooth, count, sample or reference of a tracker is processed. -/
def processNext (s : State) (i : TrackIx) : State :=
  match s.trackers[i].waiting with
  | [] => s
  | x :: rest =>
    let s := modTrack s i fun t => { t with waiting := rest }
    let t := s.trackers[i]
    if !t.cfg.run then s
    else match srcKind t, x.position with
      | .tooth, none => processPulse s i x
      | .quad, some p =>
        if !x.reference then processCount s i x p
        else if t.resyncAt = some s.time.tb then s
        else processReference s i p x.time
      | .serial, some p => processCount s i x p
      | _, _ => s

/-- R75. -/
def execToothProcessed (i : TrackIx) (s : State) : Host.Outcome State Fault Refusal := finish (processNext s i)

/-- R80: a further micro-tick has been reached before the end of the present cycle. -/
def microDue (s : State) (i : TrackIx) : Bool :=
  let t := s.trackers[i]
  interpolates t && t.micro < microReached t (nowTime s + 7)

/-- R80: the next micro-tick takes effect at its record time. -/
def microStep (s : State) (i : TrackIx) : State :=
  let k := s.trackers[i].micro + 1
  let time := (microTime s.trackers[i] k).getD (nowTime s)
  trackChanged s (modTrack s i fun t => { t with micro := k, pos := microPos t k }) time false

/-- R80. -/
def execMicroTick (i : TrackIx) (s : State) : Host.Outcome State Fault Refusal :=
  finish (if microDue s i then microStep s i else s)

/-! Deadlines (R88, R91). -/

/-- R88: the MISS deadline lies in or before the present core cycle. -/
def missDue (s : State) (i : TrackIx) : Bool :=
  let t := s.trackers[i]
  t.state == .synced && srcKind t == .tooth && t.suspect.isNone && maxSynth t != 0 &&
    match predPeriod t with
    | none => false
    | some p =>
      missRatio t * p ≤ 16 * (stallEighths t : Int) && missRatio t * p < 16 * (sinceTooth t (nowTime s) + 8)

/-- R88: a tooth is synthesized; the MAX_SYNTH-th in a row loses sync. -/
def synthesize (s : State) (i : TrackIx) : State :=
  let t := s.trackers[i]
  let now := nowTime s
  let n := nextEntry t
  let time := t.toothTime + BitVec.ofInt 64 ((predPeriod t).getD 0)
  let s' := modTrack (noteDoubt (spoilLearning s i) i) i fun t =>
    { standAt t n (movePos t.base t.reverse (nextPitch t)) time true false with
      missed := satAdd t.missed 1, lastInterval := none, synthRun := t.synthRun + 1 }
  let s' := modTrack s' i fun t => let k := microReached t now; { t with micro := k, pos := microPos t k }
  let s' := raiseTrackEvent (noteEntry s' i n time true) i 6 time
  let s' := trackChanged s s' now false
  if maxSynth t ≤ t.synthRun + 1 then trackChanged s' (enterState s' i .counting now) now false else s'

/-- R88. -/
def execMissDeadline (i : TrackIx) (s : State) : Host.Outcome State Fault Refusal :=
  finish (if missDue s i then synthesize s i else s)

/-- R91. -/
def execStallTimeout (i : TrackIx) (s : State) : Host.Outcome State Fault Refusal :=
  finish (if stallDue s i then trackChanged s (enterState s i .stalled (nowTime s)) (nowTime s) false else s)

/-- R87: STALL_TIME has passed in COUNTING without a tooth or count. -/
def countingDue (s : State) (i : TrackIx) : Bool :=
  let t := s.trackers[i]
  t.state == .counting && (srcKind t == .tooth || srcKind t == .quad) && stallPassed s t t.stallSince

/-- R87: back to UNSYNCED; what was seen of teeth is forgotten, and with RESYNC an external event too. -/
def dropUnsynced (s : State) (i : TrackIx) (all : Bool) : State :=
  let s' := modTrack (enterState s i .unsynced (nowTime s)) i fun t => { t with
    hasTooth := false, search := if all then {} else freshSearch t.search }
  trackChanged s s' (nowTime s) false

/-- R87. -/
def execCountingTimeout (i : TrackIx) (s : State) : Host.Outcome State Fault Refusal :=
  finish (if countingDue s i then dropUnsynced s i false else s)

/-! Enable (R71). -/

/-- R69: the tracker supports its source. -/
def sourceOk (i : TrackIx) (kind : Nat) : Bool := isFull i || (kind != 2 && kind != 3)

/-- R76, R77: the tooth map is one that a TOOTH source can use. -/
def mapOk (t : Tracker) : Bool :=
  let n := teethOf t
  let ks := List.range n
  let refs := ks.filter fun k => (mapEntry t k).flags.getLsbD 0
  let cams := refs.map fun k => (mapEntry t k).flags.getLsbD 1
  (List.range (n - 1)).all (fun k => (mapEntry t k).angle.toNat < (mapEntry t (k + 1)).angle.toNat)
    && (if tst t.cfg.refCtrl 4 then cams == [false, true] || cams == [true, false] else refs.length == 1)

/-- R71: the tracker is reached again by following masters from `j`. DESIGN CHOICE (log entry 136). -/
def loopsTo (ts : Vector Tracker 16) (i : TrackIx) : Nat → TrackIx → Bool
  | 0, _ => true
  | fuel + 1, j =>
    if j = i then true
    else if srcKind ts[j] == .slave && ts[j].cfg.en then loopsTo ts i fuel (masterOf ts[j]) else false

/-- R83: REF_CTRL.KIND is one that the source can use. -/
def refKindOk (t : Tracker) : Bool :=
  match srcKind t with
  | .tooth => [RefKind.first, .gap, .extra, .width, .external].contains (refKind t)
  | .quad => refKind t == .index || refKind t == .external
  | .serial => refKind t == .absolute
  | _ => true

/-- R71: the checks made when EN goes from 0 to 1. DESIGN CHOICE (log entry 135). -/
def enableOk (s : State) (i : TrackIx) : Bool :=
  let t := s.trackers[i]
  let kind := srcKind t
  sourceOk i (fld t.cfg.src 2 0)
    && (kind != .tooth || mapOk t)
    && (!(kind == .quad || kind == .serial) || countsOf t != 0)
    && (kind != .slave || !loopsTo s.trackers i 17 (masterOf t))
    && !(t.cfg.dirMode == 1 && refKind t == .width)
    && refKindOk t

/-- What a tracker knows when it is enabled (R71, R72, R92). -/
def freshTracker (t : Tracker) (now : W64) : Tracker :=
  { t with
    state := .unsynced, reverse := false, dirKnown := false, pos := 0, base := 0, hist := [], hasTooth := false
    entry := 0, synth := false, toothRev := false, early := false, micro := 0, synthRun := 0, suspect := none
    search := {}, lastInterval := none, stallSince := now, near := Vector.replicate 3 now, leftCycle := none
    idxPos := none, idxMissed := 0, virt := none, waiting := [], pulse := none, resyncAt := none
    learn := { t.learn with
      mode := learnMode t.learn.ctrl, opened := none, times := [], spoiled := false, previous := none }
    gear := { t.gear with
      forceNum := t.gear.num, forceDen := t.gear.den, forceOfs := t.gear.ofs, pending := false } }

/-- R71: the effective enable goes to 1. -/
def trackOn (s : State) (i : TrackIx) : State :=
  let s' := modTrack s i fun t => let t := freshTracker t (nowTime s); { t with cfg := { t.cfg with run := true } }
  trackChanged s s' (nowTime s) false

/-- R71: the effective enable goes to 0. -/
def trackOff (s : State) (i : TrackIx) : State :=
  let s' := cancelUnlocked (enterState s i .unsynced (nowTime s)) i .cancelledSync
  let s' := modTrack s' i fun t => { t with
    cfg := { t.cfg with run := false }, hist := [], waiting := [], virt := none, hasTooth := false }
  trackChanged s s' (nowTime s) false

/-- R71, R271: the effective enable of a tracker after its own field or a glyph above it changed; a failed check
leaves EN at 0. -/
def trackReview (s : State) (i : TrackIx) : State :=
  let t := s.trackers[i]
  let want := t.cfg.en && glyphsOn s .tracker i
  if want && !t.cfg.run then
    if enableOk s i then trackOn s i
    else trackCfgErr (modTrack s i fun t => { t with cfg := { t.cfg with en := false } }) i
  else if !want && t.cfg.run then trackOff s i
  else s

/-- R105: what waits for the tracker in this cycle is processed before RESYNC acts. -/
def processWaiting (s : State) (i : TrackIx) : State :=
  forAll s.trackers[i].waiting s fun s _ => processNext s i

/-- R87: RESYNC. A reference of the same cycle does not count (R105). -/
def resync (s : State) (i : TrackIx) : State :=
  let s := processWaiting s i
  let t := s.trackers[i]
  let s := modTrack s i fun t => { t with resyncAt := some s.time.tb }
  if !t.cfg.run || srcKind t == .slave then s
  else if t.hist.isEmpty then dropUnsynced s i true
  else if t.state == .unsynced then s
  else
    let s' := modTrack (enterState s i .counting (nowTime s)) i fun t => { t with search := {}, hist := [] }
    trackChanged s s' (nowTime s) false

/-- R70, R107: a write of ATn.CTRL; DIR_MODE is locked while EN is 1. -/
def writeTrackCtrl (s : State) (i : TrackIx) (v : Word) : State :=
  let t := s.trackers[i]
  let dir := fld v 5 4
  let badDir := dir == 2 && !isFull i
  if (t.cfg.en && dir != t.cfg.dirMode) || badDir then trackCfgErr s i
  else
    let was := t.cfg.en
    let s := modTrack s i fun t => { t with cfg := { t.cfg with en := tst v 0, stallKeep := tst v 1, dirMode := dir } }
    let s := if !was && tst v 0 && !enableOk s i then
        trackCfgErr (modTrack s i fun t => { t with cfg := { t.cfg with en := false } }) i
      else s
    let s := trackReview s i
    if tst v 2 then resync s i else s

/-- What ATn.CTRL reads (R107). -/
def readTrackCtrl (t : Tracker) : Word := bitAt 0 t.cfg.en ||| bitAt 1 t.cfg.stallKeep ||| at_ 4 t.cfg.dirMode

/-! Gearing (R98). -/

/-- R98, R105: APPLY accepted. A tick takes up the gearing that waits before its records and before what is accepted in
its cycle 0, so that an APPLY of either waits for the following tick. -/
def wantGearing (s : State) (i : TrackIx) : State :=
  modTrack s i fun t => { t with gear := { t.gear with pending := true } }

/-- R70, R98: a write of SLAVE_CTRL; MASTER is locked while EN is 1. -/
def writeSlaveCtrl (s : State) (i : TrackIx) (v : Word) : State :=
  let t := s.trackers[i]
  if t.cfg.en && fld v 3 0 != t.gear.master.val then trackCfgErr s i
  else
    let s := modTrack s i fun t => { t with gear := { t.gear with master := Fin.ofNat 16 (fld v 3 0), cont := tst v 4 } }
    if tst v 8 then wantGearing s i else s

/-- What SLAVE_CTRL reads (R107). -/
def readSlaveCtrl (t : Tracker) : Word := at_ 0 t.gear.master ||| bitAt 4 t.gear.cont ||| bitAt 9 t.gear.pending

/-- R98: the shadow in force; with CONT the offset is adjusted so that the position does not move. -/
def gearInForce (g : Gearing) (master old : Pos) : Gearing :=
  let g := { g with forceNum := g.num, forceDen := g.den, forceOfs := g.ofs, pending := false }
  if g.cont then
    { g with forceOfs := g.forceOfs + (old - gearPos g master).truncate 64 } else g

/-- R98: at a tick, gearing that waits comes into force. DEDUCED (log entry 37). DEDUCED (log entry 149). -/
def applyGearing (s : State) : State :=
  forAll (indices 16) s fun s i =>
    let t := s.trackers[i]
    if !t.gear.pending then s
    else
      let now := nowTime s
      let m := reportedPos s.trackers now 17 (masterOf t)
      let old := reportedPos s.trackers now 17 i
      trackChanged s (modTrack s i fun t => { t with gear := gearInForce t.gear m old }) now false

/-! Learning, the map and the other registers of a tracker. -/

/-- R102, R107: a write of LEARN_CTRL. DEDUCED (log entry 145). -/
def writeLearnCtrl (s : State) (i : TrackIx) (v : Word) : State :=
  let g := fld v 7 4
  if fld v 1 0 = 1 ∧ (g = 0 ∨ 8 < g) then trackCfgErr s i
  else
    let v := v &&& 0xFFF3
    modTrack s i fun t => { t with learn := { t.learn with
      ctrl := v, mode := if hasAngle t.state then t.learn.mode else learnMode v } }

/-- R107: TMAP_INDEX after an access to TMAP_FLAGS. -/
def bumpIndex (t : Tracker) : Tracker :=
  if t.map.autoInc then
    { t with map := { t.map with index := BitVec.ofNat 12 ((t.map.index.toNat + 1) % teethOf t) } } else t

/-- R70: a change of the selected map entry, refused while EN is 1. -/
def writeMap (s : State) (i : TrackIx) (f : MapEntry → MapEntry) : State :=
  if s.trackers[i].cfg.en then trackCfgErr s i
  else modTrack s i fun t =>
    let k := t.map.index.toNat
    { t with map := { t.map with entries := sparsePut {} t.map.entries k (f (mapEntry t k)) } }

/-- R107: a write of TMAP_FLAGS. -/
def writeMapFlags (s : State) (i : TrackIx) (v : Word) : State :=
  modTrack (writeMap s i fun m => { m with flags := v.truncate 5 }) i bumpIndex

/-- R107: a read of TMAP_FLAGS. -/
def readMapFlags (s : State) (i : TrackIx) : Word × State :=
  let t := s.trackers[i]
  ((mapEntry t t.map.index.toNat).flags.zeroExtend 32, modTrack s i bumpIndex)

/-- R102: a write of TMAP_CORR, read-only while MODE is LEARN. -/
def writeMapCorr (s : State) (i : TrackIx) (v : Word) : State :=
  if learnMode s.trackers[i].learn.ctrl = 1 then trackCfgErr s i else writeMap s i fun m => { m with corr := v }

/-- R70: a register that is locked while EN is 1, and whose value must be valid. -/
def writeLocked (s : State) (i : TrackIx) (ok : Bool) (f : TrackCfg → TrackCfg) : State :=
  if s.trackers[i].cfg.en || !ok then trackCfgErr s i else modTrack s i fun t => { t with cfg := f t.cfg }

/-- R83: REF_RATIO and KIND of REF_CTRL. -/
def refCtrlOk (v : Word) : Bool := 17 ≤ fld v 15 8 && fld v 2 0 != 7

/-- R88, R107: MT_LOG2, MISS_RATIO and NOISE_RATIO of PRED_CTRL. -/
def predCtrlOk (v : Word) : Bool :=
  fld v 7 4 ≤ 12 && 17 ≤ fld v 23 16 && 1 ≤ fld v 31 24 && fld v 31 24 ≤ 15

/-! VIRTUAL updates (R97). -/

/-- R94, R97: a committed update of a VIRTUAL tracker. -/
def virtualUpdate (s : State) (i : TrackIx) (u : VirtualUpd) : State :=
  let t := s.trackers[i]
  if !t.cfg.run || srcKind t != .virtual_ then s
  else
    let now := nowTime s
    let s' := modTrack s i fun t => { t with virt := some u }
    let back := u.state == .synced && u.rate.msb
    let s' := if u.state == .synced && (back || isFull i || t.state != .reversing || !u.rate.msb) then
        setDirection s' i back now else s'
    let s' := if !isFull i && (back || (t.state == .reversing && u.rate.msb)) then enterState s' i .reversing now
      else if t.state == .unsynced && u.state != .synced then s'
      else enterState s' i u.state now
    trackChanged s s' now false

end Sys2Proof.Machine
end

