-- ==== Sys2Proof/Machine/Feedback.lean ====
section
/-! DEFINITION. The feedback channels (chapter 06): quadrature counts (R173 to R175), index events (R176, R177), tooth
trains (R179), SSI frames (R180 to R183), speed (R184) and the channel's registers (R189, R190). -/
namespace Sys2Proof.Machine

/-! R190: the fields of FBn.CTRL and of the SSI registers. -/
def fbEn (x : Feedback) : Bool := tst x.ctrl 0
def fbMode (x : Feedback) : Nat := fld x.ctrl 2 1
def ssiLen (x : Feedback) : Nat := fld x.ssiCtrl 5 0
def ssiPosBits (x : Feedback) : Nat := fld x.ssiCtrl 13 8
def ssiParity (x : Feedback) : Nat := fld x.ssiCtrl 15 14
def ssiAuto (x : Feedback) : Bool := tst x.ssiCtrl 17
def ssiJump (x : Feedback) : Nat := fld x.ssiTiming 31 24

/-! Position. -/

/-- R85: the position is remembered for 512 core cycles. -/
def fbLog (x : Feedback) (time now : W64) : Feedback :=
  let recent := x.log.takeWhile fun e => precedes (now - 4096) e.1
  { x with log := (time, x.pos) :: (recent ++ (x.log.drop recent.length).take 1) }

/-- A change of POS by one count, tooth or sample at `time`, as R184 and R189 keep it. -/
def fbMoved (x : Feedback) (delta : Int) (time : W64) : Feedback :=
  let last := (x.travel + delta, time)
  let turned := match x.lastBack with | some back => delta != 0 && back != decide (delta < 0) | none => false
  { x with
    pos := x.pos + BitVec.ofInt 64 delta
    travel := x.travel + delta
    netCounts := x.netCounts + delta
    cntTime := time
    counts := x.counts + 1
    lastCount := some last
    firstCount := x.firstCount.orElse fun _ => some last
    dirCount := if turned then some last else x.dirCount
    lastBack := if delta = 0 then x.lastBack else some (decide (delta < 0)) }

/-- R189 PERIOD: the interval between the last two counts, saturating. -/
def fbPeriod (x : Feedback) (time : W64) : Word :=
  match x.lastCount with
  | some (_, t) => BitVec.ofNat 32 (min (2 ^ 32 - 1) (time - t).toNat)
  | none => x.period

/-- R184: the next count clears STILL and raises MOVING. -/
def fbMoving (s : State) (b : FbIx) (time : W64) : State :=
  if s.channels[b].still then
    raiseFbEvent (modFb s b fun x => { x with still := false }) b 9 (s.channels[b].pos.truncate 32) time
  else s

/-- A tracker takes counts, samples or references from the channel. -/
def onChannel (t : Tracker) (kind : TrackSrc) (b : FbIx) : Bool := srcKind t == kind && srcChannel t == b

/-- R95, R96: a count or a sample reaches the running trackers on the channel. -/
def fbToTrackers (s : State) (b : FbIx) (kind : TrackSrc) (x : ToothIn) (fits : Tracker → Bool) : State :=
  forAll (indices 16) s fun s i =>
    let t := s.trackers[i]
    if t.cfg.run && onChannel t kind b && fits t then pushTooth s i x else s

/-- R173, R175: one count. DEDUCED (log entry 171). -/
def fbCount (s : State) (b : FbIx) (down : Bool) (time : W64) : State :=
  let x := s.channels[b]
  let turned := match x.lastBack with | some back => back != down | none => false
  let s := modFb s b fun x =>
    fbLog { fbMoved { x with period := fbPeriod x time } (if down then -1 else 1) time with dir := down } time (nowTime s)
  let pos := s.channels[b].pos
  let s := fbMoving s b time
  let s := if turned then
      causeReflex (raiseFbEvent s b 0 (pos.truncate 32) time) (304 + b) [0, 1, 2, 3] else s
  let s := fbToTrackers s b .quad { time := time, position := some pos, reverse := some down } fun _ => true
  emuFollowAll s time

/-- R174: an accepted change on both A and B in one sample. -/
def fbQerr (s : State) (b : FbIx) (time : W64) : State :=
  let x := s.channels[b]
  let s := match tst x.ctrl 4, x.lastBack with
    | true, some back => fbCount (fbCount s b back time) b back time
    | _, _ => s
  let s := modFb s b fun x => { x with qerr := satAdd x.qerr 1 }
  let s := raiseFbEvent s b 1 (s.channels[b].pos.truncate 32) time
  raiseFault (causeReflex s (320 + b) [0, 1, 2, 3]) 56 (unitNo s .feedback b)

/-- R173: the place of the lines A and B in the cycle 00, 10, 11, 01. -/
def grayPlace (a b : Bool) : Nat := match a, b with | false, false => 0 | true, false => 1 | true, true => 2 | false, true => 3

/-- R173, R174: the lines of a QUAD channel change. -/
def fbQuad (s : State) (b : FbIx) (la lb : Bool) (time : W64) : State :=
  let x := s.channels[b]
  match (grayPlace la lb + 4 - grayPlace x.a x.b) % 4 with
  | 1 => fbCount s b (tst x.ctrl 3) time
  | 3 => fbCount s b (!tst x.ctrl 3) time
  | 2 => fbQerr s b time
  | _ => s

/-! Index (R176, R177). -/

/-- R172: a change of POS other than by counting; every QUAD tracker on the channel keeps its angle. -/
def fbSetPos (s : State) (b : FbIx) (p : W64) : State :=
  let d := p - s.channels[b].pos
  let s := modFb s b fun x => { x with pos := p, log := x.log.map fun e => (e.1, e.2 + d) }
  let s := forAll (indices 16) s fun s i =>
    if onChannel s.trackers[i] .quad b then
      modTrack s i fun t => { t with
        refPos := t.refPos + d
        lastPos := t.lastPos + d
        stallPos := t.stallPos + d
        idxPos := t.idxPos.map (· + d)
        waiting := t.waiting.map fun x => { x with position := x.position.map (· + d) } }
    else s
  emuFollowAll s (nowTime s)

/-- R177: the deviation of a position at an index; none with IDX_PERIOD 0. -/
def idxDeviation (x : Feedback) (p : W64) : Int :=
  let m := fld x.idxPeriod 23 0
  if m = 0 then 0
  else
    let r := (p.toInt - x.idxValue.toInt) % m
    if (m : Int) < 2 * r then r - m else r

/-- R177: a deviation that is not 0 is recorded; in CHECK it is judged against IDX_TOL. -/
def idxJudge (s : State) (b : FbIx) (p time : W64) (check : Bool) : State :=
  let d := idxDeviation s.channels[b] p
  if d = 0 then s
  else
    let err := BitVec.ofInt 32 d
    let s := modFb s b fun x => { x with idxErr := err, idxDevs := satAdd x.idxDevs 1 }
    let s := raiseFbEvent s b 3 err time
    if check && fld s.channels[b].idxTol 15 0 < d.natAbs then
      raiseFault (raiseFbEvent s b 4 err time) 57 (unitNo s .feedback b)
    else s

/-- R177: what IDX_MODE makes of an index event. -/
def idxMode (s : State) (b : FbIx) (p time : W64) : State :=
  let x := s.channels[b]
  match fld x.ctrl 6 5 with
  | 1 => fbSetPos (if 2 ≤ x.indexes then idxJudge s b p time false else s) b x.idxValue
  | 2 =>
    if x.idxArmed && x.idxArmedAt != some s.time.tb then
      fbSetPos (modFb s b fun x => { x with idxArmed := false }) b x.idxValue
    else s
  | 3 =>
    if tst x.ctrl 8 && x.indexes == 1 then modFb s b fun x => { x with idxValue := p }
    else idxJudge s b p time true
  | _ => s

/-- R176: an index event. -/
def fbIndex (s : State) (b : FbIx) (time : W64) : State :=
  let x := s.channels[b]
  let p := x.pos
  let s := modFb s b fun x => { x with
    idxPos := p, idxSeen := x.idxSeen || x.run, indexes := if x.run then x.indexes + 1 else x.indexes }
  let s := raiseFbEvent s b 2 (p.truncate 32) time
  let s := causeReflex s (288 + b) [0, 1, 2, 3]
  let s := externalEvent s (288 + b) (fun _ => true) time
  let s := if x.run then
      fbToTrackers s b .quad { time := time, position := some p, reference := true } fun t => refKind t == .index
    else s
  if x.run && fbMode x == 1 then idxMode s b p time else s

/-! Teeth (R179). -/

/-- R179: a tooth's width in ns, saturating. -/
def toothWidth (edge time : W64) : Nat := min 65535 ((time - edge).toNat / 8)

/-- R179: an accepted edge of A in TOOTH mode. DEDUCED (log entry 137). -/
def fbTooth (s : State) (b : FbIx) (rising : Bool) (time : W64) : State :=
  let x := s.channels[b]
  if rising != tst x.ctrl 10 then
    let s := modFb s b fun x =>
      fbLog { fbMoved { x with period := fbPeriod x time } 1 time with toothEdge := some time } time (nowTime s)
    emuFollowAll (fbMoving s b time) time
  else match x.toothEdge with
    | some e =>
      let s := modFb s b fun x => { x with toothEdge := none }
      fbToTrackers s b .tooth { time := e, width := some (8 * toothWidth e time) } srcTsel
    | none => s

/-- R182: the changes of A in a frame, and the delay of the first falling one. -/
def ssiEdge (x : Feedback) (la : Bool) (time : W64) : Feedback :=
  match x.ssiStart with
  | some start =>
    if la = x.a || precedes time start then x
    else
      let first := !la && x.ssiFall.isNone
      { x with
        ssiEdges := x.ssiEdges ++ [(time, la)]
        ssiFall := if first then some time else x.ssiFall
        ssiDelay := if first && ssiAuto x then setFld x.ssiDelay 31 16 (time - start).toNat else x.ssiDelay }
  | none => x

/-- R170, R178: the accepted changes of one sample: the levels of the conditioned lines from this sample on. -/
def fbChange (s : State) (b : FbIx) (la lb lz : Bool) (time : W64) : State :=
  let x := s.channels[b]
  let s := if !x.run then s
    else match fbMode x with
      | 1 => fbQuad s b la lb time
      | 2 => if la = x.a then s else fbTooth s b la time
      | 3 => modFb s b fun x => ssiEdge x la time
      | _ => s
  let s := modFb s b fun x => { x with a := la, b := lb, z := lz }
  if lz && !x.z && (!tst x.ctrl 9 || (la && lb)) then fbIndex s b time else s

/-! The lines (R170). -/

/-- R170: FILT of a line, and how long every change is held, in eighths. -/
def lineFilt (x : Feedback) (l : Fin 3) : W64 := BitVec.ofNat 64 (8 * (if l = 2 then fld x.filt 15 8 else fld x.filt 7 0))
def fbHold (x : Feedback) : W64 := BitVec.ofNat 64 (8 * max (fld x.filt 7 0) (fld x.filt 15 8))

/-- R170: the level of a line as sampled, after its inversion; as the channel has acted on it; and as it will be once
all its changes have acted. -/
def lineRaw (x : Feedback) (l : Fin 3) : Bool := tst x.raw l != tst x.ctrl (11 + l)
def lineLevel (x : Feedback) (l : Fin 3) : Bool := match l with | 0 => x.a | 1 => x.b | 2 => x.z
def lineLast (x : Feedback) (l : Fin 3) : Bool :=
  match x.pend.reverse.find? fun e => e.line == l with | some e => e.level | none => lineLevel x l

/-- R170: a sample of one line: a change enters the filter; one that ends a run shorter than FILT takes that run with
it. -/
def sampleLine (now : W64) (x : Feedback) (l : Fin 3) : Feedback :=
  let level := lineRaw x l
  if level = lineLast x l then x
  else match x.pend.reverse.find? fun e => e.line == l with
    | some e =>
      if precedes now (e.held.since + lineFilt x l) then { x with pend := (x.pend.reverse.erase e).reverse }
      else { x with pend := x.pend ++ [{ line := l, level := level, held := { stamp := now, since := now } }] }
    | none => { x with pend := x.pend ++ [{ line := l, level := level, held := { stamp := now, since := now } }] }

/-- R170: a 1 GHz sample finds the pins at these levels; while the core clock is stopped nothing is sampled.
DEDUCED (log entry 167). -/
def fbSample (s : State) (b : FbIx) (la lb lz : Bool) : State :=
  let raw : BitVec 3 := setBit (setBit (setBit 0 0 la) 1 lb) 2 lz
  modFb s b fun x =>
    let x := { x with raw := raw }
    if s.time.stopped then x else (indices 3).foldl (sampleLine (nowTime s)) x

/-- R170: the oldest change has been held for the larger of FILT_AB and FILT_Z. -/
def fbHeld (s : State) (x : Feedback) : Bool :=
  match x.pend with
  | e :: _ => notAfter (e.held.since + fbHold x) (nowTime s)
  | [] => false

/-- R170: the channel has a change to act on, or a level to sample. -/
def fbActDue (s : State) (b : FbIx) : Bool :=
  let x := s.channels[b]
  !s.time.stopped && (fbHeld s x || (indices 3).any fun l => lineRaw x l != lineLast x l)

/-- R170: all changes of the oldest sample act together. -/
def fbAct (s : State) (b : FbIx) : State :=
  let x := s.channels[b]
  match x.pend with
  | [] => s
  | e :: _ =>
    let now := x.pend.takeWhile fun f => f.held.stamp == e.held.stamp
    let level (l : Fin 3) : Bool := match now.find? fun f => f.line == l with | some f => f.level | none => lineLevel x l
    let s := modFb s b fun x => { x with pend := x.pend.drop now.length }
    fbChange s b (level 0) (level 1) (level 2) e.held.stamp

/-- R170: a sample of the lines, and the changes of one sample that act now. DESIGN CHOICE (log entry 55). -/
def execFbChangeAccepted (b : FbIx) (la lb lz : Bool) (s : State) : Host.Outcome State Fault Refusal :=
  let s := fbSample s b la lb lz
  finish (if !s.time.stopped && fbHeld s s.channels[b] then fbAct s b else s)

/-! SSI (R180 to R183). -/

/-- R180: a clock period in eighths. -/
def ssiPeriod (x : Feedback) : Nat := 32 * (fld x.ssiTiming 11 0 + 1)

/-- R171, R180, R181: SSI_CTRL and SSI_TIMING lie in their ranges. -/
def ssiOk (x : Feedback) : Bool :=
  let len := ssiLen x
  let div := fld x.ssiTiming 11 0
  8 ≤ len && len ≤ 40 && ssiParity x != 3 && 1 ≤ ssiPosBits x
    && ssiPosBits x ≤ (if ssiParity x = 0 then len else len - 1)
    && 24 ≤ div && div ≤ 2499 && 1 ≤ fld x.ssiTiming 23 16 && ssiJump x ≤ 40

/-- R183: an SSI error of a kind. -/
def ssiError (s : State) (b : FbIx) (kind : Nat) (time : W64) : State :=
  let s := modFb s b fun x => { x with ssiErrs := satAdd x.ssiErrs 1, ssiRun := x.ssiRun + 1 }
  let s := raiseFbEvent s b 5 (BitVec.ofNat 32 kind) time
  let x := s.channels[b]
  if 4 ≤ x.ssiRun && !x.ssiFail then
    let s := raiseFbEvent (modFb s b fun x => { x with ssiFail := true }) b 6 (x.pos.truncate 32) time
    raiseFault s 58 (unitNo s .feedback b)
  else s

/-- R180: the monoflop wait has passed since the last frame. DEDUCED (log entry 53). -/
def ssiRested (x : Feedback) (now : W64) : Bool :=
  match x.ssiEnd with
  | some e => notAfter (e + BitVec.ofNat 64 (8000 * fld x.ssiTiming 23 16)) now
  | none => true

/-- R180: at a tick, a frame starts, or is refused by a sensor that is still busy. DEDUCED (log entry 168). -/
def ssiTick (s : State) (b : FbIx) : State :=
  let x := s.channels[b]
  if !x.run || fbMode x != 3 || s.time.frame.toNat % 2 ^ fld x.ssiTiming 15 12 != 0
      || x.ssiStart.isSome then s
  else if !x.a then ssiError s b 1 (nowTime s)
  else if !ssiRested x (nowTime s) then s
  else modFb s b fun x => { x with ssiStart := some (nowTime s + 128), ssiEdges := [], ssiFall := none }

/-- R169, R180: what the device does to the pin FBn_C: an input but in SSI mode, where it is the clock, which idles high
and is low in the first half of each of the frame's periods. -/
def fbClockOut (s : State) (b : FbIx) : Drive :=
  let x := s.channels[b]
  if fbMode x != 3 then .z
  else match x.ssiStart with
    | some start =>
      let d := (nowTime s - start).toNat
      if precedes (nowTime s) start || ssiLen x * ssiPeriod x ≤ d || ssiPeriod x ≤ 2 * (d % ssiPeriod x) then .high
      else .low
    | none => .high

/-- R181: Gray code to binary, from the highest bit down. -/
def grayBits (v : Nat) : Nat → Bool → Nat
  | 0, _ => 0
  | n + 1, acc => let bit := Bool.xor acc (v.testBit n); b2n bit * 2 ^ n + grayBits v n bit

/-- R181: the position of a frame of `len` bits. -/
def ssiValue (x : Feedback) (bits : Nat) : Nat :=
  let w := ssiPosBits x
  let v := bits / 2 ^ (ssiLen x - w) % 2 ^ w
  if tst x.ssiCtrl 16 then grayBits v w false else v

/-- R181: the parity of a frame is as SSI_CTRL asks. -/
def ssiParityOk (x : Feedback) (bits : Nat) : Bool :=
  let ones := ((List.range (ssiLen x)).filter fun i => bits.testBit i).length
  match ssiParity x with | 1 => ones % 2 == 0 | 2 => ones % 2 == 1 | _ => true

/-- R181: the change since the previous valid sample, signed over the sensor's width. -/
def ssiDelta (x : Feedback) (prev v : Nat) : Int :=
  let w := ssiPosBits x
  let d := (v + 2 ^ w - prev) % 2 ^ w
  if 2 ^ w ≤ 2 * d then (d : Int) - 2 ^ w else d

/-- R181: the change is beyond 2^JUMP counts. -/
def ssiJumps (x : Feedback) (d : Int) : Bool := ssiJump x != 0 && 2 ^ ssiJump x < d.natAbs

/-- R182: USED, in eighths. -/
def ssiUsed (x : Feedback) : Nat := if ssiAuto x then fld x.ssiDelay 31 16 else fld x.ssiDelay 15 0

/-- R180: the record time at which bit `j` of a frame is sampled, from 1: half a period and USED after the j-th rising
edge of C. -/
def ssiSampleTime (x : Feedback) (start : W64) (j : Nat) : W64 := start + BitVec.ofNat 64 (j * ssiPeriod x + ssiUsed x)

/-- R180: the level of A at a record time of the frame, which began with A high. -/
def ssiLevel (x : Feedback) (t : W64) : Bool :=
  match x.ssiEdges.reverse.find? fun e => notAfter e.1 t with | some e => e.2 | none => true

/-- R180: the bits of a frame, the first one highest. -/
def ssiBits (x : Feedback) (start : W64) : Nat :=
  (List.range (ssiLen x)).foldl (fun v j => 2 * v + b2n (ssiLevel x (ssiSampleTime x start (j + 1)))) 0

/-- R181, R182: a valid sample. -/
def ssiSample (s : State) (b : FbIx) (v : Nat) (time : W64) : State :=
  let s := modFb s b fun x =>
    let x := match x.ssiPrev with
      | some p => fbMoved x (ssiDelta x p v) time
      | none => { fbMoved x 0 time with pos := BitVec.ofNat 64 v }
    fbLog { x with ssiPrev := some v, ssiRun := 0, ssiFail := false } time (nowTime s)
  let s := fbMoving s b time
  let s := fbToTrackers s b .serial { time := time, position := some s.channels[b].pos } fun _ => true
  emuFollowAll s time

/-- R181 to R183: the frame is whole: its bits, the last one received in bit 0, give a sample or an error. -/
def ssiFrame (s : State) (b : FbIx) : State :=
  match s.channels[b].ssiStart with
  | none => s
  | some start =>
    let bits := ssiBits s.channels[b] start
    let s := modFb s b fun x => { x with
      ssiRaw := BitVec.ofNat 64 bits
      ssiStart := none
      ssiEnd := some (start + BitVec.ofNat 64 (ssiPeriod x * (2 * ssiLen x - 1) / 2)) }
    let x := s.channels[b]
    let time := start + BitVec.ofNat 64 (ssiUsed x / 2)
    let v := ssiValue x bits
    if !ssiParityOk x bits then ssiError s b 3 time
    else if (match x.ssiPrev with | some p => ssiJumps x (ssiDelta x p v) | none => false) then ssiError s b 4 time
    else ssiSample s b v time

/-- R180, R182: every bit of the frame in progress has been sampled, and its delay is known. -/
def ssiDone (s : State) (b : FbIx) : Bool :=
  let x := s.channels[b]
  match x.ssiStart with
  | some start =>
    (!ssiAuto x || x.ssiFall.isSome) && notAfter (ssiSampleTime x start (ssiLen x) + fbHold x) (nowTime s)
  | none => false

/-- R181, R182: what the frame in progress has brought: its bits, and the delay it uses.
DESIGN CHOICE (log entry 203). -/
def ssiSeen (x : Feedback) : Nat × Nat := ((x.ssiStart.map (ssiBits x)).getD 0, ssiUsed x)

/-- R181: the frame with these bits and this delay is whole. -/
def execSsiFrameComplete (b : FbIx) (bits delay : Nat) (s : State) : Host.Outcome State Fault Refusal :=
  finish (if ssiDone s b && ssiSeen s.channels[b] == (bits, delay) then ssiFrame s b else s)

/-- R182: a frame that measures its delay has found no falling edge of A within 2,000 ns. -/
def ssiTimedOut (s : State) (b : FbIx) : Bool :=
  let x := s.channels[b]
  match x.ssiStart with
  | some start =>
    ssiAuto x && !(x.ssiFall.any fun t => notAfter t (start + 16000)) && notAfter (start + 16000 + fbHold x) (nowTime s)
  | none => false

/-- R182: the frame is abandoned with TIMEOUT. -/
def execSsiDelayTimeout (b : FbIx) (s : State) : Host.Outcome State Fault Refusal :=
  finish (if ssiTimedOut s b then
      ssiError (modFb s b fun x => { x with ssiStart := none }) b 2 (nowTime s)
    else s)

/-! Speed (R184). -/

/-- R184: the later of two counts. -/
def laterCount (a b : Option (Int × W64)) : Option (Int × W64) :=
  match a, b with
  | some p, some q => if precedes p.2 q.2 then some q else some p
  | some p, none => some p
  | none, b => b

/-- R184: the reference of SPEED. -/
def speedRef (x : Feedback) : Option (Int × W64) :=
  let w := min 10 (fld x.speedCtrl 3 0)
  laterCount (laterCount ((x.snaps[2 ^ w - 1]?).join) x.dirCount) x.firstCount

/-- A quotient rounded to the nearest integer, halves away from zero. -/
def roundAway (n : Int) (d : Nat) : Int :=
  let q : Int := (2 * n.natAbs + d) / (2 * d)
  if n < 0 then -q else q

/-- R184: a number of 1/16 counts per second as SPEED holds it; none where the spec states no result. -/
def speedWord (x : Int) : Option Word := if -(2 ^ 31) ≤ x ∧ x < 2 ^ 31 then some (BitVec.ofInt 32 x) else none

/-- R184: SPEED at a tick; none where the spec states no result.
DESIGN CHOICE (log entry 12). DEDUCED (log entry 52). -/
def speedAt (x : Feedback) (now : W64) : Option Word :=
  match x.lastCount, speedRef x with
  | some (pL, tL), some (pR, tR) =>
    if x.counts < 2 then some 0
    else if pL = pR then
      let d := (now - tL).toNat
      let cap : Int := if d = 0 then 2 ^ 31 else roundAway 128000000000 d
      let v := x.speed.toInt
      some (BitVec.ofInt 32 (if v < 0 then max v (-cap) else min v cap))
    else if tL = tR then none
    else speedWord (roundAway (128000000000 * (pL - pR)) (tL - tR).toNat)
  | _, _ => some 0

/-- R184: the time since the last count has reached ZERO_TIME at the present tick. -/
def stillReached (s : State) (x : Feedback) : Bool :=
  match x.lastCount with
  | some (_, tL) => (8000 * fld x.speedCtrl 31 8 : Int) ≤ ((s.time.tickTb <<< 3) - tL).toInt
  | none => false

/-- R184: OVERSPEED is raised once, and rearms at SPEED_MAX or below. -/
def overspeed (s : State) (b : FbIx) (time : W64) : State :=
  let x := s.channels[b]
  let beyond := x.speedMax != 0 && x.speedMax.toNat < x.speed.toInt.natAbs
  let s := modFb s b fun x => { x with overspeed := beyond }
  if beyond && !x.overspeed then raiseFault (raiseFbEvent s b 7 x.speed time) 59 (unitNo s .feedback b) else s

/-- R184: what an enabled channel does in cycle 0 of a tick. -/
def fbTick (s : State) (b : FbIx) : State :=
  let x := s.channels[b]
  if !x.run then s
  else
    let speed := if stillReached s x then some 0 else speedAt x (nowTime s)
    let s' := if speed.isNone then drawFree s else s
    let s := modFb s' b fun x => { x with
      frameDelta := BitVec.ofInt 16 (max (-32768) (min 32767 x.netCounts))
      netCounts := 0
      speed := speed.getD (Config.freeSpeed s.free)
      snaps := (x.lastCount :: x.snaps).take 1024 }
    ssiTick (overspeed s b (nowTime s)) b

/-- R184: ZERO_TIME has been reached and STILL not yet raised. -/
def stillDue (s : State) (b : FbIx) : Bool :=
  let x := s.channels[b]
  x.run && !x.still && stillReached s x

/-- R184. -/
def execFbStill (b : FbIx) (s : State) : Host.Outcome State Fault Refusal :=
  finish (if stillDue s b then
      let s := modFb s b fun x => { x with speed := 0, still := true, overspeed := false }
      raiseFbEvent s b 8 (s.channels[b].pos.truncate 32) (s.time.tickTb <<< 3)
    else s)

/-! Enable and registers (R171, R189, R190). -/

/-- R171: the effective enable goes to 1. -/
def fbOn (s : State) (b : FbIx) : State :=
  modFb s b fun x => { x with
    run := true, idxSeen := false, speed := 0, lastCount := none, dirCount := none, firstCount := none, counts := 0
    lastBack := none, netCounts := 0, snaps := [], overspeed := false, indexes := 0, toothEdge := none
    ssiStart := none, ssiPrev := none, ssiRun := 0, ssiEdges := [], ssiFall := none, log := [(nowTime s, x.pos)] }

/-- R171: the effective enable goes to 0: counting and SSI frames stop. -/
def fbOff (s : State) (b : FbIx) : State :=
  modFb s b fun x => { x with run := false, toothEdge := none, ssiStart := none }

/-- R171, R271: the effective enable of a channel after its own field or a glyph above it changed. -/
def fbReview (s : State) (b : FbIx) : State :=
  let x := s.channels[b]
  let want := fbEn x && glyphsOn s .feedback b
  if want && !x.run then fbOn s b else if !want && x.run then fbOff s b else s

/-- R171: the fields of CTRL that accept writes only while EN is 0. -/
def fbLocked : Word := 0x3F6E

/-- R177: IDX_ARM written with 1. -/
def idxArmed (s : State) (b : FbIx) : State :=
  modFb s b fun x => if x.idxArmed then x else { x with idxArmed := true, idxArmedAt := some s.time.tb }

/-- R170, R171: the lines after a change of their inversion: the channel takes up the new levels, which is no change of
a line. -/
def fbRetake (x : Feedback) : Feedback :=
  { x with a := lineRaw x 0, b := lineRaw x 1, z := lineRaw x 2, pend := [] }

/-- R171, R190: a write of FBn.CTRL. -/
def writeFbCtrl (s : State) (b : FbIx) (v : Word) : State :=
  let x := s.channels[b]
  if fbEn x && (v &&& fbLocked) != (x.ctrl &&& fbLocked) then fbCfgErr s b
  else
    let turns := fld v 13 11 != fld x.ctrl 13 11
    let s := modFb s b fun x =>
      let x := { x with ctrl := v &&& 0x3F7F }
      if turns then fbRetake x else x
    let s := if tst v 7 then idxArmed s b else s
    let y := s.channels[b]
    if !fbEn x && fbEn y && fbMode y == 3 && !ssiOk y then
      fbCfgErr (modFb s b fun x => { x with ctrl := setBit x.ctrl 0 false }) b
    else fbReview s b

/-- R190: FBn.STATUS. -/
def readFbStatus (x : Feedback) : Word :=
  bitAt 0 x.a ||| bitAt 1 x.b ||| bitAt 2 x.z ||| bitAt 3 x.dir ||| bitAt 4 x.idxArmed ||| bitAt 5 x.idxSeen
    ||| bitAt 6 x.still ||| bitAt 7 x.ssiFail ||| bitAt 8 x.cfgErr ||| at_ 16 x.frameDelta.toNat

/-- R187: the edges that take the outputs from one count through those that wait, as far as their unmoved times
precede `now`. -/
def emuWaits (lag now : W64) : Int → List (W64 × Int) → Nat
  | _, [] => 0
  | out, (t, y) :: rest => (if precedes (t + lag) now then (y - out).natAbs else 0) + emuWaits lag now y rest

/-- R187: edges that wait beyond their unmoved times. -/
def emuBacklog (s : State) (m : Emulator) : Nat :=
  emuWaits (BitVec.ofNat 64 (8 * s.time.period + 128)) (nowTime s) m.out m.waiting

/-- R190: EMU_STATUS. -/
def readEmuStatus (s : State) (m : Emulator) : Word :=
  bitAt 0 (emuOutput m 0) ||| bitAt 1 (emuOutput m 1) ||| bitAt 2 (emuOutput m 2) ||| bitAt 3 m.run
    ||| bitAt 4 m.holding ||| at_ 16 (min 65535 (emuBacklog s m))

/-- R189: a word of a channel's registers as it stands. -/
def fbPeek (s : State) (b : FbIx) (off : Nat) : Word :=
  let x := s.channels[b]
  match off with
  | 0x00 => x.ctrl
  | 0x04 => readFbStatus x
  | 0x08 => x.filt
  | 0x0C => lo32 x.pos
  | 0x10 => hi32 x.pos
  | 0x14 => lo32 x.cntTime
  | 0x18 => hi32 x.cntTime
  | 0x1C => x.period
  | 0x20 => lo32 x.idxValue
  | 0x24 => hi32 x.idxValue
  | 0x28 => x.idxPeriod
  | 0x2C => x.idxTol
  | 0x30 => lo32 x.idxPos
  | 0x34 => hi32 x.idxPos
  | 0x38 => x.idxErr
  | 0x3C => x.speed
  | 0x40 => x.speedCtrl
  | 0x44 => x.speedMax
  | 0x48 => x.ssiCtrl
  | 0x4C => x.ssiTiming
  | 0x50 => x.ssiDelay
  | 0x54 => lo32 x.ssiRaw
  | 0x58 => hi32 x.ssiRaw
  | 0x5C => at_ 0 x.qerr.toNat ||| at_ 16 x.idxDevs.toNat
  | 0x60 => at_ 0 x.ssiErrs.toNat ||| at_ 16 x.emuMoved.toNat
  | 0x64 => x.evtStatus
  | 0x68 => x.evtEnable
  | 0x6C => x.emu.ctrl
  | 0x70 => x.emu.lines
  | 0x74 => x.emu.ofs
  | 0x78 => readEmuStatus s x.emu
  | 0x7C => BitVec.ofInt 32 x.emu.y
  | _ => 0

/-- R189: what a read of CNT_A or CNT_B clears. -/
def fbReadClear (s : State) (b : FbIx) (off : Nat) : State :=
  match off with
  | 0x5C => modFb s b fun x => { x with qerr := 0, idxDevs := 0 }
  | 0x60 => modFb s b fun x => { x with ssiErrs := 0, emuMoved := 0 }
  | _ => s

/-- R171: a register that accepts writes only while EN is 0. -/
def writeFbLocked (s : State) (b : FbIx) (f : Feedback → Feedback) : State :=
  if fbEn s.channels[b] then fbCfgErr s b else modFb s b f

/-- R189, R190: a write of a 32-bit register of a channel. -/
def fbWrite (s : State) (b : FbIx) (off : Nat) (v : Word) : State :=
  match off with
  | 0x00 => writeFbCtrl s b v
  | 0x04 => modFb s b fun x => { x with cfgErr := x.cfgErr && !tst v 8 }
  | 0x08 => writeFbLocked s b fun x => { x with filt := v &&& 0xFFFF }
  | 0x28 => writeFbLocked s b fun x => { x with idxPeriod := v &&& 0xFFFFFF }
  | 0x2C => modFb s b fun x => { x with idxTol := v &&& 0xFFFF }
  | 0x40 => modFb s b fun x => { x with speedCtrl := v &&& 0xFFFFFF0F }
  | 0x44 => modFb s b fun x => { x with speedMax := v }
  | 0x48 => writeFbLocked s b fun x => { x with ssiCtrl := v &&& 0x3FF3F }
  | 0x4C => writeFbLocked s b fun x => { x with ssiTiming := v }
  | 0x50 => modFb s b fun x => { x with ssiDelay := setFld x.ssiDelay 15 0 v.toNat }
  | 0x64 => modFb s b fun x => { x with evtStatus := w1c x.evtStatus v }
  | 0x68 => modFb s b fun x => { x with evtEnable := v &&& 0x1FFF }
  | 0x6C => writeEmuCtrl s b v
  | 0x70 => writeEmuLines s b v
  | 0x74 => modEmu s b fun m => { m with ofs := v }
  | _ => s

/-- R189: a write of a 64-bit value of a channel, by the offset of its low word. -/
def fbWide (s : State) (b : FbIx) (off : Nat) (v : W64) : State :=
  match off with
  | 0x0C => if fbEn s.channels[b] then fbCfgErr s b else fbSetPos s b v
  | 0x20 => modFb s b fun x => { x with idxValue := v }
  | _ => s

/-- R187: an EMU_OFS write takes effect at the next tick. -/
def emuOffsetTick (s : State) : State :=
  forAll (indices 16) s fun s b =>
    if s.channels[b].emu.forceOfs = s.channels[b].emu.ofs then s
    else emuFollow (modEmu s b fun m => { m with forceOfs := m.ofs }) b (nowTime s)

end Sys2Proof.Machine
end

