-- ==== Sys2Proof/Machine/Analog.lean ====
section
/-! DEFINITION. The window comparators (R191 to R200), the converter (R201 to R203) and their registers (R205, R206). -/
namespace Sys2Proof.Machine

/-! R206: the fields of ACn.CTRL. -/
def acEn (x : Comparator) : Bool := tst x.ctrl 0
def acSampled (x : Comparator) : Bool := tst x.ctrl 1
def acSdiv (x : Comparator) : Nat := fld x.ctrl 15 8 + 1
def acInit (x : Comparator) : CompState := match fld x.ctrl 6 5 with | 1 => .inside | 2 => .above | _ => .below

/-- R192: the hysteresis in mV. -/
def hysteresis (x : Comparator) : Int :=
  match fld x.ctrl 4 2 with | 0 => 0 | 1 => 7 | 2 => 14 | 3 => 21 | 4 => 29 | 5 => 36 | 6 => 43 | _ => 50

/-- R191, R193: an input voltage in microvolts lies above a threshold code's band, or below it; all terms times 2,048. -/
def aboveBand (uv : Int) (code : Nat) (h : Int) : Bool := 3600000 * (code : Int) + 1024000 * h < 2048 * uv
def belowBand (uv : Int) (code : Nat) (h : Int) : Bool := 2048 * uv < 3600000 * (code : Int) - 1024000 * h

/-- R191: the two thresholds. -/
def thrLo (x : Comparator) : Nat := fld x.thr 9 0
def thrHi (x : Comparator) : Nat := fld x.thr 25 16

/-- R193: the state after an evaluation. -/
def compNext (x : Comparator) (uv : Int) : CompState :=
  let h := hysteresis x
  match x.state with
  | .below => if aboveBand uv (thrHi x) h then .above else if aboveBand uv (thrLo x) h then .inside else .below
  | .inside => if aboveBand uv (thrHi x) h then .above else if belowBand uv (thrLo x) h then .below else .inside
  | .above => if belowBand uv (thrLo x) h then .below else if belowBand uv (thrHi x) h then .inside else .above

/-- R197: the state that a voltage outside both bands gives. -/
def compOutside (x : Comparator) (uv : Int) : Option CompState :=
  let h := hysteresis x
  if aboveBand uv (thrHi x) h then some .above
  else if belowBand uv (thrLo x) h then some .below
  else if aboveBand uv (thrLo x) h && belowBand uv (thrHi x) h then some .inside
  else none

/-! Records and events (R199, R200). -/

/-- R200: an event of a comparator, other than what its record's routes carry. -/
def raiseCompEvent (s : State) (c : AcIx) (bit : Nat) : State :=
  let s := modComp s c fun x => { x with evtStatus := setBit x.evtStatus bit true }
  if tst s.comparators[c].evtEnable bit then deliverEvent s .comparator c bit (unitNo s .comparator c) else s

/-- R200, R287: the queues that the record of an event goes to: the owner's with REC_Q, and those of the event's
routes. -/
def compQueues (s : State) (c : AcIx) (bit : Nat) : List QuillIx :=
  let x := s.comparators[c]
  let owner := match x.owner with | some q => if tst x.ctrl 21 then [q] else [] | none => []
  let routed := if tst x.evtEnable bit then (routesOf s .comparator c bit).filterMap fun d =>
    match d with | .queue q => some q | _ => none else []
  (owner ++ routed).eraseDups

/-- R200: a record of a comparator with its event; a record lost at a full queue counts once. -/
def compRecord (s : State) (c : AcIx) (bit : Nat) (record : W128) (group index : Nat) : State :=
  let qs := compQueues s c bit
  let lost := qs.any fun q => queueRefuses s q group index
  let s := forAll qs s fun s q => enqueue s q record group index
  let s := raiseCompEvent s c bit
  if lost then raiseCompEvent (modComp s c fun x => { x with ovr := satAdd x.ovr 1 }) c 4 else s

/-- R199: KIND and ANGLE of a state record. -/
def compKind (s : State) (c : AcIx) (time : W64) : Nat × Word :=
  let x := s.comparators[c]
  if s.time.coarse then (0x68 + x.state.code, 0)
  else if tst x.ctrl 20 then
    match stampPos s.trackers[(Fin.ofNat 16 (fld x.ctrl 19 16) : TrackIx)] time with
    | some p => (0x60 + x.state.code, p.truncate 32)
    | none => (0x64 + x.state.code, 0)
  else (0x64 + x.state.code, 0)

/-- R193, R199: a state is entered. -/
def compEnter (s : State) (c : AcIx) (new : CompState) (time : W64) : State :=
  let s := modComp s c fun x => { x with state := new, last := time, seq := x.seq + 1, lastSeq := x.seq }
  let s := if tst s.comparators[c].evtEnable new.code then noteWake s 2 else s
  let seq := s.comparators[c].lastSeq
  let (kind, angle) := compKind s c time
  let s := compRecord s c new.code (mkRecord kind c seq.toNat angle time) 5 c
  let s := externalEvent s (256 + c) (fun t => fld t.cfg.refExt 11 10 == new.code) time
  causeReflex s (256 + c) [new.code]

/-- R193, R197: an evaluation: an unresolved comparator resolves without a record. -/
def compEvaluate (s : State) (c : AcIx) (uv : Int) (time : W64) : State :=
  let x := s.comparators[c]
  if x.unresolved then
    match compOutside x uv with
    | some st => modComp s c fun x => { x with state := st, unresolved := false }
    | none => s
  else
    let new := compNext x uv
    if new = x.state then s else compEnter s c new time

/-- R197, R198: the comparator is settled and not blanked. -/
def compLive (x : Comparator) : Bool := x.run && x.settle.isNone && x.blank.isNone

/-- R194, R196: the record time of a change detected `f` eighths after the present cycle's record time.
DESIGN CHOICE (log entry 13). -/
def detectTime (s : State) (f : Fin 8) : W64 :=
  if s.time.coarse then nowTime s else nowTime s + BitVec.ofNat 64 f - Config.comparatorDelay

/-- R194: a continuous comparator detects its input voltage past a condition of R193. -/
def execComparatorChange (c : AcIx) (uv : Int) (f : Fin 8) (s : State) : Host.Outcome State Fault Refusal :=
  let x := s.comparators[c]
  finish (if compLive x && !acSampled x then compEvaluate s c uv (detectTime s f) else s)

/-- A time of TB has come. -/
def tbReached (s : State) (t : Option W64) : Bool := match t with | some t => notAfter t s.time.tb | none => false

/-- R204: the blanking began in the present cycle. -/
def thrJustWritten (s : State) (x : Comparator) : Bool := x.thrWas.any fun w => w.1 == s.time.tb

/-- R195, R196, R204: a sampled evaluation is due: once in its cycle, and with the blanking that begins in it still to
come. DEDUCED (log entry 56). -/
def sampleDue (s : State) (x : Comparator) : Bool :=
  x.run && acSampled x && (x.blank.isNone || thrJustWritten s x) &&
    if s.time.coarse then acSdiv x ≤ x.coarseEdges
    else s.time.cycle == 200 && s.time.frame.toNat % acSdiv x == 0 && x.sampledAt != some s.time.tb

/-- R204: an evaluation with the thresholds as they stood before a write in the same cycle. -/
def compEvaluateOld (s : State) (c : AcIx) (uv : Int) (time : W64) : State :=
  let x := s.comparators[c]
  match (if thrJustWritten s x then x.thrWas else none) with
  | some (_, thr) =>
    modComp (compEvaluate (modComp s c fun x => { x with thr := thr }) c uv time) c fun y => { y with thr := x.thr }
  | none => compEvaluate s c uv time

/-- R195, R196, R197: a sampled evaluation; the first one after settling ends it. -/
def compSample (s : State) (c : AcIx) (uv : Int) : State :=
  let x := s.comparators[c]
  let s := modComp s c fun x => { x with coarseEdges := 0, sampledAt := some s.time.tb }
  let s := if tbReached s x.settle then modComp s c fun x => { x with settle := none } else s
  if s.comparators[c].settle.isSome then s else compEvaluateOld s c uv (nowTime s)

/-- R195. -/
def execComparatorSample (c : AcIx) (uv : Int) (s : State) : Host.Outcome State Fault Refusal :=
  finish (if sampleDue s s.comparators[c] then compSample s c uv else s)

/-- R197, R198: a continuous comparator has settled: its first evaluation, which blanking puts off to its end. -/
def execComparatorSettled (c : AcIx) (uv : Int) (s : State) : Host.Outcome State Fault Refusal :=
  let x := s.comparators[c]
  finish (if x.run && !acSampled x && tbReached s x.settle then
      let s := modComp s c fun x => { x with settle := none }
      if x.blank.isSome then s else compEvaluate s c uv (nowTime s)
    else s)

/-- R197, R198: the blanking ends: an evaluation against the new thresholds and the frozen state, but while the
comparator settles. DEDUCED (log entry 173). -/
def execBlankEnd (c : AcIx) (uv : Int) (s : State) : Host.Outcome State Fault Refusal :=
  let x := s.comparators[c]
  finish (if x.run && tbReached s x.blank then
      let s := modComp s c fun x => { x with
        blank := none, settle := if tbReached s x.settle then none else x.settle }
      if s.comparators[c].settle.isSome then s else compEvaluate s c uv (nowTime s)
    else s)

/-! Enable and registers of a comparator (R197, R198, R205, R206). -/

/-- A write was refused. -/
def compCfgErr (s : State) (c : AcIx) : State := raiseCompEvent (modComp s c fun x => { x with cfgErr := true }) c 5

/-- R198: a THR write. -/
def writeThr (s : State) (c : AcIx) (v : Word) : State :=
  if fld v 25 16 < fld v 9 0 then compCfgErr s c
  else modComp s c fun x => { x with
    thr := v &&& 0x03FF03FF
    blank := if x.run then some (s.time.tb + 1000) else none
    thrWas := if x.run && x.blank.isNone then some (s.time.tb, x.thr) else x.thrWas }

/-- R197, R271: the effective enable of a comparator after its own field or a glyph above it changed. -/
def compReview (s : State) (c : AcIx) : State :=
  let x := s.comparators[c]
  let want := acEn x && glyphsOn s .comparator c
  if want && !x.run then modComp s c fun x => { x with
    run := true, state := acInit x, unresolved := true, settle := some (s.time.tb + 1000), blank := none, coarseEdges := 0 }
  else if !want && x.run then modComp s c fun x => { x with run := false, settle := none, blank := none }
  else s

/-- R198: the fields of CTRL that accept writes only while EN is 0. -/
def acLocked : Word := 0xFF7E

/-- R197, R198: a write of ACn.CTRL. -/
def writeAcCtrl (s : State) (c : AcIx) (v : Word) : State :=
  let x := s.comparators[c]
  if acEn x && (v &&& acLocked) != (x.ctrl &&& acLocked) then compCfgErr s c
  else compReview (modComp s c fun x => { x with ctrl := v &&& 0x3FFF7F }) c

/-- R206: OWNED and OWNER at their places. -/
def ownerBits (o : Option QuillIx) (owned owner : Nat) : Word :=
  match o with | some q => bitAt owned true ||| at_ owner q | none => 0

/-- R205: a word of a comparator's registers as it stands. -/
def acPeek (s : State) (c : AcIx) (off : Nat) : Word :=
  let x := s.comparators[c]
  match off with
  | 0x00 => x.ctrl ||| ownerBits x.owner 22 24
  | 0x04 => x.thr
  | 0x08 => at_ 0 x.state.code ||| bitAt 2 x.unresolved ||| bitAt 3 x.blank.isSome ||| bitAt 4 x.thrFault
      ||| bitAt 5 x.cfgErr ||| at_ 16 x.lastSeq.toNat
  | 0x0C => x.evtStatus
  | 0x10 => x.evtEnable
  | 0x14 => at_ 0 x.ovr.toNat ||| at_ 16 x.rbErrs.toNat
  | 0x18 => lo32 x.last
  | 0x1C => hi32 x.last
  | _ => 0

/-- R205: what a read of CNT clears. -/
def acReadClear (s : State) (c : AcIx) (off : Nat) : State :=
  if off = 0x14 then modComp s c fun x => { x with ovr := 0, rbErrs := 0 } else s

/-- R205: a write of a register of a comparator. -/
def acWrite (s : State) (c : AcIx) (off : Nat) (v : Word) : State :=
  match off with
  | 0x00 => writeAcCtrl s c v
  | 0x04 => writeThr s c v
  | 0x08 => modComp s c fun x => { x with thrFault := x.thrFault && !tst v 4, cfgErr := x.cfgErr && !tst v 5 }
  | 0x0C => modComp s c fun x => { x with evtStatus := w1c x.evtStatus v }
  | 0x10 => modComp s c fun x => { x with evtEnable := v &&& 0x3F }
  | _ => s

/-! The converter (R201 to R203). -/

/-- An event of the converter. -/
def raiseAdcEvent (s : State) (bit : Nat) : State :=
  let s := modAdc s fun a => { a with evtStatus := setBit a.evtStatus bit true }
  if tst s.adc.evtEnable bit then deliverEvent s .converter 0 bit (unitNo s .converter 0) else s

/-- R202, R206: ADC_CHECK is raised. -/
def raiseAdcCheck (s : State) : State :=
  raiseFault (raiseAdcEvent (modAdc s fun a => { a with checkFail := true }) 2) 32 (unitNo s .converter 0)

/-- R201: the inputs that a round converts before its last slots. -/
def scanInputs (a : Adc) : List AdcSlot :=
  ((indices 16).filter fun i => tst a.scan i.val && i != 8 && i.val < 14).map .input

/-- R201: the slots of a round. -/
def roundPlan (s : State) : List AdcSlot :=
  scanInputs s.adc ++ (if tst s.adc.rbCtrl 0 && s.comparators.toList.any (·.run) then [.readback] else []) ++ [.reference]

/-- R202: the next threshold converter of an enabled comparator, from 2n + HI = `k` on. -/
def nextReadback (s : State) (k : Nat) : Option (AcIx × Bool) :=
  ((List.range 64).map fun i => (k + i) % 64).findSome? fun j =>
    let c : AcIx := Fin.ofNat 32 (j / 2)
    if s.comparators[c].run then some (c, j % 2 == 1) else none

/-- R205: RB_STATUS's place after a threshold. -/
def afterReadback (c : AcIx) (hi : Bool) : BitVec 6 := BitVec.ofNat 6 (2 * c.val + b2n hi + 1)

/-- R202: the readback slot begins: a threshold is chosen, or skipped in blanking. -/
def beginReadback (s : State) : State :=
  match nextReadback s s.adc.rbNext.toNat with
  | none => modAdc s fun a => { a with reading := none }
  | some (c, hi) =>
    let x := s.comparators[c]
    if x.blank.isSome then
      modAdc s fun a => { a with reading := none, rbNext := afterReadback c hi, rbSkipped := satAdd a.rbSkipped 1 }
    else modAdc s fun a => { a with
      reading := some (c, hi, 4 * if hi then thrHi x else thrLo x), rbNext := afterReadback c hi }

/-- R201: a conversion begins. -/
def beginSlot (s : State) (at_ : W64) : State :=
  let s := modAdc s fun a => { a with began := some at_ }
  match s.adc.slots with
  | .readback :: _ => beginReadback s
  | _ => s

/-- R201: a round begins. DEDUCED (log entry 133). -/
def beginRound (s : State) (at_ : W64) : State :=
  let plan := roundPlan s
  beginSlot (modAdc s fun a => { a with slots := plan, roundBegan := at_ <<< 3 }) at_

/-- R202: TOL. -/
def adcTol (a : Adc) : Nat := max 1 (fld a.rbCtrl 15 8)
/-- R202: two results differ by no more than TOL. -/
def withinTol (a : Adc) (x y : Nat) : Bool := x ≤ y + adcTol a && y ≤ x + adcTol a

/-- R199: the ANGLE field of READBACK_ERR. -/
def readbackAngle (main expected : Nat) (hi : Bool) (outcome : Nat) : Word :=
  at_ 0 main ||| at_ 16 expected ||| bitAt 28 hi ||| at_ 29 outcome

/-- R202: READBACK_ERR of a threshold. DEDUCED (log entry 57). -/
def readbackErr (s : State) (c : AcIx) (hi : Bool) (main expected outcome : Nat) (time : W64) : State :=
  let angle := readbackAngle main expected hi outcome
  let s := modComp s c fun x => { x with seq := x.seq + 1, lastSeq := x.seq }
  let seq := s.comparators[c].lastSeq
  compRecord (modAdc s fun a => { a with rbLast := angle }) c 3 (mkRecord 0x6B c seq.toNat angle time) 6 8

/-- R202: a failure that no spare decides. -/
def undecided (s : State) (r : Arbitration) (time : W64) : State :=
  raiseAdcCheck (match r.threshold with | some (c, hi) => readbackErr s c hi r.main r.expected 2 time | none => s)

/-- R202: a failure of a threshold readback or of the reference. -/
def convFailure (s : State) (r : Arbitration) (time : W64) : State :=
  let s := match r.threshold with
    | some (c, _) => modComp s c fun x => { x with rbErrs := satAdd x.rbErrs 1 }
    | none => s
  if s.adc.spareActive || s.adc.spareGone then failureWithoutSpare (undecided s r time) (unitNo s .converter 0)
  else modAdc s fun a => { a with
    arbitrations := a.arbitrations ++ [r]
    arbBegan := a.arbBegan.orElse fun _ => some s.time.tb }

/-- R202: a readback's result. DEDUCED (log entry 172). -/
def readbackDone (s : State) (main : Nat) (time : W64) : State :=
  match s.adc.reading with
  | none => s
  | some (c, hi, expected) =>
    let s := modAdc s fun a => { a with
      reading := none, rbDone := a.rbDone + 1, rbLast := readbackAngle main expected hi 0
      results := a.results.set 8 { value := BitVec.ofNat 12 main, valid := true, round := a.round } }
    if withinTol s.adc main expected then s
    else convFailure s { threshold := some (c, hi), main := main, expected := expected } time

/-- R420, R393: a converted input shows its supply outside the operating range: the supply's number, and whether it is
out. The result is in units of 1.8 V / 4,096; R201 scales VDDA, VIO and VBAT by one half. -/
def supplyCheck (a : Adc) (i : Fin 16) (r : Nat) : Option (Fin 11 × Bool) :=
  let uv : Nat := r * 1800000
  let out (scale lo hi : Nat) : Bool := scale * uv < lo * 4096 || hi * 4096 < scale * uv
  match i.val with
  | 10 => some (0, out 1 776000 824000)
  | 11 => some (1, out 2 1710000 1890000)
  | 12 => some (Fin.ofNat 11 (3 + fld a.ctrl 5 3), out 2 1710000 1890000 && out 2 3135000 3465000)
  | 13 => some (2, out 2 1800000 3600000)
  | _ => none

/-- R395: SUPPLY is raised when a supply leaves its range, and again only after it has been back. -/
def noteSupply (s : State) (i : Fin 16) (r : Nat) : State :=
  match supplyCheck s.adc i r with
  | none => s
  | some (k, out) =>
    let was := tst s.adc.supplyOut k
    let s := modAdc s fun a => { a with supplyOut := setBit a.supplyOut k out }
    if out && !was then raiseFault s 6 else s

/-- R203: the record of an input's result. -/
def resultRecord (s : State) (i : Fin 16) (r : Nat) (time : W64) : State :=
  let a := s.adc
  match a.owner with
  | none => s
  | some q =>
    if tst a.scan (16 + i.val) && tst a.ctrl 1 then
      let lost := queueRefuses s q 6 i
      let s := modAdc s fun a => { a with seq := a.seq + 1, ovr := if lost then satAdd a.ovr 1 else a.ovr }
      enqueue s q (mkRecord 0x6C i a.seq.toNat (BitVec.ofNat 32 r) time) 6 i
    else s

/-- R203: the result of an input. DESIGN CHOICE (log entry 14). -/
def inputDone (s : State) (i : Fin 16) (r : Fin 4096) (time : W64) : State :=
  let value : BitVec 12 := BitVec.ofFin r
  let s := modAdc s fun a => { a with
    results := a.results.set i { value := value, valid := true, round := a.round }
    temp := if i = 9 then Config.dieTemperature value else a.temp }
  resultRecord (noteSupply s i r) i r time

/-- R201, R202: the result of input 14. -/
def referenceDone (s : State) (r : Fin 4096) (time : W64) : State :=
  let s := modAdc s fun a => { a with
    results := a.results.set 14 { value := BitVec.ofFin r, valid := true, round := a.round } }
  if withinTol s.adc r 2048 then s
  else convFailure s { threshold := none, main := r, expected := 2048 } time

/-- R201: a conversion of the round has ended, 500 ns after it began. -/
def conversionDue (s : State) : Bool :=
  s.adc.run && match s.adc.began with | some t => notAfter (t + 500) s.time.tb | none => false

/-- R201: the next conversion of the round begins, or the next round. -/
def nextSlot (s : State) (at_ : W64) : State :=
  match s.adc.slots with
  | _ :: x :: rest => beginSlot (modAdc s fun a => { a with slots := x :: rest }) at_
  | _ => beginRound (raiseAdcEvent (modAdc s fun a => { a with round := a.round + 1, roundTime := a.roundBegan }) 0) at_

/-- R201 to R203: the end of a conversion with its result. -/
def conversion (s : State) (r : Fin 4096) : State :=
  let began := s.adc.began.getD s.time.tb
  let time := began <<< 3
  let s := match s.adc.slots with
    | .input i :: _ => inputDone s i r time
    | .readback :: _ => readbackDone s r time
    | .reference :: _ => referenceDone s r time
    | [] => s
  nextSlot s (began + 500)

/-- R201. -/
def execAdcConversion (r : Fin 4096) (s : State) : Host.Outcome State Fault Refusal :=
  finish (if conversionDue s then conversion s r else s)

/-- R202: the spare's conversion has ended. -/
def arbitrationDue (s : State) : Bool :=
  match s.adc.arbBegan with | some t => notAfter (t + 500) s.time.tb | none => false

/-- R202, R410, R413: the spare finds the main converter at fault and takes its place. -/
def swapConverter (s : State) (r : Arbitration) (time : W64) : State :=
  let s := modAdc s fun a => { a with spareActive := true }
  let s := addLedger (modPool s fun k => { k with retiredConverters := k.retiredConverters ||| 1 }) 5 0 5 0
  let s := noteExhausted (raiseFault (raiseAdcEvent s 1) 25 (unitNo s .converter 0)) 4 true
  match r.threshold with | some (c, hi) => readbackErr s c hi r.main r.expected 1 time | none => s

/-- R202: the spare agrees with the main converter. -/
def faultyInput (s : State) (r : Arbitration) (time : W64) : State :=
  match r.threshold with
  | some (c, hi) =>
    let s := readbackErr (modComp s c fun x => { x with thrFault := true }) c hi r.main r.expected 0 time
    raiseFault s 33 (unitNo s .comparator c)
  | none => raiseAdcCheck (raiseAdcEvent (modAdc s fun a => { a with refFail := true }) 3)

/-- R202: the spare's result decides the failure first in line. -/
def arbitrate (s : State) (spare : Nat) : State :=
  match s.adc.arbitrations with
  | [] => s
  | r :: rest =>
    let began := s.adc.arbBegan.getD s.time.tb
    let time := began <<< 3
    let s := modAdc s fun a => { a with
      arbitrations := rest, arbBegan := if rest.isEmpty then none else some (began + 500) }
    if withinTol s.adc spare r.expected then
      let s := modAdc (swapConverter s r time) fun a => { a with arbitrations := [], arbBegan := none }
      forAll rest s fun s r => undecided s r time
    else if withinTol s.adc spare r.main then faultyInput s r time
    else undecided s r time

/-- R202. -/
def execAdcArbitration (r : Fin 4096) (s : State) : Host.Outcome State Fault Refusal :=
  finish (if arbitrationDue s then arbitrate s r else s)

/-- R206, R271: the converter's effective enable after its own field or a glyph above it changed.
DEDUCED (log entry 58). -/
def adcReview (s : State) : State :=
  let want := tst s.adc.ctrl 0 && ((unitOf s .converter 0).isNone || glyphsOn s .converter 0)
  if want && !s.adc.run then beginRound (modAdc s fun a => { a with run := true }) s.time.tb
  else if !want && s.adc.run then
    modAdc s fun a => { a with run := false, slots := [], began := none, reading := none }
  else s

/-- R206: a write of ADC.CTRL. -/
def writeAdcCtrl (s : State) (v : Word) : State := adcReview (modAdc s fun a => { a with ctrl := v &&& 0x3B })

/-- R205: a word of the converter's registers as it stands. -/
def adcPeek (s : State) (off : Nat) : Word :=
  let a := s.adc
  match off with
  | 0x00 => a.ctrl ||| ownerBits a.owner 16 12
  | 0x04 => bitAt 0 a.spareActive ||| bitAt 1 a.arbBegan.isSome ||| bitAt 2 a.checkFail ||| bitAt 3 a.refFail
      ||| at_ 16 a.round.toNat
  | 0x08 => a.scan
  | 0x0C => a.rbCtrl
  | 0x10 => at_ 0 a.rbNext.toNat ||| at_ 16 a.rbDone.toNat
  | 0x14 => a.rbLast
  | 0x18 => lo32 a.roundTime
  | 0x1C => hi32 a.roundTime
  | 0x20 => a.evtStatus
  | 0x24 => a.evtEnable
  | 0x28 => at_ 0 a.rbSkipped.toNat ||| at_ 16 a.ovr.toNat
  | 0x2C => a.temp
  | _ =>
    if h : 0x40 ≤ off ∧ off < 0x80 ∧ off % 4 = 0 then
      let r := a.results[(off - 0x40) / 4]'(by omega)
      at_ 0 r.value.toNat ||| bitAt 12 r.valid ||| at_ 16 r.round.toNat
    else 0

/-- R205: what a read of ADC.CNT clears. -/
def adcReadClear (s : State) (off : Nat) : State :=
  if off = 0x28 then modAdc s fun a => { a with rbSkipped := 0, ovr := 0 } else s

/-- R205: a write of a register of the converter. -/
def adcWrite (s : State) (off : Nat) (v : Word) : State :=
  match off with
  | 0x00 => writeAdcCtrl s v
  | 0x04 => modAdc s fun a => { a with checkFail := a.checkFail && !tst v 2, refFail := a.refFail && !tst v 3 }
  | 0x08 => modAdc s fun a => { a with scan := v }
  | 0x0C => modAdc s fun a => { a with rbCtrl := v &&& 0xFF01 }
  | 0x20 => modAdc s fun a => { a with evtStatus := w1c a.evtStatus v }
  | 0x24 => modAdc s fun a => { a with evtEnable := v &&& 0xF }
  | _ => s

end Sys2Proof.Machine
end

