-- ==== Sys2Proof/Machine/Counter.lean ====
section
/-! DEFINITION. The counter elements (R54 to R60, R62, R63, R67, R68). -/
namespace Sys2Proof.Machine

/-! R68: the fields of CTRL. -/
def ceEn (x : Counter) : Bool := tst x.ctrl 0
def ceModulo (x : Counter) : Bool := tst x.ctrl 1
def cePresc (x : Counter) : Nat := fld x.ctrl 7 4
def ceCmpEn (x : Counter) (k : Fin 4) : Bool := tst x.ctrl (8 + k)
def ceCmpIe (x : Counter) (k : Fin 4) : Bool := tst x.ctrl (12 + k)

/-- R68: the element counts; in modulo mode with PERIOD 0 it does not. -/
def ceCounting (x : Counter) : Bool := x.run && !(ceModulo x && x.period == 0)

/-- A compare armed and enabled. -/
def ceLive (x : Counter) (k : Fin 4) : Bool := tst x.armed k && ceCmpEn x k

/-- How often a modulo count that moves from `c` by `d` becomes `v`, without passing through 0, and then runs `rem`
counts on from 0 under the period `per`. -/
def ceCrossings (c first rem per v : Nat) (wrapped : Bool) : Nat :=
  (if c < v ∧ v ≤ c + first then 1 else 0)
    + (if wrapped ∧ v < per ∧ v ≤ rem then (rem - v) / per + 1 else 0)

/-- R54, R55, R63: a free-running count advances by `d`. -/
def ceFree (x : Counter) (d : Nat) : Counter :=
  let hit (k : Fin 4) : Bool := ceLive x k && (let u := (x.compare[k] - x.count).toNat; 1 ≤ u && u ≤ d)
  let mask : BitVec 4 := (indices 4).foldl (fun m k => if hit k then m ||| (1#4 <<< k.val) else m) 0
  let zero := 2 ^ 64 ≤ x.count.toNat + d
  { x with
    count := x.count + BitVec.ofNat 64 d
    firing := x.firing ||| mask
    armed := x.armed &&& ~~~mask
    period := if zero && x.perPending then x.shadow else x.period
    perPending := x.perPending && !zero }

/-- R56, R57, R63: a modulo count advances by `d`. -/
def ceModuloBy (x : Counter) (d : Nat) : Counter :=
  let c := x.count.toNat
  let per := x.period.toNat
  let past := per ≤ c
  let room := if past then 1 else per - c
  let wrapped := room ≤ d
  let first := if wrapped then room - 1 else d
  let rem := d - room
  let per' := if wrapped && x.perPending then x.shadow.toNat else per
  let times (k : Fin 4) : Nat :=
    if ceLive x k && (x.compare[k].toNat < per || wrapped) then
      ceCrossings c (if past then 0 else first) rem per' x.compare[k].toNat wrapped else 0
  let mask (n : Nat) : BitVec 4 := (indices 4).foldl (fun m k => if n ≤ times k then m ||| (1#4 <<< k.val) else m) 0
  { x with
    count := BitVec.ofNat 64 (if wrapped then rem % per' else c + d)
    firing := x.firing ||| mask 1
    merged := x.merged ||| mask 2
    ends := if wrapped then x.ends + 1 + rem / per' else x.ends
    cut := x.cut || (wrapped && past)
    period := BitVec.ofNat 64 per'
    perPending := x.perPending && !wrapped }

/-- The count advances by `d`. -/
def ceAdvance (x : Counter) (d : Nat) : Counter :=
  if d = 0 then x else if ceModulo x then ceModuloBy x d else ceFree x d

/-- R54, R62: `n` ACLK cycles pass through the prescaler; `tb` is TB of the ACLK edge.
DESIGN CHOICE (log entry 130). -/
def ceClock (x : Counter) (n : Nat) (tb : W64) : Counter :=
  let x := { x with firing := x.firing ||| x.fireNext, fireNext := 0 }
  if !ceCounting x then x
  else
    let t := x.phase + n
    let d := t / 2 ^ cePresc x
    let x := { x with phase := t % 2 ^ cePresc x }
    if d = 0 then x else { ceAdvance x d with countedAt := some tb }

/-- The element has something to do at an ACLK edge. -/
def ceBusy (x : Counter) : Bool := x.run || x.fireNext != 0

/-- R54: an ACLK edge for every counter element. -/
def ceEdge (s : State) (n : Nat) : State :=
  let tb := s.time.tb
  if s.counters.toList.any ceBusy then
    { s with counters := s.counters.map fun x => if ceBusy x then ceClock x n tb else x }
  else s

/-! Matches and period ends. -/

/-- R58: the record time of the ACLK edge of a match. -/
def ceEdgeTime (s : State) : W64 := if s.time.coarse then nowTime s else (s.time.tb &&& ~~~1#64) <<< 3

/-- R152: the record of a match. -/
def ceRecord (s : State) (e : CeIx) (k : Fin 4) (seq : BitVec 16) : W128 :=
  let kind := 0x30 + k.val + (if 256 ≤ e.val then 4 else 0) + (if s.time.coarse then 8 else 0)
  mkRecord kind (e.val % 256) seq.toNat 0 (ceEdgeTime s)

/-- R58: a compare fires. DEDUCED (log entry 30). -/
def ceMatch (s : State) (e : CeIx) (k : Fin 4) : State :=
  let x := s.counters[e]
  let off : BitVec 4 := ~~~(1#4 <<< k.val)
  let s := modCe s e fun x => { x with
    flags := setBit (setBit (setBit x.flags k true) (4 + k) (tst x.flags (4 + k) || tst x.passed k)) 10
      (tst x.flags 10 || tst x.merged k)
    matches_ := x.matches_ + 1
    firing := x.firing &&& off, passed := x.passed &&& off, merged := x.merged &&& off }
  if ceCmpIe x k then
    let record := ceRecord s e k x.seq
    let s := deliverRecord (modCe s e fun x => { x with seq := x.seq + 1 }) .counter e k record 7
    deliverEvent s .counter e k (unitNo s .counter e)
  else s

/-- R58. -/
def execCeCompareMatch (e : CeIx) (k : Fin 4) (s : State) : Host.Outcome State Fault Refusal :=
  finish (if tst s.counters[e].firing k then ceMatch s e k else s)

/-- R144: PARAM0.CE of a nib in PWM mode. -/
def pwmCe (x : Nib) : CeIx := Fin.ofNat 512 (fld x.param0 8 0)
/-- R131: the nib is one that follows the counter element. -/
def pwmFollows (x : Nib) (e : CeIx) : Bool := x.run && nibMode x == 1 && !x.inSafe && pwmCe x == e
/-- R144: PARAM0.ACTIVE_LOW exchanges the levels of a PWM pin. -/
def pwmDrive (x : Nib) (active : Bool) : Drive := if active != tst x.param0 9 then .high else .low

/-- R131: at a count of 0 the duty shadow comes into force, and the output becomes active, or inactive with a duty of
0; output that resumes drives the pin. DEDUCED (log entry 151). -/
def pwmPeriod (s : State) (n : NibIx) : State :=
  let x := s.nibs[n]
  let on := x.param1 != 0
  let s := modNib s n fun x => { x with duty := x.param1, pwmOn := true, pwmOut := on }
  if x.pwmOn && x.pwmOut == on then s else driveAt s n (ceEdgeTime s) (pwmDrive x on)

/-- R56, R131: periods of an element ended. DEDUCED (log entry 31). -/
def cePeriods (s : State) (e : CeIx) : State :=
  let x := s.counters[e]
  let wraps := x.ends - b2n x.cut
  let s := modCe s e fun x => { x with
    flags := setBit (setBit x.flags 8 (tst x.flags 8 || x.cut)) 9 (tst x.flags 9 || wraps != 0)
    periods := x.periods + BitVec.ofNat 16 x.ends
    ends := 0, cut := false }
  if s.time.coarse then s
  else forAll (indices 256) s fun s n => if pwmFollows s.nibs[n] e then pwmPeriod s n else s

/-- R56. -/
def execCePeriodEnd (e : CeIx) (s : State) : Host.Outcome State Fault Refusal :=
  finish (if s.counters[e].ends != 0 then cePeriods s e else s)

/-! Writes. -/

/-- R59: the rank of an access path among the writers of one ACLK cycle; a commit record has rank 0.
DEDUCED (log entry 32). -/
def ceRank : Path → Nat
  | .scribe => 1 | .sp => 2 | .pcie => 3

/-- R59: writer `rank` is to write a register in the ACLK cycle of `tb`: the element with the write noted, or none
where one that comes after it in R59's order has already written there in that cycle, so that its value stays. -/
def ceAdmit (x : Counter) (r : CeReg) (rank : Nat) (tb : W64) : Option Counter :=
  let earlier := if x.wroteIn = tb >>> 1 then x.wrote else []
  if earlier.any fun w => w.1 == r && rank < w.2 then none
  else some { x with wroteIn := tb >>> 1, wrote := (r, rank) :: earlier }

/-- R59: a write of one register by a writer of that order. -/
def ceRanked (x : Counter) (r : CeReg) (rank : Nat) (tb : W64) (f : Counter → Counter) : Counter :=
  match ceAdmit x r rank tb with
  | some y => f y
  | none => x

/-- R55: a compare armed and enabled in free-running mode is judged against the count.
DESIGN CHOICE (log entry 128). -/
def ceJudge (x : Counter) (k : Fin 4) (tb : W64) : Counter :=
  if ceModulo x || !ceLive x k then x
  else
    let bit : BitVec 4 := 1#4 <<< k.val
    let d := (x.compare[k] - x.count).toInt
    let same := match x.countedAt with | some t => t >>> 1 == tb >>> 1 | none => false
    if 0 < d then x
    else if d == 0 && same then { x with firing := x.firing ||| bit, armed := x.armed &&& ~~~bit }
    else { x with
      fireNext := x.fireNext ||| bit, armed := x.armed &&& ~~~bit
      passed := if d < 0 then x.passed ||| bit else x.passed &&& ~~~bit }

/-- R55: compare k is written and armed. -/
def ceArm (x : Counter) (k : Fin 4) (v tb : W64) : Counter :=
  let bit : BitVec 4 := 1#4 <<< k.val
  ceJudge { x with
    compare := x.compare.set k v, armed := x.armed ||| bit
    fireNext := x.fireNext &&& ~~~bit, passed := x.passed &&& ~~~bit } k tb

/-- R56, R57: a PERIOD write. -/
def cePeriodWrite (x : Counter) (v : W64) : Counter :=
  if v.toNat < 2 then { x with flags := setBit x.flags 11 true }
  else if !ceCounting x || tst x.ctrl 2 then { x with period := v, shadow := v, perPending := false }
  else { x with shadow := v, perPending := true }

/-- R67: the value that a WSEL selects is written by a writer of R59. -/
def ceSelWrite (x : Counter) (sel rank : Nat) (v tb : W64) : Counter :=
  if h : sel < 4 then ceRanked x (.compare ⟨sel, h⟩) rank tb fun x => ceArm x ⟨sel, h⟩ v tb
  else if sel ≠ 4 then x
  else if v.toNat < 2 then cePeriodWrite x v
  else ceRanked x .period rank tb fun x => cePeriodWrite x v

/-- R67: the value that a WSEL selects. -/
def ceSelRead (x : Counter) (sel : Nat) : W64 :=
  if h : sel < 4 then x.compare[sel]'h else if sel = 4 then x.period else if sel = 5 then x.shadow else 0

/-- R67: the copy of WSEL of an access path. -/
def ceWsel (x : Counter) : Path → Nat
  | .pcie => x.wselPcie.toNat | .sp => x.wselSp.toNat | .scribe => x.wselScribe.toNat
/-- R67: a path writes its copy of WSEL. -/
def ceWselWrite (x : Counter) (p : Path) (v : Word) : Counter :=
  match p with
  | .pcie => { x with wselPcie := v.truncate 3 }
  | .sp => { x with wselSp := v.truncate 3 }
  | .scribe => { x with wselScribe := v.truncate 3 }

/-- R54: counting starts; the prescaler restarts. -/
def ceStart (x : Counter) : Counter := { x with run := true, startPend := false, phase := 0 }

/-- R54, R271: the effective enable of an element after its own field or a glyph above it changed. -/
def ceReview (s : State) (e : CeIx) : State :=
  let x := s.counters[e]
  let want := ceEn x && !x.startPend && glyphsOn s .counter e
  if want && !x.run then modCe s e ceStart else if !want && x.run then modCe s e fun x => { x with run := false } else s

/-- R54: the prescaler's phase under another 2^p: what it has counted of the present step.
DESIGN CHOICE (log entry 129). -/
def cePhase (x : Counter) (v : Word) : Nat := x.phase % 2 ^ fld v 7 4

/-- R54, R55, R68: a write of CTRL; `path` is false for a register-write record, which starts at its tick. -/
def setCeCtrl (s : State) (e : CeIx) (v : Word) (path : Bool) : State :=
  let old := s.counters[e]
  let rises := tst v 0 && !ceEn old
  let s := modCe s e fun x => { x with
    ctrl := v &&& 0xFFFF
    phase := cePhase x v
    startPend := tst v 0 && (if rises then path && tst v 3 else x.startPend) }
  let s := modCe s e fun x => (indices 4).foldl (fun x k =>
    if ceCmpEn x k && !ceCmpEn old k then ceJudge x k s.time.tb else x) x
  ceReview s e

/-- R59: a write of CTRL by a writer of that order. DEDUCED (log entry 24). -/
def writeCeCtrl (s : State) (e : CeIx) (v : Word) (rank : Nat) : State :=
  match ceAdmit s.counters[e] .ctrl rank s.time.tb with
  | some y => setCeCtrl (modCe s e fun _ => y) e v (rank != 0)
  | none => s

/-- R54: at a tick, elements that START_AT_TICK held begin to count. -/
def ceTick (s : State) : State :=
  forAll (indices 512) s fun s e =>
    if s.counters[e].startPend then ceReview (modCe s e fun x => { x with startPend := false }) e else s

/-- R67: the address of a counter element. -/
def ceAddr (e : CeIx) : Nat := 0x100000 + 32 * e.val

/-- R53, R67: WIN_HI written by a path: the value applies with the low word that the path holds. -/
def writeCeWin (s : State) (p : Path) (e : CeIx) (v : Word) : State :=
  let low := heldLow s p (ceAddr e + 0x14)
  modCe s e fun x => ceSelWrite x (ceWsel x p) (ceRank p) (cat64 v low) s.time.tb

/-- R54, R59: a count written whole; accepted only while EN is 0. -/
def writeCeCount (s : State) (e : CeIx) (v : W64) (rank : Nat) : State :=
  modCe s e fun x => if ceEn x then x else ceRanked x .count rank s.time.tb fun x => { x with count := v }

/-- R68: CEn.STATUS. -/
def readCeStatus (s : State) (x : Counter) : Word :=
  (x.flags &&& 0xFFF) ||| bitAt 16 (ceCounting x) ||| bitAt 17 s.time.coarse ||| bitAt 18 x.perPending

/-- R67: a word of an element's registers as a path sees it. -/
def cePeek (s : State) (p : Path) (e : CeIx) (off : Nat) : Word :=
  let x := s.counters[e]
  match off with
  | 0x00 => x.ctrl
  | 0x04 => readCeStatus s x
  | 0x08 => lo32 x.count
  | 0x0C => hi32 x.count
  | 0x10 => BitVec.ofNat 32 (ceWsel x p)
  | 0x14 => lo32 (ceSelRead x (ceWsel x p))
  | 0x18 => hi32 (ceSelRead x (ceWsel x p))
  | 0x1C => at_ 0 x.matches_.toNat ||| at_ 16 x.periods.toNat
  | _ => 0

/-- R67: a write of a 32-bit register of an element by a path. -/
def ceWrite (s : State) (p : Path) (e : CeIx) (off : Nat) (v : Word) : State :=
  match off with
  | 0x00 => writeCeCtrl s e v (ceRank p)
  | 0x04 => modCe s e fun x => { x with flags := w1c x.flags (v &&& 0xFFF) }
  | 0x10 => modCe s e fun x => ceWselWrite x p v
  | _ => s

/-- R67: a register-write record to an element: WIDE, or one half of a 64-bit value with the other as it stands. -/
def ceRecordWrite (s : State) (e : CeIx) (off : Nat) (v : W64) (wide : Bool) : State :=
  let x := s.counters[e]
  let sel := x.wselRecord.toNat
  let halves (now : W64) (hi : Bool) : W64 :=
    if wide then v else if hi then cat64 (lo32 v) (lo32 now) else cat64 (hi32 now) (lo32 v)
  match off with
  | 0x00 => writeCeCtrl s e (lo32 v) 0
  | 0x04 => modCe s e fun x => { x with flags := w1c x.flags (lo32 v &&& 0xFFF) }
  | 0x08 => writeCeCount s e (halves x.count false) 0
  | 0x0C => writeCeCount s e (halves x.count true) 0
  | 0x10 => modCe s e fun x => { x with wselRecord := v.truncate 3 }
  | 0x14 => modCe s e fun x => ceSelWrite x sel 0 (halves (ceSelRead x sel) false) s.time.tb
  | 0x18 => modCe s e fun x => ceSelWrite x sel 0 (halves (ceSelRead x sel) true) s.time.tb
  | _ => s

end Sys2Proof.Machine
end

