-- ==== Sys2Proof/Machine/Strokes.lean ====
section
/-! DEFINITION. Strokes and outputs (chapter 04): acceptance at a commit (R112, R113, R119), the actions at their times
(R111, R120), patterns (R132), PWM (R131), reflex links (R138 to R140), SAFE_N (R129), and the registers of a nib's
output side (R142 to R146). -/
namespace Sys2Proof.Machine

/-! Acceptance (R112, R113). -/

/-- R112: why a stroke is dropped, if it is. -/
def strokeDrop (s : State) (q : QuillIx) (n : NibIx) (r : W128) : Option StrokeStatus :=
  let x := s.nibs[n]
  if x.owner ≠ some q then some .notOwner
  else if !x.run || strokeInvalid s n r then some .invalid
  else if x.inSafe then some .cancelledSafe
  else none

/-- R112, R143: a dropped stroke: its status record and its event. -/
def dropStroke (s : State) (n : NibIx) (r : W128) (st : StrokeStatus) : State :=
  raiseNibEvent (writeStatus s n r {} st (nowTime s)) n (if st == .cancelledSafe then 4 else 3)

/-- R113: a free slot. -/
def freeSlot (x : Nib) : Option SlotIx := (indices 16).find? fun k => (getSlot x k).isNone

/-- R113: no space for the stroke. -/
def dropFull (s : State) (n : NibIx) (r : W128) : State :=
  raiseFault (raiseNibEvent (writeStatus s n r {} .droppedFull (nowTime s)) n 2) 48 (unitNo s .nib n)

/-- R113, R116: a stroke enters a slot; a time-triggered one is locked at entry. -/
def enterStroke (s : State) (n : NibIx) (r : W128) (order : Nat) : State :=
  match freeSlot s.nibs[n] with
  | none => dropFull s n r
  | some k =>
    let s := modNib s n fun x => { x with held := false }
    let s := putSlot s n k (some { raw := r, order := order, entered := nowTime s, crossed := none })
    if timeTriggered r then lockStroke s n k (strokeTime r) (nowTime s) else s

/-- R119: the CANCEL reaches the stroke: one that has placed nothing and will not within 64 eighths, or a pattern that
runs. DEDUCED (log entry 40). -/
def cancelMatches (tag : Nat) (now : W64) (v : StrokeSlot) : Bool :=
  (tag == 0x1FF || strokeTag v.raw == tag) &&
    (if v.placed.isSome then strokeAction v.raw == some .patternStart
     else !(v.locked && notAfter v.place (now + 64)))

/-- R119, R132: a stroke is cancelled by its tag, and with it the pattern that it runs. DEDUCED (log entry 152). -/
def cancelTagged (s : State) (n : NibIx) (k : SlotIx) : State :=
  let s := if s.nibs[n].pattern.any fun p => p.slot == k then endPattern s n else s
  cancelSlot s n k .cancelledTag

/-- R122: a CANCEL ends a PULSE_ANGLE that HOLD keeps. -/
def cancelHeld (s : State) (n : NibIx) (tag : Nat) : State :=
  forAll (indices 16) s fun s k => modSlot s n k fun v =>
    if v.heldEnd && v.placed.isSome && (tag == 0x1FF || strokeTag v.raw == tag) then
      { v with heldEnd := false, next := some (nowTime s + 64), flags := { v.flags with truncated := true } }
    else v

/-- R119: a CANCEL acts, at its own position in commit order. -/
def actCancel (s : State) (n : NibIx) (r : W128) : State :=
  let tag := strokeTag r
  let ks := (slotsInOrder s.nibs[n]).filter fun k =>
    match getSlot s.nibs[n] k with | some v => cancelMatches tag (nowTime s) v | none => false
  let s := forAll ks s fun s k => cancelTagged s n k
  writeStatus (cancelHeld s n tag) n r {} .done (nowTime s)

/-- R119: a CANCEL of a quill. -/
def cancelStroke (s : State) (q : QuillIx) (r : W128) : State :=
  let n := strokeNib r
  match strokeDrop s q n r with
  | some st => dropStroke s n r st
  | none => actCancel s n r

/-- R112, R113: a stroke that needs a slot. DESIGN CHOICE (log entry 159). -/
def acceptStroke (s : State) (q : QuillIx) (r : W128) (order : Nat) : State :=
  let n := strokeNib r
  match strokeDrop s q n r with
  | some st => dropStroke s n r st
  | none =>
    if 16 ≤ s.nibs[n].taken then dropFull s n r
    else enterStroke (modNib s n fun x => { x with taken := x.taken + 1 }) n r order

/-- R111, R253: a stroke record of a quill takes effect at its commit. -/
def commitStroke (s : State) (q : QuillIx) (r : W128) (order : Nat) : State :=
  match strokeAction r with
  | some .nop => s
  | some .cancel => cancelStroke s q r
  | _ => acceptStroke s q r order

/-- R111: a NOP does nothing and writes no status. -/
def execStrokeNop (_q : QuillIx) (_r : W128) (s : State) : Host.Outcome State Fault Refusal := finish s

/-- R119. -/
def execStrokeCancel (q : QuillIx) (r : W128) (s : State) : Host.Outcome State Fault Refusal :=
  finish (cancelStroke s q r)

/-! The actions (R111). -/

/-- The slot is due, and its stroke has this action. -/
def actionDue (s : State) (n : NibIx) (k : SlotIx) (a : Action) : Bool :=
  slotDue s n k && match getSlot s.nibs[n] k with
    | some v => v.locked && v.placed.isNone && strokeAction v.raw == some a
    | none => false

/-- R111, R118: the stroke in the slot acts at its fire time. -/
def strokeAct (s : State) (n : NibIx) (k : SlotIx) (a : Action) : State :=
  if actionDue s n k a then fireSlot s n k else s

def execStrokeSet (n : NibIx) (k : SlotIx) (s : State) : Host.Outcome State Fault Refusal :=
  finish (strokeAct s n k .set)
def execStrokeClear (n : NibIx) (k : SlotIx) (s : State) : Host.Outcome State Fault Refusal :=
  finish (strokeAct s n k .clear)
def execStrokeToggle (n : NibIx) (k : SlotIx) (s : State) : Host.Outcome State Fault Refusal :=
  finish (strokeAct s n k .toggle)
def execStrokeFloat (n : NibIx) (k : SlotIx) (s : State) : Host.Outcome State Fault Refusal :=
  finish (strokeAct s n k .float)
def execStrokePulse (n : NibIx) (k : SlotIx) (s : State) : Host.Outcome State Fault Refusal :=
  finish (strokeAct s n k .pulse)
def execStrokePulseLow (n : NibIx) (k : SlotIx) (s : State) : Host.Outcome State Fault Refusal :=
  finish (strokeAct s n k .pulseLow)
def execStrokePulseAngle (n : NibIx) (k : SlotIx) (s : State) : Host.Outcome State Fault Refusal :=
  finish (strokeAct s n k .pulseAngle)
def execStrokeBurst (n : NibIx) (k : SlotIx) (s : State) : Host.Outcome State Fault Refusal :=
  finish (strokeAct s n k .burst)
def execStrokePwmLoad (n : NibIx) (k : SlotIx) (s : State) : Host.Outcome State Fault Refusal :=
  finish (strokeAct s n k .pwmLoad)
def execStrokePatternStart (n : NibIx) (k : SlotIx) (s : State) : Host.Outcome State Fault Refusal :=
  finish (strokeAct s n k .patternStart)
def execStrokePatternStop (n : NibIx) (k : SlotIx) (s : State) : Host.Outcome State Fault Refusal :=
  finish (strokeAct s n k .patternStop)
def execStrokeCaptureArm (n : NibIx) (k : SlotIx) (s : State) : Host.Outcome State Fault Refusal :=
  finish (strokeAct s n k .captureArm)
def execStrokeReflexArm (n : NibIx) (k : SlotIx) (s : State) : Host.Outcome State Fault Refusal :=
  finish (strokeAct s n k .reflexArm)
def execStrokeSafe (n : NibIx) (k : SlotIx) (s : State) : Host.Outcome State Fault Refusal :=
  finish (strokeAct s n k .safe)

/-- A later edge of the slot is due: its last one, or one of a burst before it. -/
def laterEdgeDue (s : State) (n : NibIx) (k : SlotIx) (last : Bool) : Bool :=
  slotDue s n k && match getSlot s.nibs[n] k with
    | some v => v.placed.isSome && isEndEdge v == last
    | none => false

/-- R120: the end edge of a pulse, of the last pulse of a burst, or of a PULSE_ANGLE. -/
def execPulseEndEdge (n : NibIx) (k : SlotIx) (s : State) : Host.Outcome State Fault Refusal :=
  finish (if laterEdgeDue s n k true then fireSlot s n k else s)

/-- R111: a later edge of a burst. -/
def execBurstEdge (n : NibIx) (k : SlotIx) (s : State) : Host.Outcome State Fault Refusal :=
  finish (if laterEdgeDue s n k false then fireSlot s n k else s)

/-! Patterns (R132). -/

/-- R132: the next bit is due. -/
def patternDue (s : State) (n : NibIx) : Bool := outDue s n .bit

/-- R132. -/
def execPatternBit (n : NibIx) (s : State) : Host.Outcome State Fault Refusal :=
  finish (if patternDue s n then patternStep s n else s)

/-! PWM (R131). -/

/-- R131: the counter element counts in modulo mode with PERIOD 2 or more. -/
def pwmCeOk (x : Counter) : Bool := ceModulo x && 2 ≤ x.period.toNat && ceCounting x

/-- R131: the nib is in PWM mode, enabled, and not in the SAFE state. -/
def pwmNib (x : Nib) : Bool := x.run && nibMode x == 1 && !x.inSafe

/-- R131: the output of a PWM nib is active. -/
def pwmActive (s : State) (x : Nib) : Bool :=
  let e := s.counters[pwmCe x]
  pwmCeOk e && e.count.toNat < x.duty.toNat

/-- R131: the output changes its level. -/
def pwmTurns (s : State) (x : Nib) : Bool := x.pwmOn && x.pwmOut != pwmActive s x

/-- R131: the output changes, or the condition of R131 has just ceased to hold or holds again.
DEDUCED (log entry 27). -/
def pwmDue (s : State) (n : NibIx) : Bool :=
  let x := s.nibs[n]
  pwmNib x && !s.time.coarse && (pwmTurns s x || pwmCeOk s.counters[pwmCe x] == x.pwmBad)

/-- R131: the edge of a PWM pin, and the INVALID event, raised once while the condition does not hold. A level that a
SAFE action or a reflex link drives stays until the next edge (R111, R138). -/
def pwmStep (s : State) (n : NibIx) : State :=
  let x := s.nibs[n]
  let ok := pwmCeOk s.counters[pwmCe x]
  let on := pwmActive s x
  let s := if pwmTurns s x then
      driveAt (modNib s n fun y => { y with pwmOut := on }) n (ceEdgeTime s) (pwmDrive x on) else s
  if ok != x.pwmBad then s
  else
    let s := modNib s n fun y => { y with pwmBad := !ok }
    if ok then s else raiseNibEvent s n 3

/-- R131. -/
def execPwmEdge (n : NibIx) (s : State) : Host.Outcome State Fault Refusal :=
  finish (if pwmDue s n then pwmStep s n else s)

/-! SAFE_N (R129). -/

/-- R129: an assertion of SAFE_N is taken. -/
def safeNFalls (s : State) : State :=
  let s := { s with safeLow := true, nibs := s.nibs.map fun x => { x with safeN := tst x.safe 5 } }
  let s := reviewSafe s
  raiseFault (causeReflex s 336 [0, 1, 2, 3]) 0

/-- R129, R443: SAFE_N is taken when it falls; in Sleep it is ignored until the wake.
DESIGN CHOICE (log entry 119). -/
def execSafeNAssert (s : State) : Host.Outcome State Fault Refusal :=
  let t := modPower s fun p => { p with safePin := true }
  finish (if s.safeLow || s.power.mode != .up then t else safeNFalls t)

/-- R129: SAFE_N has been high for 1 µs: the cause ends. -/
def safeNRises (s : State) : State :=
  modPower { s with safeLow := false, nibs := s.nibs.map fun x => { x with safeN := false } } fun p =>
    { p with safePin := false }

/-- R129. -/
def execSafeNRelease (s : State) : Host.Outcome State Fault Refusal := finish (safeNRises s)

/-! Reflex links (R138 to R140). -/

/-- R146: the fields of ACTION. -/
def reflexTarget (x : ReflexLink) : NibIx := Fin.ofNat 256 (fld x.action 7 0)
def reflexOp (x : ReflexLink) : Nat := fld x.action 9 8
def reflexWidth (x : ReflexLink) : Nat := fld x.action 31 12
/-- R138: the level of the action. -/
def reflexDrive (x : ReflexLink) : Drive := if reflexOp x % 2 = 0 then .high else .low
/-- R138, R140: the link is one whose cause is SAFE_N. -/
def onSafeN (x : ReflexLink) : Bool := fld x.cause 9 0 == 336

/-- R138, R140: the link's action drives its target after every stroke edge up to the same time. -/
def reflexFire (s : State) (l : LinkIx) : State :=
  let x := s.links[l]
  let n := reflexTarget x
  let t := nowTime s
  let s := fireBefore s n (t + 1) 64
  let (u, _) := edgeTime s.nibs[n] t t
  let fin := if 2 ≤ reflexOp x ∧ reflexWidth x ≠ 0 then
      some (u + BitVec.ofNat 64 (8 * reflexWidth x), l, toggled (reflexDrive x)) else none
  let s := modNib (placeEdge s n t t (reflexDrive x)) n fun y => { y with reflexEnd := fin }
  let s := modLink s l fun x => { x with fires := x.fires + 1, armed := x.armed && linkMode x == 0 }
  if x.ie then deliverEvent s .reflex l 0 (unitNo s .reflex l) else s

/-- R138 to R140: a cause of the link acts if the link is armed. DEDUCED (log entry 43). -/
def reflexAct (s : State) (l : LinkIx) : State :=
  let x := s.links[l]
  let n := reflexTarget x
  if !x.run || !x.armed || !s.nibs[n].run then s
  else if s.nibs[n].inSafe && !onSafeN x then
    modNib (modLink s l fun x => { x with suppressed := true }) n fun y => { y with suppressed := true }
  else reflexFire s l

/-- R138. -/
def execReflexCause (l : LinkIx) (s : State) : Host.Outcome State Fault Refusal :=
  finish (if s.reflexDue.any fun d => d.1 == l then
      reflexAct { s with reflexDue := s.reflexDue.eraseP fun d => d.1 == l } l
    else s)

/-- R140: the nib on which the link's pulse is in progress has reached its end. -/
def reflexEnds (s : State) (l : LinkIx) : Option NibIx :=
  (indices 256).find? fun n => (s.nibs[n].reflexEnd.any fun e => e.2.1 == l) && outDue s n .reflexEnd

/-- R140. -/
def execReflexPulseEnd (l : LinkIx) (s : State) : Host.Outcome State Fault Refusal :=
  finish (match reflexEnds s l with | some n => endReflex s n | none => s)

/-- R139, R271: the effective enable of a link after its own field or a glyph above it changed. -/
def linkReview (s : State) (l : LinkIx) : State :=
  let x := s.links[l]
  let want := x.en && glyphsOn s .reflex l
  if want = x.run then s
  else modLink s l fun x => { x with
    run := want, armed := want && linkMode x == 0, armedAt := if want then some s.time.tb else x.armedAt }

/-- R139, R146: a write of RLn.CTRL. -/
def writeRlCtrl (s : State) (l : LinkIx) (v : Word) : State :=
  let old := linkMode s.links[l]
  let s := modLink s l fun x => { x with en := tst v 0, armMode := fld v 2 1, ie := tst v 4 }
  let s := linkReview s l
  let x := s.links[l]
  if !x.run then s
  else if linkMode x = old then
    if tst v 3 && linkMode x == 1 && !x.armed then
      modLink s l fun x => { x with armed := true, armedAt := some s.time.tb }
    else s
  else modLink s l fun x => { x with
    armed := linkMode x == 0 || (linkMode x == 1 && tst v 3), armedAt := some s.time.tb }

/-- What RLn.CTRL reads (R146). -/
def readRlCtrl (x : ReflexLink) : Word := bitAt 0 x.en ||| at_ 1 x.armMode ||| bitAt 4 x.ie

/-- R145: a word of a link's registers as it stands. -/
def rlPeek (s : State) (l : LinkIx) (off : Nat) : Word :=
  let x := s.links[l]
  match off with
  | 0x0 => readRlCtrl x
  | 0x4 => x.cause
  | 0x8 => x.action
  | 0xC => bitAt 0 x.armed ||| bitAt 1 x.suppressed ||| at_ 16 x.fires.toNat
  | _ => 0

/-- R145, R146: a write of a link's register; CAUSE and ACTION accept writes only while EN is 0. -/
def rlWrite (s : State) (l : LinkIx) (off : Nat) (v : Word) : State :=
  match off with
  | 0x0 => writeRlCtrl s l v
  | 0x4 => modLink s l fun x => if x.en then x else { x with cause := v &&& 0xFFF }
  | 0x8 => modLink s l fun x => if x.en then x else { x with action := v &&& 0xFFFFF3FF }
  | 0xC => modLink s l fun x => { x with suppressed := x.suppressed && !tst v 1 }
  | _ => s

/-! Verniers (R134, R135). -/

/-- R135: a vernier fails calibration: the other serves alone, and a reserve cell is requested. -/
def vernierFails (s : State) (n : NibIx) (second : Bool) : State :=
  let x := s.nibs[n]
  if !(if second then x.vernBOk else x.vernAOk) then s
  else
    let s := modNib s n fun x => { x with
      vernAOk := x.vernAOk && second, vernBOk := x.vernBOk && !second, vernB := !second, moveWanted := true }
    raiseFault (raiseNibEvent s n 7) 50 (unitNo s .nib n)

/-- R135. -/
def execVernFail (n : NibIx) (second : Bool) (s : State) : Host.Outcome State Fault Refusal :=
  finish (vernierFails s n second)

/-- R134: the record time lies within the next 32 ns. -/
def soon (s : State) (t : W64) : Bool := precedes t (nowTime s + 256)

/-- R131: the ACLK cycles until a PWM output changes: to its duty while it is active, to the end of the period else. -/
def pwmCycles (x : Nib) (e : Counter) : Option Nat :=
  let goal := if e.count.toNat < x.duty.toNat then min x.duty.toNat e.period.toNat else e.period.toNat
  if e.period.toNat ≤ x.duty.toNat || x.duty == 0 then none
  else some ((goal - e.count.toNat) * 2 ^ cePresc e - e.phase)

/-- R131: a PWM output is about to change. -/
def pwmSoon (s : State) (x : Nib) : Bool :=
  let e := s.counters[pwmCe x]
  pwmNib x && x.pwmOn && pwmCeOk e && (pwmCycles x e).any fun k =>
    soon s (nowTime s + BitVec.ofNat 64 (8 * s.time.aclkWait + 16 * (k - 1)))

/-- R133, R187: an EMU output is about to begin, or to change with the emulator's next edge. -/
def emuSoon (s : State) (x : Nib) : Bool :=
  let m := s.channels[nibEmu x].emu
  x.emuFrom.any (soon s) || (x.emuOn && match emuPlace s m with
    | some (t, _) => soon s t && emuOutput (emuMoved m) (nibEmuOutput x) != emuOutput m (nibEmuOutput x)
    | none => false)

/-- R134: an edge of the nib is due within 32 ns. -/
def edgeSoon (s : State) (n : NibIx) : Bool :=
  let x := s.nibs[n]
  (nextOut x).any (fun e => soon s e.2) || pwmSoon s x || emuSoon s x

/-- R134: the verniers swap, at a moment with no edge due within 32 ns; a vernier that serves alone does not. -/
def vernierSwap (s : State) (n : NibIx) : State :=
  let x := s.nibs[n]
  if x.vernAOk && x.vernBOk && !edgeSoon s n then modNib s n fun x => { x with vernB := !x.vernB } else s

/-! The registers of the output side (R130, R137, R142, R143). -/

/-- R130: a write of LEVEL or DIRECT_Z of an enabled DIRECT nib outside the SAFE state commands its pin. -/
def driveDirect (s : State) (n : NibIx) : State :=
  let x := s.nibs[n]
  setDrive s n (if tst x.ctrl 5 then .z else levelDrive (tst x.ctrl 4))

/-- R271, R479: the effective enable of a nib after its own field or a glyph above it changed. -/
def nibReview (s : State) (n : NibIx) : State :=
  let x := s.nibs[n]
  let want := tst x.ctrl 0 && glyphsOn s .nib n
  if want && !x.run then enableNib s n else if !want && x.run then disableNib s n else s

/-- R130, R479: a write of NIBn.CTRL. A value with an invalid MODE, or another MODE while EN is 1, is ignored.
DEDUCED (log entry 44). -/
def writeNibCtrl (s : State) (n : NibIx) (v : Word) : State :=
  let x := s.nibs[n]
  if 4 < fld v 3 1 || (tst x.ctrl 0 && fld v 3 1 != nibMode x) then s
  else
    let s := nibReview (modNib s n fun x => { x with ctrl := v &&& 0x1FF }) n
    let y := s.nibs[n]
    if x.run && y.run && nibMode y == 4 && !y.inSafe then driveDirect s n else s

/-- R479: the nib's pin stands at SAFE_LEVEL: in the SAFE state, or bound and disabled while a folio is started. -/
def atSafeLevel (s : State) (n : NibIx) : Bool :=
  let x := s.nibs[n]
  x.inSafe || (!x.run && s.folio.started && (unitOf s .nib n).isSome)

/-- R128, R129: a write of NIBn.SAFE. DEDUCED (log entry 42). -/
def writeNibSafe (s : State) (n : NibIx) (v : Word) : State :=
  let s := modNib s n fun x => { x with safe := v &&& 0x3F, safeN := s.safeLow && tst v 5 }
  let s := if atSafeLevel s n then setDrive s n (safeLevel s.nibs[n]) else s
  reviewSafe s

/-- R143: NIBn.STATUS. -/
def readNibStatus (x : Nib) : Word :=
  bitAt 0 (x.drive == .high) ||| bitAt 1 (x.drive == .z) ||| bitAt 2 x.inSafe ||| bitAt 3 x.held
    ||| at_ 4 (armedCount x) ||| bitAt 9 (pulseInProgress x) ||| bitAt 10 x.pattern.isSome ||| bitAt 11 x.suppressed
    ||| bitAt 16 x.vernB ||| bitAt 17 x.vernAOk ||| bitAt 18 x.vernBOk ||| bitAt 19 (!x.vernAOk && !x.vernBOk)

end Sys2Proof.Machine
end

