-- ==== Sys2Proof/Machine/Capture.lean ====
section
/-! DEFINITION. The input stage of a nib (R147 to R151), what it records (R155 to R158) and where the records go (R159 to
R164), PPS stamps (R38), and the registers of a nib and of a capture stream (R142, R166 to R168). -/
namespace Sys2Proof.Machine

/-! R166: the fields of IN_CTRL. -/
def inFilt (i : NibIn) : Nat := fld i.ctrl 15 8
def inMeas (i : NibIn) : Nat := fld i.ctrl 7 5
def inGate (i : NibIn) : Bool := tst i.ctrl 3
def inInv (i : NibIn) : Bool := tst i.ctrl 2

/-! Records and their destinations (R152, R159 to R164). -/

/-- R159, R287: the queues that a record of an event bit goes to. DEDUCED (log entry 50). -/
def nibQueues (s : State) (n : NibIx) (bit : Nat) : List QuillIx :=
  let x := s.nibs[n]
  let owner := match x.owner with | some q => if tst x.inp.ctrl 21 then [q] else [] | none => []
  let routed := if tst x.evtEnable bit then (routesOf s .nib n bit).filterMap fun d =>
    match d with | .queue q => some q | _ => none else []
  (owner ++ routed).eraseDups

/-- R160: the live record as it stood before the present cycle. DEDUCED (log entry 164). -/
def liveBefore (s : State) (i : NibIn) : W128 :=
  match i.prior with | some (t, r) => if t = s.time.tb then r else i.live | none => i.live

/-- R160: the live record was formed in the present cycle. -/
def formedNow (s : State) (i : NibIn) : Bool := i.prior.any fun p => p.1 == s.time.tb

/-- R160: the record goes live in the capture register; true where an unread one is replaced. -/
def toRegister (s : State) (n : NibIx) (record : W128) : State × Bool :=
  (modNibIn s n fun i => { i with live := record, fresh := true, prior := some (s.time.tb, liveBefore s i) },
    s.nibs[n].inp.fresh)

/-- R159, R163, R164: a record of a nib input is formed: TYPE, ANGLE (none: NO_ANGLE with the measured value), the
record time and the event bit. -/
def nibRecord (s : State) (n : NibIx) (type : Nat) (stamp : Option Word) (value : Word) (time : W64) (bit : Nat) : State :=
  let i := s.nibs[n].inp
  let kind := type + (if stamp.isNone then 8 else 0) + (if s.time.coarse then 16 else 0)
  let record := mkRecord kind n i.seq.toNat (stamp.getD value) time
  let s := modNibIn s n fun i => { i with seq := i.seq + 1 }
  let s := if fld i.ctrl 1 0 = 0 then s else noteWake s 3
  let register := !tst i.ctrl 23 && (type == 1 || type == 2 || type == 7)
  let (s, lost1) := if register then toRegister s n record else (s, false)
  let qs := nibQueues s n bit
  let e : QueueEntry := { record := record, tb := s.time.tb, group := 1, index := n }
  let lost2 := qs.any fun q => queueRefuses s q 1 n
  let s := forAll qs s fun s q => enqueue s q record 1 n
  let g := streamOf n
  let lost3 := tst i.ctrl 22 && streamOn s.streams[g] && refusesEntry s.streams[g].fifo 512 e
  let s := if tst i.ctrl 22 then pushStream s g record 1 n else s
  let s := raiseNibEvent s n bit
  if lost1 || lost2 || lost3 then
    raiseNibEvent (modNibIn s n fun i => { i with ovr := satAdd i.ovr 1 }) n 18
  else s

/-- R151, R154: the stamp of a nib input's record. -/
def nibStamp (s : State) (n : NibIx) (time : W64) : Option Word :=
  let i := s.nibs[n].inp
  if s.time.coarse || !tst i.ctrl 20 then none
  else (stampPos s.trackers[(Fin.ofNat 16 (fld i.ctrl 19 16) : TrackIx)] time).map (·.truncate 32)

/-! Windows (R158). -/

/-- R158: the record time lies in the window. DEDUCED (log entry 49). -/
def inWindow (w : Window) (t : W64) : Bool :=
  notAfter w.opened t && match w.closes with | some c => precedes t c | none => true

/-- R158: every edge of the window's time has been judged and it forms no record. -/
def windowDone (w : Window) (now : W64) : Bool :=
  !w.live && w.admitted && match w.closes with | some c => precedes (c + 2240) now | none => false

/-- R158: the record of an edge is admitted. -/
def admitted (i : NibIn) (t : W64) : Bool := !inGate i || i.windows.any fun w => inWindow w t

/-- R158: an edge at `t` formed an admitted record: its window is marked, and closed if the first record closes it. -/
def admitEdge (i : NibIn) (t now : W64) : NibIn :=
  { i with
    windows := (i.windows.filter fun w => !windowDone w now).map fun w =>
      if inWindow w t then
        if w.closes.isNone || tst i.ctrl 4 then { w with admitted := true, live := false, closes := some (t + 1) }
        else { w with admitted := true }
      else w }

/-! An accepted edge (R148, R150). -/

/-- R155: CAP_EDGE selects the edge. -/
def capSelected (i : NibIn) (rising : Bool) : Bool := tst i.ctrl (if rising then 0 else 1)

/-- R156: the edge opens, or closes, the measurement selected; TYPE of its record. DEDUCED (log entry 48). -/
def opensMeas (i : NibIn) (rising : Bool) : Bool :=
  match inMeas i with | 1 => rising | 2 => !rising | 3 => rising | 4 => !rising | _ => false
def closesMeas (i : NibIn) (rising : Bool) : Bool :=
  match inMeas i with | 1 => !rising | 2 => rising | 3 => rising | 4 => !rising | _ => false
def measType (i : NibIn) : Nat := match inMeas i with | 1 => 3 | 2 => 4 | _ => 5

/-- R156: the measured value. -/
def measValue (o t : W64) : Word := BitVec.ofNat 32 (min (2 ^ 32 - 1) (t - o).toNat)

/-- R155: the edge capture of an admitted edge. -/
def edgeCapture (s : State) (n : NibIx) (rising : Bool) (t : W64) : State :=
  nibRecord s n (if rising then 1 else 2) (nibStamp s n t) 0 t 16

/-- R156: the measurement at an edge. -/
def edgeMeasure (s : State) (n : NibIx) (rising : Bool) (t : W64) (ok : Bool) : State :=
  let i := s.nibs[n].inp
  let s := match closesMeas i rising, i.opening with
    | true, some o => if ok then nibRecord s n (measType i) none (measValue o t) t 17 else s
    | _, _ => s
  modNibIn s n fun i => { i with
    opening := if opensMeas i rising then some t else if closesMeas i rising then none else i.opening }

/-- R157: a rising edge counts in the gate in which its record time falls. -/
def countFreq (i : NibIn) (t : W64) : NibIn :=
  match i.freqDue.findIdx? fun g => precedes t g.1 with
  | some k => { i with freqDue := i.freqDue.modify k fun g => (g.1, satAdd g.2 1) }
  | none => match i.gate with
    | some g => if g.left.isSome && notAfter g.begins t then { i with gate := some { g with count := satAdd g.count 1 } } else i
    | none => i

/-- R38, R39: an edge that PPS_CTRL selects is stamped. -/
def ppsEdge (s : State) (n : NibIx) (rising : Bool) (t : W64) : State :=
  let p := s.time.pps
  if !tst p.ctrl 8 || fld p.ctrl 7 0 != n.val || rising == tst p.ctrl 9 then s
  else
    let s := modPps s fun p => { p with
      new := true, coarse := s.time.coarse, seq := p.seq + 1, stamp := t, ovr := if p.new then satAdd p.ovr 1 else p.ovr }
    if tst p.ctrl 10 then deliverEvent s .pps 0 0 0xFFF else s

/-- R155 to R158: what the edge records. -/
def recordEdge (s : State) (n : NibIx) (rising : Bool) (t : W64) : State :=
  let i := s.nibs[n].inp
  let ok := admitted i t
  let captures := capSelected i rising && ok
  let measures := closesMeas i rising && i.opening.isSome && ok
  let s := if captures then edgeCapture s n rising t else s
  let s := edgeMeasure s n rising t ok
  let s := if captures || measures then modNibIn s n fun i => admitEdge i t (nowTime s) else s
  if rising && inMeas i == 5 then modNibIn s n fun i => countFreq i t else s

/-- R164: a window that closed no later than `t` has its WIN_EMPTY record still to form. DEDUCED (log entry 163). -/
def waitsEmpty (i : NibIn) (t : W64) : Bool :=
  !i.late.isEmpty || i.windows.any fun w => !w.admitted && w.closes.any fun c => notAfter c t

/-- R164: an accepted edge is recorded, or waits for a WIN_EMPTY of an earlier time. -/
def recordInOrder (s : State) (n : NibIx) (rising : Bool) (t : W64) : State :=
  if waitsEmpty s.nibs[n].inp t then modNibIn s n fun i => { i with late := i.late ++ [(rising, t)] }
  else recordEdge s n rising t

/-- R164: the waiting edges are recorded: all of them, or up to the first that still has to wait. -/
def recordLate (all : Bool) (n : NibIx) : List (Bool × W64) → State → State
  | [], s => s
  | e :: rest, s =>
    let s := modNibIn s n fun i => { i with late := [] }
    if !all && waitsEmpty s.nibs[n].inp e.2 then modNibIn s n fun i => { i with late := e :: rest }
    else recordLate all n rest (recordEdge s n e.1 e.2)

/-- R147, R148: the conditioned input changes: the edge reaches every consumer. -/
def acceptEdge (s : State) (n : NibIx) (rising : Bool) (t : W64) : State :=
  let s := modNibIn s n fun i => { i with level := rising, run := none }
  let s := recordInOrder s n rising t
  let s := ppsEdge s n rising t
  let s := edgeToTrackers s n rising t
  let s := externalEvent s n (fun u => tst u.cfg.refExt 9 != rising) t
  causeReflex s n [if rising then 0 else 1, 2]

/-- R148: FILT in eighths. -/
def filtEighths (i : NibIn) : W64 := BitVec.ofNat 64 (8 * inFilt i)

/-- R148: the input stage sees the level that has held at the ball: it enters the filter; the run that it ends is
accepted if it held long enough, and discarded else. -/
def seeLevel (s : State) (n : NibIx) (m : Held) : State :=
  let s := modNibIn s n fun i => { i with sync := !i.sync, move := none }
  let i := s.nibs[n].inp
  if (i.sync != inInv i) != i.level then modNibIn s n fun i => { i with run := i.run.orElse fun _ => some m }
  else match i.run with
    | some r =>
      if precedes m.since (r.since + filtEighths i) then modNibIn s n fun i => { i with run := none }
      else modNibIn (acceptEdge s n (!i.level) r.stamp) n fun i => { i with run := some m }
    | none => s

/-- R148: a level at the ball has held for 2 ns. -/
def seeDue (s : State) (n : NibIx) : Bool := s.nibs[n].inp.move.any fun m => dueNow s (m.since + 16)

/-- R148: the level in the filter has held for FILT ns, as far as the input stage has seen by now. -/
def runDue (s : State) (n : NibIx) : Bool :=
  s.nibs[n].inp.run.any fun r => dueNow s (r.since + filtEighths s.nibs[n].inp + 16)

/-- R148: the input stage has something to see or to accept. -/
def filterDue (s : State) (n : NibIx) : Bool := seeDue s n || runDue s n

/-- R148: the input stage sees the level at the ball, or accepts the edge in the filter. -/
def filterAccept (s : State) (n : NibIx) : State :=
  let i := s.nibs[n].inp
  match (if seeDue s n then i.move else none), i.run with
  | some m, _ => seeLevel s n m
  | none, some r => acceptEdge s n (!i.level) r.stamp
  | none, none => s

/-- R148. -/
def execGlitchFilterAccept (n : NibIx) (s : State) : Host.Outcome State Fault Refusal :=
  finish (if filterDue s n then filterAccept s n else s)

/-- R165: what the input stage accepts in the present cycle is accepted first. -/
def settleInput (s : State) (n : NibIx) : Nat → State
  | 0 => s
  | fuel + 1 => if filterDue s n then settleInput (filterAccept s n) n fuel else s

/-- R147, R149, R151: the record time of a transition `f` eighths into the present cycle. -/
def transitionTime (s : State) (n : NibIx) (f : Fin 8) : W64 :=
  if s.time.coarse || s.nibs[n].inp.tdcFail then nowTime s else nowTime s + BitVec.ofNat 64 f

/-- R137: the level at a ball. -/
def setBall (s : State) (pin : Nat) (level : Bool) : State :=
  if pin < 272 then { s with balls := (s.balls &&& ~~~(1#272 <<< pin)) ||| (if level then 1#272 <<< pin else 0) } else s

/-- R148: a level held from `m` to `t` is seen: one of 2 ns or more is, one of less than 1 ns is not, and one between
them may be. DEDUCED (log entry 160). -/
def isSeen (m : Held) (t : W64) : Bool :=
  !precedes t (m.since + 16) || (!precedes t (m.since + 8) && Config.seesBrief m.since.toNat)

/-- R147, R148: a transition at the ball of a nib. While the core clock is stopped, the next 32.768 kHz edge samples
the level (R151). -/
def ballMoves (s : State) (n : NibIx) (level : Bool) (t : W64) : State :=
  let s := setBall s s.nibs[n].pin level
  let s := modNibIn s n fun i => { i with ball := level }
  if s.time.coarse then s
  else
    let s := match s.nibs[n].inp.move with
      | some m => if isSeen m t then seeLevel s n m else s
      | none => s
    modNibIn s n fun i => { i with move := if level = i.sync then none else some { stamp := t, since := t } }

/-- R147: the transition is to the level that the nib itself drives. -/
def showsLevel (x : Nib) (level : Bool) : Bool := x.drive == (if level then .high else .low)

/-- R147, R421: a transition at a nib's ball; a nib whose PIN is 511 sees none, and a ball without VIO reads low. -/
def execNibInputTransition (n : NibIx) (level : Bool) (f : Fin 8) (s : State) : Host.Outcome State Fault Refusal :=
  let s := modNib s n fun x => { x with seen := x.seen || showsLevel x level }
  let level := level && pinPowered s s.nibs[n].pin
  finish (if s.nibs[n].pin < 272 ∧ s.nibs[n].inp.ball ≠ level then ballMoves s n level (transitionTime s n f) else s)

/-- R151: the 32.768 kHz clock samples the level at the ball of a nib; the filter is bypassed.
DEDUCED (log entry 162). -/
def coarseSample (s : State) (n : NibIx) : State :=
  let s := modNibIn s n fun i => { i with sync := i.ball, move := none, run := none }
  let i := s.nibs[n].inp
  let new := i.sync != inInv i
  if new = i.level then s else acceptEdge s n new (nowTime s)

/-- R151: the input stages of all nibs at a 32.768 kHz edge. -/
def coarseSamples (s : State) : State :=
  forAll (indices 256) s fun s n =>
    let i := s.nibs[n].inp
    if (i.ball != inInv i) == i.level && i.move.isNone && i.run.isNone then s else coarseSample s n

/-- R151: fine running again: a level that no 32.768 kHz edge has sampled holds from now on. -/
def fineInputs (s : State) : State :=
  let m : Held := { stamp := nowTime s, since := nowTime s }
  { s with nibs := s.nibs.map fun x =>
    if x.inp.ball = x.inp.sync then x else { x with inp := { x.inp with move := some m } } }

/-- R118, R148, R170: TB steps by `d`: what has held, and the last edge placed, keep their distance from now.
DEDUCED (log entry 161). -/
def inputSteps (s : State) (d : W64) : State :=
  let e : W64 := d <<< 3
  let held (m : Held) : Held := { m with since := m.since + e }
  { s with
    nibs := s.nibs.map fun x => { x with
      lastEdge := x.lastEdge.map (· + e), lastPlan := x.lastPlan.map (· + e)
      inp := { x.inp with move := x.inp.move.map held, run := x.inp.run.map held } }
    channels := s.channels.map fun x => { x with pend := x.pend.map fun f => { f with held := held f.held } } }

/-! Windows and gates that end (R157, R158). -/

/-- R158: the open window has reached its closing time. -/
def windowDue (s : State) (w : Window) : Bool :=
  w.live && match w.closes with | some c => dueNow s c | none => false

/-- R158. -/
def execWindowExpiry (n : NibIx) (s : State) : Host.Outcome State Fault Refusal :=
  finish (if s.nibs[n].inp.windows.any (windowDue s) then
      modNibIn s n fun i => { i with
        windows := (i.windows.filter fun w => !windowDone w (nowTime s)).map fun w =>
          if windowDue s w then { w with live := false } else w }
    else s)

/-- R158: every edge before the window's closing time has been judged, and none was admitted. -/
def emptyDue (s : State) (n : NibIx) (w : Window) : Bool :=
  !w.live && !w.admitted && match w.closes with
    | some c => dueNow s (c + BitVec.ofNat 64 (8 * (inFilt s.nibs[n].inp + 24)))
    | none => false

/-- R158: the oldest window that admitted nothing forms its WIN_EMPTY record. -/
def windowEmpty (s : State) (n : NibIx) : State :=
  match (s.nibs[n].inp.windows.reverse.find? (emptyDue s n)).bind (·.closes) with
  | none => s
  | some c =>
    let s := modNibIn s n fun i => { i with
      windows := i.windows.map fun w => if w.closes = some c ∧ !w.live then { w with admitted := true } else w }
    let s := nibRecord s n 7 (nibStamp s n c) 0 c 19
    recordLate false n s.nibs[n].inp.late s

/-- R158. -/
def execWinEmpty (n : NibIx) (s : State) : Host.Outcome State Fault Refusal :=
  finish (if s.nibs[n].inp.windows.any (emptyDue s n) then windowEmpty s n else s)

/-- R157: a gate begins at a tick. -/
def beginGate (i : NibIn) (now : W64) : NibIn :=
  { i with gate := some { left := some (2 ^ fld i.ctrl 27 24), begins := now, count := 0 } }

/-- R157: what a tick does to the frequency gate of a nib; `cut` is a changeover that changes P. -/
def gateTick (i : NibIn) (now : W64) (cut : Bool) : NibIn :=
  match i.gate with
  | none => i
  | some g =>
    match g.left with
    | none => beginGate i now
    | some k =>
      if k ≤ 1 || cut then beginGate { i with freqDue := i.freqDue ++ [(now, g.count)] } now
      else { i with gate := some { g with left := some (k - 1) } }

/-- R157: the gates of every nib at a tick. -/
def gatesTick (s : State) (cut : Bool) : State :=
  if s.nibs.toList.any fun x => x.inp.gate.isSome then
    { s with nibs := s.nibs.map fun x => { x with inp := gateTick x.inp (nowTime s) cut } } else s

/-- R157: 288 ns have passed since the closing tick of a gate. -/
def freqDue (s : State) (n : NibIx) : Bool :=
  match s.nibs[n].inp.freqDue with | (c, _) :: _ => dueNow s (c + 2304) | [] => false

/-- R157: the FREQ record of the oldest gate. -/
def freqRecord (s : State) (n : NibIx) : State :=
  match s.nibs[n].inp.freqDue with
  | (c, count) :: rest => nibRecord (modNibIn s n fun i => { i with freqDue := rest }) n 6 none count c 17
  | [] => s

/-- R157. -/
def execFreqGateEnd (n : NibIx) (s : State) : Host.Outcome State Fault Refusal :=
  finish (if freqDue s n then freqRecord s n else s)

/-- R149: the converter fails calibration. -/
def execTdcFail (n : NibIx) (s : State) : Host.Outcome State Fault Refusal :=
  finish (if s.nibs[n].inp.tdcFail then s
    else
      let s := modNib s n fun x => { x with moveWanted := true, inp := { x.inp with tdcFail := true } }
      raiseFault (raiseNibEvent s n 20) 51 (unitNo s .nib n))

/-! Registers. -/

/-- R147, R156: the stage takes up the conditioned level anew; a measurement in progress is discarded. -/
def retake (i : NibIn) : NibIn :=
  { i with
    sync := i.ball, move := none, level := i.ball != inInv i, run := none
    opening := none, gate := i.gate.map fun _ => {} }

/-- R156, R157, R158, R165: a write of IN_CTRL, after what the stage accepts in its cycle. DEDUCED (log entry 47). -/
def writeInCtrl (s : State) (n : NibIx) (v : Word) : State :=
  let s := settleInput s n 4
  let s := recordLate true n s.nibs[n].inp.late s
  let old := s.nibs[n].inp
  let v := v &&& 0x0FFFFFFF
  let s := modNibIn s n fun i => { i with ctrl := v }
  let i := s.nibs[n].inp
  let s := if inInv old != inInv i then modNibIn s n retake else s
  let s := if inMeas old != inMeas i || inFilt old != inFilt i || inInv old != inInv i then
      modNibIn s n fun i => { i with opening := none, gate := if inMeas i = 5 then some {} else none }
    else s
  if inGate old && !inGate i then closeWindows s n (nowTime s) else s

/-- R137: PIN names a pin, or none. -/
def pinOk (pin : Nat) : Bool := pin < 272 || pin == 511

/-- R137, R147: a nib takes another pin; the input stage takes up its level. -/
def movePin (s : State) (n : NibIx) (pin : Nat) : State :=
  let ball := pin < 272 && tst s.balls pin
  modNib s n fun x => { x with pin := pin, seen := x.drive == .z, inp := retake { x.inp with ball := ball } }

/-- R310: the pin that ROUTE names: the one the nib has, or the one it is about to take. -/
def nextPin (x : Nib) : Nat := (x.pinNext.map (·.2)).getD x.pin

/-- R130, R137: a write of NIBn.ROUTE; PIN changes only while EN is 0. -/
def writeRoute (s : State) (n : NibIx) (v : Word) : State :=
  let x := s.nibs[n]
  let pin := fld v 24 16
  if !pinOk pin || (tst x.ctrl 0 && pin != nextPin x) then s
  else
    let s := modNib s n fun x => { x with slewSlow := tst v 25 }
    if pin = nextPin x then s else movePin (modNib s n fun x => { x with pinNext := none }) n pin

/-- R160: the address of a nib's CAP0. -/
def cap0Addr (n : NibIx) : Nat := 0x80000 + 64 * n.val + 0x30

/-- R160: a read of CAP0 latches the live record, as it stood before a record formed in the same cycle, and clears NEW;
that record stays new. -/
def readCap0 (s : State) (p : Path) (n : NibIx) : Word × State :=
  let i := s.nibs[n].inp
  let r := liveBefore s i
  (word32 r 0, modNibIn (latchRead s p (cap0Addr n) r) n fun i => { i with fresh := formedNow s i && i.fresh })

/-- R142: a word of a nib's registers as it stands. -/
def nibPeek (s : State) (n : NibIx) (off : Nat) : Word :=
  let x := s.nibs[n]
  match off with
  | 0x00 => (x.ctrl &&& 0x1FF) ||| ownerBits x.owner 16 12
  | 0x04 => readNibStatus x
  | 0x08 => x.safe
  | 0x0C => at_ 0 x.cell ||| at_ 16 (nextPin x) ||| bitAt 25 x.slewSlow
  | 0x10 => x.lateWin
  | 0x14 => x.param0
  | 0x18 => x.param1
  | 0x1C => at_ 0 x.late.toNat ||| at_ 16 x.lost.toNat
  | 0x20 => x.evtStatus
  | 0x24 => x.evtEnable
  | 0x28 => x.inp.ctrl
  | 0x2C => bitAt 0 x.inp.fresh ||| bitAt 1 (x.inp.windows.any (·.live)) ||| bitAt 2 x.inp.tdcFail
      ||| at_ 16 x.inp.ovr.toNat
  | 0x30 => word32 x.inp.live 0
  | 0x34 => word32 x.inp.live 1
  | 0x38 => word32 x.inp.live 2
  | 0x3C => word32 x.inp.live 3
  | _ => 0

/-- R142: what a read of CNT clears. -/
def nibReadClear (s : State) (n : NibIx) (off : Nat) : State :=
  match off with
  | 0x1C => modNib s n fun x => { x with late := 0, lost := 0 }
  | 0x30 => modNibIn s n fun i => { i with fresh := formedNow s i && i.fresh }
  | _ => s

/-- R59, R130, R165: a write of CTRL or IN_CTRL by an access path: it leaves no trace where a writer that comes after it
in R59's order has written there in the same cycle. DEDUCED (log entry 166). -/
def nibRanked (s : State) (p : Path) (n : NibIx) (off : Nat) (f : State → State) : State :=
  let x := s.nibs[n]
  let earlier := if x.wroteIn = s.time.tb then x.wrote else []
  if off != 0x00 && off != 0x28 then f s
  else if earlier.any fun w => w.1 == off && ceRank p < w.2 then s
  else f (modNib s n fun x => { x with wroteIn := s.time.tb, wrote := (off, ceRank p) :: earlier })

/-- R142: a write of a nib's register. -/
def nibWrite (s : State) (n : NibIx) (off : Nat) (v : Word) : State :=
  match off with
  | 0x00 => writeNibCtrl s n v
  | 0x04 => modNib s n fun x => { x with suppressed := x.suppressed && !tst v 11 }
  | 0x08 => writeNibSafe s n v
  | 0x0C => writeRoute s n v
  | 0x10 => modNib s n fun x => { x with lateWin := v }
  | 0x14 => modNib s n fun x => if tst x.ctrl 0 then x else { x with param0 := v }
  | 0x18 => modNib s n fun x => { x with param1 := v }
  | 0x20 => modNib s n fun x => { x with evtStatus := w1c x.evtStatus v }
  | 0x24 => modNib s n fun x => { x with evtEnable := v &&& 0x1F01FF }
  | 0x28 => writeInCtrl s n v
  | 0x2C => modNibIn s n fun i => { i with ovr := if fld v 31 16 = 0 then i.ovr else 0 }
  | _ => s

/-- R162, R271: the effective enable of a stream after its own field or a glyph above it changed; a stream that is off
is empty. -/
def streamReview (s : State) (g : StreamIx) : State :=
  let want := tst s.streams[g].ctrl 0 && glyphsOn s .captureStream g
  modStream s g fun x => { x with run := want, fifo := if want then x.fifo else [] }

/-- R162, R168: a write of CSg.CTRL. -/
def writeCsCtrl (s : State) (g : StreamIx) (v : Word) : State :=
  streamReview (modStream s g fun x => { x with ctrl := v &&& 0x03FF0003 }) g

/-- R167, R168: a word of a stream's registers as it stands. -/
def csPeek (s : State) (g : StreamIx) (off : Nat) : Word :=
  let x := s.streams[g]
  match off with
  | 0x0 => x.ctrl
  | 0x4 => at_ 0 x.fifo.length ||| bitAt 16 (watermark x ≤ x.fifo.length) ||| bitAt 17 (512 ≤ x.fifo.length)
  | 0x8 => at_ 0 x.lost.toNat
  | 0xC => x.written
  | _ => 0

end Sys2Proof.Machine
end

