-- ==== Sys2Proof/Machine/UnitEvents.lean ====
section
/-! DEFINITION. The events of units: the event registers of a primitive's block, the header events of a glyph
(R274), and the level inputs that the EIC derives from event bits (R360). -/
namespace Sys2Proof.Machine

/-- R274: EVT_STATUS and EVT_ENABLE of the block of a primitive, where it has them. -/
def blockEvents (s : State) (k : UnitType) (i : Nat) : Word × Word :=
  match k with
  | .quill => let x := s.quills[(Fin.ofNat 16 i : QuillIx)]; (x.evtStatus, x.evtEnable)
  | .inkwell => let x := s.ink.banks[(Fin.ofNat 64 i : InkIx)]; (x.evtStatus, x.evtEnable)
  | .nib => let x := s.nibs[(Fin.ofNat 256 i : NibIx)]; (x.evtStatus, x.evtEnable)
  | .tracker => let x := s.trackers[(Fin.ofNat 16 i : TrackIx)]; (x.evtStatus, x.evtEnable)
  | .feedback => let x := s.channels[(Fin.ofNat 16 i : FbIx)]; (x.evtStatus, x.evtEnable)
  | .comparator => let x := s.comparators[(Fin.ofNat 32 i : AcIx)]; (x.evtStatus, x.evtEnable)
  | .converter => (s.adc.evtStatus, s.adc.evtEnable)
  | _ => (0, 0)

/-- R274: the header events of a unit without BELOW. -/
def ownEvents (s : State) (x : UnitSt) : Word × Word :=
  if x.rec_.kind = .glyph then (bitAt 0 x.applied ||| bitAt 1 x.safeEntered, x.evtEnable)
  else blockEvents s x.rec_.kind x.rec_.resource

/-- An event bit of the unit is raised and enabled. -/
def unitRaised (s : State) (x : UnitSt) : Bool := let e := ownEvents s x; (e.1 &&& e.2) != 0

/-- R274: BELOW of a glyph. DEDUCED (log entry 68). -/
def glyphBelow (s : State) (x : UnitSt) : Bool :=
  x.rec_.kind == .glyph &&
    (subtree s.folio.units x.rec_.unit).any fun y => y.rec_.unit != x.rec_.unit && unitRaised s y

/-- R274: EVENT_STATUS of a unit. -/
def unitEventStatus (s : State) (x : UnitSt) : Word := (ownEvents s x).1 ||| bitAt 2 (glyphBelow s x)

/-- R271, R278: one unit in force changed. -/
def modUnit (s : State) (u : Nat) (f : UnitSt → UnitSt) : State :=
  modFolio s fun k => { k with units := k.units.map fun x => if x.rec_.unit = u then f x else x }

/-- R274, R287: a header event of a glyph goes to its EIC_SRC and to the routes of the folio. -/
def deliverGlyph (s : State) (x : UnitSt) (bit : Nat) : State :=
  if tst x.evtEnable bit then
    pushCause (deliverEvent s .glyph x.rec_.unit bit x.rec_.unit) x.rec_.eicSrc
  else s

/-- R274: a glyph's APPLIED (bit 0) or SAFE_ENTERED (bit 1) is raised. -/
def raiseGlyphEvent (s : State) (u bit : Nat) : State :=
  match findUnit s.folio.units u with
  | some x =>
    if x.rec_.kind = .glyph then
      deliverGlyph (modUnit s u fun y =>
        if bit = 0 then { y with applied := true } else { y with safeEntered := true }) x bit
    else s
  | none => s

/-- R274: BELOW of one glyph is followed; its rise is a header event. -/
def followBelow (s : State) (x : UnitSt) : State :=
  let now := glyphBelow s x
  if now = x.below then s
  else
    let s := modUnit s x.rec_.unit fun y => { y with below := now }
    if now then deliverGlyph s x 2 else s

/-- R274: BELOW of every glyph that delivers it is followed. -/
def followAllBelow (s : State) : State :=
  forAll (s.folio.units.filter fun x => x.rec_.kind == .glyph && tst x.evtEnable 2) s followBelow

/-- R360: the event bits of a source that are 1 and enabled. -/
def eventBits (s : State) (k : SrcKind) (i : Nat) : Word :=
  let both (e : Word × Word) : Word := e.1 &&& e.2
  match k with
  | .nib => both (blockEvents s .nib i)
  | .tracker => both (blockEvents s .tracker i)
  | .feedback => both (blockEvents s .feedback i)
  | .comparator => both (blockEvents s .comparator i)
  | .converter => both (blockEvents s .converter i)
  | .quillBlock => both (blockEvents s .quill i)
  | .counter => let x := s.counters[(Fin.ofNat 512 i : CeIx)]; x.flags &&& (x.ctrl >>> 12) &&& 0xF
  | .stream =>
    let x := s.streams[(Fin.ofNat 8 i : StreamIx)]
    bitAt 0 (tst x.ctrl 1 && watermark x ≤ x.fifo.length)
  | .pps => bitAt 0 (s.time.pps.new && tst s.time.pps.ctrl 10)
  | .glyph => match findUnit s.folio.units i with
    | some x => unitEventStatus s x &&& x.evtEnable
    | none => 0
  | .quillEvent | .reflex => 0

/-- R360: the level that a route brings to its EIC source. -/
def routeLevel (s : State) (r : Route) : Bool :=
  let e := eventBits s r.kind r.index
  match r.bit with
  | some b => tst e b
  | none => e != 0

/-- R359, R360: the level input of a source. DEDUCED (log entry 51). -/
def levelInput (s : State) (x : Nat) : Bool :=
  if x = 1 then s.scribe.rsp.prod != s.scribe.rsp.cons
  else if x = 2 then s.scribe.done
  else if x = 3 then s.scribe.notice
  else if 4 ≤ x ∧ x < 8 then s.blotter.classes.toList.any fun f => f.level == x - 3 && f.unack
  else if 16 ≤ x ∧ x < 48 then tst (s.dma.evtStatus &&& s.dma.evtEnable) (x - 16)
  else if 48 ≤ x ∧ x < 56 then
    let r := s.dma.rings[(Fin.ofNat 8 (x - 48) : RingIx)]
    ringFull r && r.ie
  else
    (s.folio.routes.any fun r => r.dest == .eic x && routeLevel s r)
      || s.folio.units.any fun u => u.rec_.kind == .glyph && u.rec_.eicSrc == x && x != 0
          && (unitEventStatus s u &&& u.evtEnable) != 0

/-- R373: a route or a glyph's EIC_SRC that names an EIC source has gone. -/
def feederGone (before after : FolioSt) (x : Nat) : Bool :=
  (before.routes.any fun r => r.dest == .eic x && !after.routes.contains r)
    || before.units.any fun u => u.rec_.kind == .glyph && u.rec_.eicSrc == x && !after.units.any fun v => v.rec_ == u.rec_

/-- R373: where a changeover takes a route away, the state of its source stands. -/
def settleInputs (before s : State) : State :=
  let gone (x : Nat) : Bool := feederGone before.folio s.folio x && !levelInput s x
  modEic s fun e => { e with
    sources := e.sources.mapIdx fun x y => { y with input := y.input && !gone x } }

end Sys2Proof.Machine
end

