-- ==== Sys2Proof/Machine/EicRegs.lean ====
section
/-! DEFINITION. The EIC against the rest of the device: arrivals of causes and of level inputs (R360, R361), the
messages of MSI-X (R367, R446), its registers (R374 to R377), and what Sleep and Standby keep of it (R372). -/
namespace Sys2Proof.Machine

/-! Arrivals (R360). -/

/-- R360: an arrival of the source is due: a cause of an edge source, or a rise of a level input. -/
def arrivalDue (s : State) (x : SrcIx) : Bool :=
  let y := s.eic.sources[x]
  if srcLevel y then levelInput s x && !y.input else s.eic.causes.contains x

/-- R360: the arrival. -/
def takeArrival (s : State) (x : SrcIx) : State :=
  if srcLevel s.eic.sources[x] then
    arrive (modSource s x fun y => { y with input := true }) x false
  else arrive (modEic s fun e => { e with causes := e.causes.erase x }) x false

/-- R360, R361. -/
def execEicArrival (x : SrcIx) (s : State) : Host.Outcome State Fault Refusal :=
  finish (if eicListens s && arrivalDue s x then takeArrival s x else s)

/-- R361: the input of a level source has fallen. -/
def fallDue (s : State) (x : SrcIx) : Bool :=
  srcLevel s.eic.sources[x] && s.eic.sources[x].input && !levelInput s x

/-- R361. -/
def execLevelInputFall (x : SrcIx) (s : State) : Host.Outcome State Fault Refusal :=
  finish (if eicListens s && fallDue s x then inputFalls s x else s)

/-- R358: 0 and 1023 are no sources. -/
def isSource (x : SrcIx) : Bool := x.val != 0 && x.val != 1023

/-- R369: a write of SRC_CFG. -/
def putSrcCfg (s : State) (x : SrcIx) (v : Word) : State :=
  if isSource x then writeSrcCfg s x v (levelInput s x) else s

/-! Messages (R367, R446). -/

/-- R367: the function as a whole lets messages through. DEDUCED (log entry 69). -/
def messagesOn (s : State) : Bool :=
  s.host.msixEnable && !s.host.functionMask && s.host.bme && s.host.linkUp && !s.host.d3hot

/-- R367: one vector at the end of an ACLK cycle: a message that is due or held is issued if it is allowed, and held
otherwise. -/
def sendVector (s : State) (v : Fin 16) : State :=
  let m := s.eic.vectors[v]
  if !m.due && !m.pendingBit then s
  else if messagesOn s && !m.masked then
    let s := modEic s fun e => { e with
      msiSent := e.msiSent + 1
      vectors := modifyAt e.vectors v fun x => { x with due := false, pendingBit := false } }
    post s (.message v (cat64 m.addrHi m.addrLo) m.data)
  else modEic s fun e => { e with
    vectors := modifyAt e.vectors v fun x => { x with due := false, pendingBit := true } }

/-- R367: the messages of the ACLK cycle, in order of vector. -/
def sendMessages (s : State) : State := forAll (indices 16) s sendVector

/-- R367, R446: the masks and enables that hold messages are lifted, of one vector or of all of them, and what they held
is sent. -/
def execMsixUnmask (v : Option (Fin 16)) (s : State) : Host.Outcome State Fault Refusal :=
  let s := match v with
    | none => modHost s fun h => { h with msixEnable := true, functionMask := false, bme := true }
    | some v => modEic s fun e => { e with vectors := modifyAt e.vectors v fun x => { x with masked := false } }
  finish (sendMessages s)

/-- R446: a doubleword of the MSI-X table. -/
def msixPeek (e : Eic) (off : Nat) : Word :=
  let m := e.vectors[(Fin.ofNat 16 (off / 16) : Fin 16)]
  match off % 16 with
  | 0 => m.addrLo | 4 => m.addrHi | 8 => m.data | _ => bitAt 0 m.masked

/-- One vector of the MSI-X table changed. -/
def modVector (s : State) (v : Fin 16) (f : MsixVector → MsixVector) : State :=
  modEic s fun e => { e with vectors := modifyAt e.vectors v f }

/-- R446: a write to the MSI-X table. -/
def msixWrite (s : State) (off : Nat) (w : Word) : State :=
  let v : Fin 16 := Fin.ofNat 16 (off / 16)
  match off % 16 with
  | 0 => modVector s v fun x => { x with addrLo := w }
  | 4 => modVector s v fun x => { x with addrHi := w }
  | 8 => modVector s v fun x => { x with data := w }
  | _ => modVector s v fun x => { x with masked := tst w 0 }

/-- R446: the pending-bit array. -/
def pbaWord (e : Eic) : Word :=
  (indices 16).foldl (fun m (v : Fin 16) => m ||| bitAt v e.vectors[v].pendingBit) 0

/-! Registers (R374 to R376). -/

/-- How many sources fit, saturating at 255. -/
def countSources (e : Eic) (f : EicSource → Bool) : Nat := min 255 (e.sources.toList.countP f)

/-- R375. -/
def tstatusWord (e : Eic) (k : Nat) : Word :=
  let offers (fast : Bool) : Nat := countSources e fun y => offeredTo y k && srcFast y == fast
  let holds (fast : Bool) : Nat :=
    countSources e fun y => y.phase == .active && y.holder.val == k && y.heldFast == fast
  at_ 0 (offers false) ||| at_ 8 (holds false) ||| at_ 16 (offers true) ||| at_ 24 (holds true)

/-- R374: PEND_SUM. -/
def pendSum (e : Eic) (j : Nat) : Word :=
  (List.range 32).foldl (fun m i =>
    m ||| bitAt i (e.sources[(Fin.ofNat 1024 (32 * j + i) : SrcIx)].phase == .pending)) 0

/-- R376: SRC_STATE. -/
def srcStateWord (y : EicSource) : Word :=
  bitAt 0 (y.phase == .pending) ||| bitAt 1 (y.phase == .active) ||| bitAt 2 (isOffered y) ||| bitAt 3 y.swset
    ||| bitAt 4 y.input ||| bitAt 5 y.fallback.isSome ||| at_ 8 (if y.phase == .active then y.holder.val else 0)
    ||| at_ 16 y.arrivals.toNat

/-- R376: GRPg.STATUS. -/
def groupStatusWord (g : EicGroup) : Word :=
  at_ 0 g.count.toNat ||| bitAt 8 g.timer.isSome ||| at_ 16 g.releases.toNat

/-- The target of an offset of the target registers, and the register. -/
def eicTarget (off : Nat) : Fin 9 := Fin.ofNat 9 ((off - 0x100) / 16)

/-- R358: what a path sees of a claim register. -/
def peekBy (s : State) (p : Path) (k : Fin 9) (fast : Bool) : Word :=
  if k = 8 ∧ p ≠ .scribe then 0 else claimValue s.eic k fast

/-- R374: a word of the EIC as it stands. -/
def eicPeek (s : State) (p : Path) (off : Nat) : Word :=
  let e := s.eic
  match off with
  | 0x00 => bitAt 0 e.lvMode
  | 0x04 => bitAt 0 e.restored ||| bitAt 1 e.lost
  | 0x08 => 0x010903FE
  | 0x0C => e.awake.zeroExtend 32 ||| 0x100
  | 0x10 => e.fallback
  | 0x14 => at_ 0 e.fallbackCount.toNat
  | 0x18 => at_ 0 e.spurious.toNat
  | 0x1C => at_ 0 e.withdrawn.toNat
  | 0x20 => e.irqnCtrl.zeroExtend 32
  | 0x24 => at_ 0 e.restores.toNat
  | 0x28 => e.msiSent
  | 0x2C => at_ 0 e.satCount.toNat
  | off =>
    if 0x100 ≤ off ∧ off < 0x190 then
      match off % 16 with
      | 0 | 8 => peekBy s p (eicTarget off) false
      | 12 => tstatusWord e (eicTarget off)
      | _ => 0
    else if 0x200 ≤ off ∧ off < 0x280 then pendSum e ((off - 0x200) / 4)
    else if 0x400 ≤ off ∧ off < 0x600 then
      let g := e.groups[(Fin.ofNat 64 ((off - 0x400) / 8) : Fin 64)]
      if off % 8 = 0 then g.cfg else groupStatusWord g
    else if 0x1004 ≤ off ∧ off < 0x1FFC then e.sources[(Fin.ofNat 1024 ((off - 0x1000) / 4) : SrcIx)].cfg
    else if 0x2004 ≤ off ∧ off < 0x2FFC then srcStateWord e.sources[(Fin.ofNat 1024 ((off - 0x2000) / 4) : SrcIx)]
    else 0

/-- R363, R374: what a read of the EIC does. -/
def eicReadClear (s : State) (p : Path) (off : Nat) : State :=
  match off with
  | 0x14 => modEic s fun e => { e with fallbackCount := 0 }
  | 0x18 => modEic s fun e => { e with spurious := 0 }
  | 0x1C => modEic s fun e => { e with withdrawn := 0 }
  | 0x2C => modEic s fun e => { e with satCount := 0 }
  | off =>
    if 0x100 ≤ off ∧ off < 0x190 ∧ off % 16 = 0 then (claimBy s p (eicTarget off) false).2 else s

/-- R371, R374: a write of FALLBACK; without EN no fallback timer runs. -/
def writeFallback (s : State) (v : Word) : State :=
  let s := modEic s fun e => { e with fallback := v &&& 0xFFFF0017 }
  if tst v 4 then s
  else modEic s fun e => { e with sources := e.sources.map fun y => { y with timer := none } }

/-- R374: a write to the EIC. -/
def eicWrite (s : State) (p : Path) (off : Nat) (v : Word) : State :=
  match off with
  | 0x00 => modEic s fun e => { e with lvMode := tst v 0 }
  | 0x04 => modEic s fun e => { e with restored := e.restored && !tst v 0, lost := e.lost && !tst v 1 }
  | 0x0C => writeAwake s v
  | 0x10 => writeFallback s v
  | 0x20 => modEic s fun e => { e with irqnCtrl := v.truncate 8 }
  | off =>
    if 0x100 ≤ off ∧ off < 0x190 ∧ off % 16 = 4 then completeBy s p (eicTarget off) false v
    else if 0x400 ≤ off ∧ off < 0x600 ∧ off % 8 = 0 then writeGrpCfg s (Fin.ofNat 64 ((off - 0x400) / 8)) v
    else if 0x1004 ≤ off ∧ off < 0x1FFC then putSrcCfg s (Fin.ofNat 1024 ((off - 0x1000) / 4)) v
    else if 0x2004 ≤ off ∧ off < 0x2FFC ∧ tst v 0 = true then
      arrive s (Fin.ofNat 1024 ((off - 0x2000) / 4)) true
    else s

/-! Retention (R372). -/

/-- R372: what the island keeps of the EIC: timers are not kept. -/
def eicImage (e : Eic) : Eic :=
  { e with
    groups := e.groups.map fun g => { g with timer := none }
    sources := e.sources.map fun y => { y with timer := none }
    causes := [] }

/-- R372: a level source is judged against its present input. -/
def judgeLevel (s : State) (x : SrcIx) : State :=
  let y := s.eic.sources[x]
  if srcLevel y then
    if levelInput s x && !y.input then takeArrival s x
    else if fallDue s x then inputFalls s x else s
  else s

/-- R372: the island's image of the EIC passes its check at a wake. DESIGN CHOICE (log entry 200). -/
def imagePasses (s : State) : Bool := !Config.eicImageFails s.free s.time.tb

/-- R372: what a wake restores of the EIC. What the rule does not name (STATUS, RESTORES, MSI_SENT, the WITHDRAWN flags of
R365 and the vector table, which belongs to the host link) stays as it stands. Each timer whose condition still holds
starts again. An image that fails its check leaves the reset state. DEDUCED (log entry 201). -/
def eicRestore (s : State) (image : Option Eic) : State :=
  match (if imagePasses s then image else none) with
  | none => modEic s fun e => { resetEic with vectors := e.vectors, lost := true }
  | some i =>
    let s := modEic s fun e => { i with
      vectors := e.vectors
      msiSent := e.msiSent
      withdrawnFlags := e.withdrawnFlags
      lost := e.lost
      restored := true
      restores := e.restores + 1
      causes := []
      groups := i.groups.map fun g => { g with timer := if g.count = 0 then none else some 0 } }
    forAll (indices 1024) s judgeLevel

end Sys2Proof.Machine
end

