-- ==== Sys2Proof/Machine/Time.lean ====
section
/-! DEFINITION. The timebase's registers (R36 to R38, R65, R66), the sync link (R44 to R50) and coarse running (R61 to
R64). -/
namespace Sys2Proof.Machine

/-! TRIM (R37). -/

/-- R37: a trim in ppb, brought to its nearer limit. -/
def clampTrim (v : Word) : Word := BitVec.ofInt 32 (max (-200000) (min 200000 v.toInt))

/-- R37: a write of TIME.TRIM. -/
def writeTrim (s : State) (v : Word) : State :=
  modTime s fun t => { t with trim := clampTrim v, trimClamp := t.trimClamp || clampTrim v != v }

/-- R384 TB_TRIM: the duration has passed: the final trim is written. -/
def execTbTrimFinal (s : State) : Host.Outcome State Fault Refusal :=
  finish (match s.time.trimFinal with
    | some (at_, v) => if notAfter at_ s.time.tb then writeTrim (modTime s fun t => { t with trimFinal := none }) v else s
    | none => s)

/-- R38, R39: a read of PPS_STAMP_LO latches the stamp and clears NEW. -/
def readPps (s : State) (p : Path) : Word × State :=
  let t := s.time.pps.stamp
  (lo32 t, modPps (latchRead s p 0x2048 (t.zeroExtend 128)) fun x => { x with new := false })

/-! The sync link (R44 to R50). -/

/-- R66: ROLE; 3 acts as 0. -/
def syncRole (v : Word) : Nat := fld v 1 0 % 3
/-- R44: the device is a follower. -/
def isFollower (s : State) : Bool := syncRole s.time.sync.ctrl == 2
/-- R37, R47: the link steers the clock, or has frozen its steering. -/
def linkSteered (st : SyncState) : Bool := st == .acquire || st == .locked || st == .holdover || st == .relock

/-- R46: one bit of the CRC. -/
def crcBit (c : BitVec 16) (b : Bool) : BitVec 16 :=
  let out := Bool.xor c.msb b
  if out then (c <<< 1) ^^^ 0x1021 else c <<< 1

/-- R46: one byte of the CRC, most significant bit first. -/
def crcByte (c : BitVec 16) (b : Byte) : BitVec 16 :=
  (List.range 8).foldl (fun c i => crcBit c (b.getLsbD (7 - i))) c

/-- R46: the CRC of D0 to D6. -/
def syncCrc (d : BitVec 72) : BitVec 16 := (List.range 7).foldl (fun c i => crcByte c (byteOf d i)) 0xFFFF

/-- R45: a frame of its first seven bytes, with its CRC, high byte first. -/
def syncFrame (body : Nat) : BitVec 72 :=
  let d : BitVec 72 := BitVec.ofNat 72 (body % 2 ^ 56)
  let c := (syncCrc d).toNat
  d ||| BitVec.ofNat 72 ((c / 256) * 2 ^ 56 + (c % 256) * 2 ^ 64)

/-- R45: the fields of a frame. -/
def frameSlot (d : BitVec 72) : Fin 4 := Fin.ofNat 4 (fld d 7 6)
def framePayload (d : BitVec 72) : Word := BitVec.ofNat 32 (fld d 39 8)
def frameLow (d : BitVec 72) : BitVec 16 := BitVec.ofNat 16 (fld d 55 40)
def frameCrc (d : BitVec 72) : Nat := fld d 63 56 * 256 + fld d 71 64

/-- R45: the PAYLOAD of a slot, of TB and the frame number at the tick. -/
def payloadOf (slot : Nat) (tb frame : W64) : Word :=
  match slot with | 0 => lo32 tb | 1 => hi32 tb | 2 => lo32 frame | _ => hi32 frame

/-! R45: the line coding. The 8b/10b table is the published one of Widmer and Franaszek. -/

/-- The six bits `abcdei` of a five-bit value where the running disparity is negative; `a` is the highest bit here.
PRESUMED (log entry 123). -/
def sixBits : List Nat :=
  [0b100111, 0b011101, 0b101101, 0b110001, 0b110101, 0b101001, 0b011001, 0b111000,
   0b111001, 0b100101, 0b010101, 0b110100, 0b001101, 0b101100, 0b011100, 0b010111,
   0b011011, 0b100011, 0b010011, 0b110010, 0b001011, 0b101010, 0b011010, 0b111010,
   0b110011, 0b100110, 0b010110, 0b110110, 0b001110, 0b101110, 0b011110, 0b101011]
/-- The four bits `fghj` of a three-bit value where the running disparity is negative. -/
def fourBits : List Nat := [0b1011, 0b1001, 0b0101, 0b1100, 0b1101, 0b1010, 0b0110, 0b1110]
/-- A group of `n` bits holds as many ones as zeros. -/
def balanced (n v : Nat) : Bool := 2 * ((List.range n).countP fun i => v.testBit i) == n
/-- A group under a running disparity, positive or not: one that is not balanced, and one of the two balanced groups
with two forms, is sent inverted where it is positive. -/
def lineGroup (n v : Nat) (twoForms positive : Bool) : Nat :=
  if positive && (!balanced n v || twoForms) then 2 ^ n - 1 - v else v
/-- The ten bits of a data byte, `a` highest, and the running disparity after it. -/
def lineByte (positive : Bool) (b : Nat) : Nat × Bool :=
  let x := b % 32
  let six := lineGroup 6 (sixBits.getD x 0) (x == 7) positive
  let mid := Bool.xor positive (!balanced 6 six)
  let other := if mid then [11, 13, 14].contains x else [17, 18, 20].contains x
  let four := if b / 32 = 7 && other then (if mid then 0b1000 else 0b0111)
    else lineGroup 4 (fourBits.getD (b / 32) 0) (b / 32 == 3) mid
  (six * 16 + four, Bool.xor mid (!balanced 4 four))
/-- R45: K28.5, which begins a frame. -/
def commaChar (positive : Bool) : Nat × Bool := if positive then (0b1100000101, false) else (0b0011111010, true)
/-- R45: D21.5, which the line carries between frames, whatever the disparity. -/
def idleChar : Nat := (lineByte false 0xB5).1
/-- Ten bits, the first sent in bit 0. -/
def sendOrder (c : Nat) : Nat := (List.range 10).foldl (fun n i => if c.testBit (9 - i) then n + 2 ^ i else n) 0
/-- R45: the 100 bits of a frame, and the running disparity after them. -/
def lineFrame (positive : Bool) (d : BitVec 72) : BitVec 100 × Bool :=
  let step (r : Nat × Bool × Nat) (b : Byte) : Nat × Bool × Nat :=
    let (c, p) := lineByte r.2.1 b.toNat
    (r.1 + sendOrder c * 2 ^ (10 * r.2.2), p, r.2.2 + 1)
  let (k, p) := commaChar positive
  let (bits, after, _) := ((List.range 9).map (byteOf d)).foldl step (sendOrder k, p, 1)
  (BitVec.ofNat 100 bits, after)
/-- R45: the bit on RULE_OUT in the present core cycle; none while the pair is not driven (R44). -/
def ruleOut (s : State) : Option Bool :=
  let y := s.time.sync
  let c := s.time.cycle / 2
  if syncRole y.ctrl = 0 || !tst y.ctrl 2 then none
  else if s.time.cycle < 200 then some (y.line.getLsbD c)
  else some ((sendOrder idleChar).testBit ((c - 100) % 10))

/-- R45, R50: the frame that the device transmits at its tick. -/
def syncSend (s : State) : State :=
  let y := s.time.sync
  let role := syncRole y.ctrl
  if role = 0 || !tst y.ctrl 2 then s
  else
    let slot := s.time.frame.toNat % 4
    let fault := 3 ≤ highestLevel s.blotter || (role == 2 && y.peerFault)
    let hold := y.state == .holdover || y.state == .relock
    let hop := if role = 1 then 0 else y.hop.toNat
    let body := packFields [(4, hop), (1, b2n hold), (1, b2n fault), (2, slot),
      (32, (payloadOf slot s.time.tb s.time.frame).toNat), (16, s.time.frame.toNat)]
    let frame := syncFrame body
    let (bits, after) := lineFrame y.disparity frame
    modSync s fun y => { y with sent := frame, line := bits, disparity := after }

/-- A 64-bit value of the master's whose two halves were sent at ticks numbered `fl` and `fh`, as at tick `fl`, when it
grows by `step` a tick. -/
def joinHalves (lo hi : BitVec 16 × Word) (step : Nat) : Int :=
  let carry : Int := ((lo.2.toNat : Int) + (hi.1 - lo.1).toInt * step) / 2 ^ 32
  ((hi.2.toNat : Int) - carry) * 2 ^ 32 + lo.2.toNat

/-- R47: the master's TB and frame number at the tick numbered `f`. -/
def masterAt (y : SyncSt) (f : BitVec 16) (period : Nat) : Option (W64 × W64) :=
  match y.payload[0], y.payload[1], y.payload[2], y.payload[3] with
  | some p0, some p1, some p2, some p3 =>
    some (BitVec.ofInt 64 (joinHalves p0 p1 period + (f - p0.1).toInt * period),
      BitVec.ofInt 64 (joinHalves p2 p3 1 + (f - p2.1).toInt))
  | _, _, _, _ => none

/-- R47, R50: the frame numbers that the frames carry equal the device's own. -/
def sameFrame (s : State) (f : BitVec 16) : Bool :=
  match masterAt s.time.sync f s.time.period with
  | some (_, n) => n == s.time.frame
  | none => f == s.time.frame.truncate 16

/-- R47, R51: the frame received carries another TB or frame number than the device had at its last tick.
DESIGN CHOICE (log entry 126). -/
def masterDiffers (s : State) (d : BitVec 72) : Bool :=
  frameLow d != s.time.frame.truncate 16
    || framePayload d != payloadOf (frameSlot d) s.time.tickTb s.time.frame

/-- R51: TB of the master at the tick of the last frame is that of the device. -/
def sameTb (s : State) (f : BitVec 16) : Bool :=
  match masterAt s.time.sync f s.time.period with
  | some (tb, _) => tb == s.time.tickTb
  | none => true

/-- R47, R50: the follower enters a state; `step` says that it is to step to its master at the next tick. -/
def syncEnter (s : State) (st : SyncState) (step : Bool) : State :=
  modSync s fun y => { y with state := st, aligned := 0, mistimed := 0, stepDue := step }

/-- R49: entry into HOLDOVER; from ACQUIRE back to SEARCH. From ACQUIRE the last steering stays in
force. DESIGN CHOICE (log entry 124). -/
def syncLost (s : State) : State :=
  let ruling := 2 ≤ s.time.sync.mistimed
  let again (y : SyncSt) : SyncSt := { y with run := 0, slotsSeen := 0, aligned := 0, mistimed := 0, stepDue := false }
  if s.time.sync.state = .acquire then modSync s fun y => { again y with state := .search, expect := none }
  else raiseFault (modSync s fun y => { again y with
    state := .holdover, lost := true, rulingMismatch := y.rulingMismatch || ruling }) 16

/-- R47, R51: the master's TB or frame number has changed. A follower that is not started is to step once it holds
the new values whole; a started one cannot follow. -/
def masterChanged (s : State) (d : BitVec 72) : State :=
  if s.folio.started then syncLost s
  else if s.time.sync.stepDue then s
  else modSync s fun y => { y with
    stepDue := true
    payload := (Vector.replicate 4 none).set (frameSlot d) (some (frameLow d, framePayload d)) }

/-- R47, R50, R51: where a valid frame takes the follower. -/
def syncAdvance (s : State) (d : BitVec 72) (phase : Int) : State :=
  let y := s.time.sync
  let f := frameLow d
  let four := 4 ≤ y.run
  let whole := four && y.slotsSeen == 0xF
  match y.state with
  | .search => if whole then syncEnter s .acquire true else s
  | .holdover =>
    if !s.folio.started then (if whole then syncEnter s .acquire true else s)
    else if !four then s
    else if sameFrame s f && sameTb s f && 2 * phase.natAbs < 8 * s.time.period then syncEnter s .relock false
    else raiseFault (syncEnter s .mismatch false) 17
  | .locked | .relock => if masterDiffers s d then masterChanged s d else s
  | _ => s

/-- R46: the frame is valid. -/
def frameValid (y : SyncSt) (charsOk : Bool) (d : BitVec 72) : Bool :=
  charsOk && (syncCrc d).toNat == frameCrc d && match y.expect with | some e => e == frameLow d | none => true

/-- R49: the frame arrived 16 ns or more away from the follower's own tick spacing. -/
def offSpacing (y : SyncSt) (phase : Int) : Bool :=
  match y.lastPhase with | some p => 128 ≤ (phase - p).natAbs | none => false

/-- R48: the phase error of a frame that arrives `phase` eighths after the device's own tick, over a path of the delay
that SYNC_DELAY gives. DESIGN CHOICE (log entry 127). -/
def phaseError (y : SyncSt) (phase : Int) : Int := phase - y.delay.toNat

/-- R46 to R50: a valid frame. -/
def takeFrame (s : State) (d : BitVec 72) (phase : Int) : State :=
  let was := s.time.sync.peerFault
  let phase := phaseError s.time.sync phase
  let slot := frameSlot d
  let s := modSync s fun y => { y with
    got := true, without := 0, run := y.run + 1
    slotsSeen := y.slotsSeen ||| (1#4 <<< slot.val)
    payload := y.payload.set slot (some (frameLow d, framePayload d))
    expect := some (frameLow d)
    hop := BitVec.ofNat 4 (fld d 3 0 + 1)
    upHoldover := tst d 4, peerFault := tst d 5
    offset := BitVec.ofInt 32 phase
    mistimed := if offSpacing y phase then y.mistimed + 1 else 0
    lastPhase := some phase }
  let s := if !was && tst d 5 then raiseFault s 18 else s
  syncAdvance s d phase

/-- R44 to R50: a frame arrives, `phase` eighths after the device's own tick; on a master it measures the ring. -/
def receiveFrame (s : State) (charsOk : Bool) (d : BitVec 72) (phase : Int) : State :=
  let y := s.time.sync
  match syncRole y.ctrl with
  | 1 => if tst y.ctrl 3 then modSync s fun y => { y with ringDelay := BitVec.ofInt 32 phase } else s
  | 2 => if frameValid y charsOk d then takeFrame s d phase
    else modSync s fun y => { y with crcErr := satAdd y.crcErr 1 }
  | _ => s

/-- R45. DEDUCED (log entry 26). -/
def execSyncFrameReceived (charsOk : Bool) (d : BitVec 72) (phase : Int) (s : State) :
    Host.Outcome State Fault Refusal := finish (receiveFrame s charsOk d phase)

/-- R49: the link is lost. -/
def syncLossDue (s : State) : Bool :=
  let y := s.time.sync
  (y.state == .acquire || y.state == .locked || y.state == .relock) && (3 ≤ y.without || 2 ≤ y.mistimed)

/-- R49. -/
def execSyncHoldoverEntry (s : State) : Host.Outcome State Fault Refusal :=
  finish (if syncLossDue s then syncLost s else s)

/-- R47: 16 consecutive ticks within 2 ns. -/
def syncLockDue (s : State) : Bool :=
  let y := s.time.sync
  (y.state == .acquire || y.state == .relock) && 16 ≤ y.aligned

/-- R47. -/
def execSyncLock (s : State) : Host.Outcome State Fault Refusal :=
  finish (if syncLockDue s then modSync s fun y => { y with state := .locked, aligned := 0 } else s)

/-- R47: entry into SEARCH. -/
def syncSearch (y : SyncSt) : SyncSt :=
  { y with
    state := .search, expect := none, run := 0, slotsSeen := 0, got := false, without := 0, mistimed := 0
    aligned := 0, lastPhase := none, stepDue := false, hop := 0 }

/-- R44, R47: a write of SYNC_CTRL; ROLE is writable only while no folio is started. DEDUCED (log entry 25). -/
def writeSyncCtrl (s : State) (v : Word) : State :=
  let old := s.time.sync.ctrl
  let v := v &&& 0xF
  let v := if s.folio.started then setFld v 1 0 (fld old 1 0) else v
  let s := modSync s fun y => { y with ctrl := v }
  if s.folio.started || (syncRole v == syncRole old && s.time.sync.state != .mismatch) then s
  else modSync s fun y => match syncRole v with
    | 1 => { y with state := .master, hop := 0 }
    | 2 => { syncSearch y with steer := 0 }
    | _ => { y with state := .standalone, hop := 0 }

/-- R46, R47: the follower's counts at its own tick. -/
def syncCount (y : SyncSt) : SyncSt :=
  let without := if y.got then 0 else y.without + 1
  { y with
    expect := if 16 ≤ without then none else y.expect.map (· + 1)
    missed := if y.got then y.missed else satAdd y.missed 1
    without := without
    run := if y.got then y.run else 0
    slotsSeen := if y.got then y.slotsSeen else 0
    aligned := if y.got && y.offset.toInt.natAbs ≤ 16 then y.aligned + 1 else 0
    lastPhase := if y.got then y.lastPhase else none
    got := false }

/-- R37, R47: the steering correction of the ruling that begins. DESIGN CHOICE (log entry 15). -/
def syncSteer (s : State) : State :=
  match s.time.sync.state with
  | .acquire | .locked => drawFree (modSync s fun y => { y with steer := Config.steering s.free })
  | .relock => drawFree (modSync s fun y => { y with steer := clampTrim (Config.steering s.free) })
  | _ => s

/-- R41, R43: the ruling period in force; the halves of TB that the link holds were sent under the old one. -/
def setPeriod (s : State) (p : Nat) : State :=
  let s := if p = s.time.period then s else modSync s fun y => { y with payload := Vector.replicate 4 none }
  modTime s fun t => { t with period := p }

/-- R47: TB and the frame number of the master at this tick, to which a follower that is not started steps. -/
def syncStep (s : State) : Option (W64 × W64) :=
  let y := s.time.sync
  if y.stepDue && !s.folio.started && (y.state == .acquire || y.state == .locked) then
    match y.expect with | some f => masterAt y (f + 1) s.time.period | none => none
  else none

/-- R37, R46, R47: what a tick does to the link, once TB and the frame number are those of the tick. -/
def syncTick (s : State) : State :=
  let s := if isFollower s then syncSteer (modSync s syncCount) else s
  let s := modTime s fun t => { t with
    trimApplied := if syncRole t.sync.ctrl = 2 then t.sync.steer else t.trim }
  syncSend s

/-! Coarse running (R61 to R64). -/

/-- R62: ns that the `i`-th edge of a coarse interval adds to TB. -/
def coarseNs (i : Nat) : Nat := if i * 37 / 64 < (i + 1) * 37 / 64 then 30518 else 30517

/-- R62: ACLK-equivalent counts that the `i`-th edge adds. -/
def coarseCounts (i : Nat) : Nat := if i * 101 / 128 < (i + 1) * 101 / 128 then 15259 else 15258

/-- R401, R403, R366, R371: a number of ns of TB passes for every timer that counts them. -/
def passTime (s : State) (ns : Nat) : State :=
  { s with blotter := takeAcks (blotterTime s.blotter ns) s.time.tb, eic := eicTime s.eic ns }

/-- R62, R63, R196: one 32.768 kHz edge of a coarse interval. -/
def coarseEdge (s : State) : State :=
  let i := s.time.coarseStep
  let ns := coarseNs i
  let s := modTime s fun t => { t with coarse := true, coarseStep := i + 1, tb := t.tb + BitVec.ofNat 64 ns }
  let s := { s with comparators := s.comparators.map fun x =>
    if x.run && acSampled x then { x with coarseEdges := x.coarseEdges + 1 } else x }
  coarseSamples (ceEdge (passTime s ns) (coarseCounts i))

/-- R61, R62: a 32.768 kHz edge while the core clock is stopped. -/
def execCoarseStep (s : State) : Host.Outcome State Fault Refusal :=
  finish (if s.time.stopped && s.power.lfOk then coarseEdge s else s)

/-- R33: core cycles to the next ACLK edge, which was `wait` cycles away, once TB reads `tb` by some means other than
counting: one more where the edge would fall on odd TB. -/
def aclkAfter (tb : W64) (wait : Nat) : Nat := if (tb.toNat + wait) % 2 = 0 then wait else wait + 1

/-- R64: fine counting resumes. -/
def fineAgain (s : State) : State :=
  fineInputs <| modTime s fun t => { t with
    stopped := false, resume := false, coarse := false, coarseStep := 0, aclkWait := aclkAfter t.tb 2 }

/-! The registers (R65, R66). -/

/-- R66: TIME.STATUS. -/
def readTimeStatus (t : TimeSt) : Word :=
  bitAt 0 t.coarse ||| bitAt 1 t.rulings ||| bitAt 2 t.trimClamp ||| bitAt 3 (linkSteered t.sync.state)

/-- R66: TIME.SYNC_STATUS. -/
def readSyncStatus (y : SyncSt) : Word :=
  at_ 0 y.state.code ||| bitAt 3 y.peerFault ||| bitAt 4 y.upHoldover ||| at_ 8 y.hop.toNat ||| bitAt 16 y.lost
    ||| bitAt 17 y.rulingMismatch

/-- R65: a word of the TIME block as it stands. -/
def timePeek (s : State) (off : Nat) : Word :=
  let t := s.time
  match off with
  | 0x00 | 0x10 => lo32 t.tb
  | 0x04 | 0x14 => hi32 t.tb
  | 0x08 | 0x18 => lo32 t.frame
  | 0x0C | 0x1C => hi32 t.frame
  | 0x20 => lo32 t.tickTb
  | 0x24 => hi32 t.tickTb
  | 0x28 => BitVec.ofNat 32 t.period
  | 0x2C => BitVec.ofNat 32 (t.period - 96)
  | 0x30 => readTimeStatus t
  | 0x34 => t.trim
  | 0x38 => t.trimApplied
  | 0x40 => t.pps.ctrl
  | 0x44 => bitAt 0 t.pps.new ||| bitAt 1 t.pps.coarse ||| at_ 16 t.pps.seq.toNat
  | 0x48 => lo32 t.pps.stamp
  | 0x4C => hi32 t.pps.stamp
  | 0x50 => at_ 0 t.pps.ovr.toNat
  | 0x60 => t.sync.ctrl
  | 0x64 => readSyncStatus t.sync
  | 0x68 => t.sync.delay
  | 0x6C => t.sync.offset
  | 0x70 => t.sync.ringDelay
  | 0x74 => at_ 0 t.sync.crcErr.toNat
  | 0x78 => at_ 0 t.sync.missed.toNat
  | _ => 0

/-- R65: what a read of the TIME block clears. -/
def timeReadClear (s : State) (off : Nat) : State :=
  match off with
  | 0x48 => modPps s fun p => { p with new := false }
  | 0x50 => modPps s fun p => { p with ovr := 0 }
  | 0x74 => modSync s fun y => { y with crcErr := 0 }
  | 0x78 => modSync s fun y => { y with missed := 0 }
  | _ => s

/-- R65: a write of a register of the TIME block. -/
def timeWrite (s : State) (off : Nat) (v : Word) : State :=
  match off with
  | 0x30 => modTime s fun t => { t with trimClamp := t.trimClamp && !tst v 2 }
  | 0x34 => writeTrim s v
  | 0x40 => modPps s fun p => { p with ctrl := v &&& 0x7FF }
  | 0x60 => writeSyncCtrl s v
  | 0x64 => modSync s fun y => { y with lost := y.lost && !tst v 16, rulingMismatch := y.rulingMismatch && !tst v 17 }
  | 0x68 => modSync s fun y => { y with delay := v &&& 0xFFFF }
  | _ => s

end Sys2Proof.Machine
end

