-- ==== Sys2Proof/Machine/Power.lean ====
section
/-! DEFINITION. Power, clocks and reset (chapter 17): what holds the device in reset, the start from cold and from
Standby (R426 to R429), Sleep and Standby with their wakes (R433 to R437), the supplies (R421, R425), the clocks
(R424, R64), the PCIe link (R428, R448, R451) and the keepsake (R438). -/
namespace Sys2Proof.Machine

/-! The logical maps (R315, R430). -/

/-- The numbers below `n` that a mask does not retire. -/
def healthy (n : Nat) {w : Nat} (retired : BitVec w) : List Nat := (List.range n).filter fun i => !tst retired i

/-- R430: physical quills retired so far. -/
def retiredQuills (k : PoolSt) : BitVec 20 :=
  (indices 20).foldl (fun m (p : PhysIx) => if k.roles[p] = .retired then m ||| (1#20 <<< p.val) else m) 0

/-- R430: the role of a physical quill at a start: the n-th healthy one is Qn, the rest are spares. -/
def startRole (retired : BitVec 20) (p : PhysIx) : PhysRole :=
  if tst retired p then .retired
  else
    let n := ((healthy 20 retired).filter (· < p.val)).length
    if h : n < 16 then .logical ⟨n, h⟩ else .standby

/-- R315, R331: the inkwells after a start: the ledger and the failures found again stand. -/
def coldInk (k : InkSt) : InkSt :=
  let banks := healthy 68 k.retired
  let named := k.ledger.filter (·.kind == 2)
  let again := (68 - banks.length) - named.length
  { resetInk with
    banks := Vector.ofFn fun (b : InkIx) => { phys := banks[b.val]? }
    retired := k.retired
    ledger := k.ledger
    ledgerFullRaised := false
    volatileCount := BitVec.ofNat 8 (min 255 again)
    coldTested := 68 - named.length
    coldRetired := again }

/-- R430: the pools after a start. -/
def coldPool (k : PoolSt) : PoolSt :=
  let ces := healthy 544 k.retiredCes
  { resetPool with
    roles := Vector.ofFn (startRole (retiredQuills k))
    retiredCells := k.retiredCells
    ceMap := Vector.ofFn fun (e : CeIx) => Fin.ofNat 544 (ces.getD e.val e.val)
    retiredCes := k.retiredCes
    retiredConverters := k.retiredConverters
    pllB := tst k.retiredPlls 0
    pllLock := 0
    retiredPlls := k.retiredPlls
    refOk := k.refOk }

/-- R430: the physical quill of Qq after a start. -/
def coldPhys (k : PoolSt) (q : QuillIx) : PhysIx := Fin.ofNat 20 ((healthy 20 (retiredQuills k)).getD q.val q.val)

/-- R137, R430: NIBn after a start; a nib with no healthy cell shows cell 511. -/
def coldNib (s : State) (n : NibIx) : Nib :=
  let x := resetNib n ((healthy 272 s.pool.retiredCells).getD n.val 511)
  { x with inp := retake { x.inp with ball := tst s.balls n && pinPowered s n } }

/-- R427, R429: everything outside the island and the OTP as a release from reset leaves it. -/
def coldState (s : State) : State :=
  { State.reset with
    pending := s.pending
    time := { resetTime s.time.tb with
      rulings := false, stopped := true, coarse := s.time.coarse, coarseStep := s.time.coarseStep }
    quills := Vector.ofFn fun (q : QuillIx) => resetQuill (coldPhys s.pool q)
    nibs := Vector.ofFn (coldNib s)
    balls := s.balls
    adc := { resetAdc 0 with
      began := none, run := false
      spareActive := tst s.pool.retiredConverters 0
      spareGone := s.pool.retiredConverters != 0 }
    ink := coldInk s.ink
    pool := coldPool s.pool
    scribe := { State.reset.scribe with ready := false, keyHash := s.scribe.keyHash }
    power := { s.power with
      mode := .reset, thermLimit := thermReset s.power, thermOver := false, stage := 0, error := 0, readyMs := 0, keepIndex := 0
      autoInc := false, calibrating := 0, wakeSeen := 0, wokenAt := none, standbyStart := false }
    host := { perst := s.host.perst, dhalt := false, scan := s.host.scan, jtagSel := s.host.jtagSel }
    posted := s.posted
    readPcie := s.readPcie
    readSp := s.readSp
    readScribe := s.readScribe
    readBytes := s.readBytes
    free := s.free }

/-- R331, R413, R429: a resource that fails its test at a start is retired, with the cause of its kind in the ledger: 1 a
physical quill, 2 a bank, 3 a nib cell, 4 a counter element, 5 a converter (R385). DEDUCED (log entry 185). -/
def coldFail (s : State) (x : Nat × Nat) : State :=
  let (kind, i) := x
  if kind = 1 ∧ i < 20 ∧ s.pool.roles[(Fin.ofNat 20 i : PhysIx)] ≠ .retired then
    addLedger (modPool s fun k => { k with roles := k.roles.set (Fin.ofNat 20 i) .retired }) 1 i 4 0
  else if kind = 2 ∧ i < 68 ∧ !tst s.ink.retired i then
    addLedger (modInk s fun k => { k with
      retired := k.retired ||| (1#68 <<< i), coldRetired := k.coldRetired + 1 }) 2 i 4 0
  else if kind = 3 ∧ i < 272 ∧ !tst s.pool.retiredCells i then
    addLedger (modPool s fun k => { k with retiredCells := setBit k.retiredCells i true }) 3 i 5 0
  else if kind = 4 ∧ i < 544 ∧ !tst s.pool.retiredCes i then
    addLedger (modPool s fun k => { k with retiredCes := setBit k.retiredCes i true }) 4 i 5 0
  else if kind = 5 ∧ i < 2 ∧ !tst s.pool.retiredConverters i then
    addLedger (modPool s fun k => { k with retiredConverters := setBit k.retiredConverters i true }) 5 i 5 0
  else s

/-- R315, R430: the logical maps are formed from what remains. -/
def formMaps (s : State) : State :=
  let k := s.ink
  { s with
    quills := Vector.ofFn fun (q : QuillIx) => resetQuill (coldPhys s.pool q)
    nibs := Vector.ofFn (coldNib s)
    adc := { s.adc with
      spareActive := tst s.pool.retiredConverters 0
      spareGone := s.pool.retiredConverters != 0 }
    ink := { coldInk k with
      ledgerFullRaised := k.ledgerFullRaised, evtStatus := k.evtStatus
      coldTested := k.coldTested, coldRetired := k.coldRetired }
    pool := { coldPool s.pool with pllB := s.pool.pllB, pllLock := s.pool.pllLock } }

/-- R429: the failures that the tests of a stage have found: banks in stage 5, everything else in stage 4. -/
def stageFailures (s : State) (failed : List (Nat × Nat)) : State :=
  let found := failed.filter fun x => s.power.stage == (if x.1 = 2 then 5 else 4)
  if found.isEmpty then s else formMaps (forAll found s coldFail)

/-! Reset (R426, R427). -/

/-- R426: the device is held in reset for one more cause. -/
def holdReset (s : State) (cause : BitVec 4) : State :=
  let s := coldState s
  modPower s fun p => { p with cause := p.cause ||| cause }

/-- R438: the keepsake at a start: one whose CRC fails reads zero. DESIGN CHOICE (log entry 197). -/
def checkKeepsake (s : State) : State :=
  if !s.power.island.keepValid then s
  else
    let fails := Config.keepsakeFails s.free
    modPower (drawFree s) fun p => { p with island := { p.island with
      keep := if fails then Vector.replicate 64 0 else p.island.keep, keepValid := !fails } }

/-- R427, R429, R437: nothing holds the device any more: the start begins. -/
def beginStart (s : State) : State :=
  let p := s.power
  if p.porst || p.brown || p.hot then s
  else
    let s := checkKeepsake s
    let standby := p.island.standbyFlag
    let tb : W64 := if standby then s.time.tb else 0
    let s := modTime s fun t => { t with tb := tb, stopped := standby, aclkWait := aclkAfter tb 2 }
    modPower s fun p => { p with
      mode := .boot
      stage := 1
      releaseTb := tb
      standbyStart := standby
      pwren := true, pwrenMin := false, wakeWaits := false
      resetCause := at_ 0 p.cause.toNat ||| bitAt 0 p.island.vbatPor ||| bitAt 4 standby ||| bitAt 5 p.island.lfLost
      cause := 0
      island := { p.island with standbyFlag := false, vbatPor := false, lfLost := false } }

/-- R443: PORST_N ends a Standby that no wake source has ended. -/
def porstWakes (s : State) : State :=
  if s.power.island.standbyFlag && !s.power.pwren then
    modPower s fun p => { p with wakeCause := 0x20, pwren := true }
  else s

/-- R426: PORST_N is low for 10 µs. -/
def execPorstNAssert (s : State) : Host.Outcome State Fault Refusal :=
  finish (if s.power.porst then s
    else holdReset (modPower (porstWakes s) fun p => { p with porst := true }) 2)

/-- R427: PORST_N is released. In Standby, where the board's supplies were off, it has been low. -/
def execPorstNRelease (s : State) : Host.Outcome State Fault Refusal :=
  finish (
    if s.power.mode = .standby then beginStart (holdReset (porstWakes s) 2)
    else if s.power.porst then
      let s := modPower s fun p => { p with porst := false }
      if s.power.mode = .reset then beginStart s else s
    else s)

/-- R422: VDD_CORE or VDDA leaves its range; in Standby the supplies may be off. DESIGN CHOICE (log entry 122). -/
def execBrownOut (s : State) : Host.Outcome State Fault Refusal :=
  finish (if s.power.mode = .standby || s.power.brown then s
    else holdReset (modPower s fun p => { p with brown := true }) 4)

/-- R427: the brown-out ends. -/
def execBrownOutEnd (s : State) : Host.Outcome State Fault Refusal :=
  finish (if s.power.brown then beginStart (modPower s fun p => { p with brown := false }) else s)

/-- R442: the junction reaches 130 °C. -/
def execThermalTrip (s : State) : Host.Outcome State Fault Refusal :=
  finish (if s.power.mode = .standby || s.power.hot then s
    else holdReset (modPower s fun p => { p with hot := true, trips := satAdd p.trips 1 }) 8)

/-- R442: the junction is below 115 °C again. -/
def execThermalTripEnd (s : State) : Host.Outcome State Fault Refusal :=
  finish (if s.power.hot then beginStart (modPower s fun p => { p with hot := false }) else s)

/-- R426, R437: the island's supply first reaches its range: its contents are cleared. DEDUCED (log entry 105). -/
def execIslandPowerOn (s : State) : Host.Outcome State Fault Refusal :=
  finish (
    if s.power.mode = .reset || s.power.mode = .standby then
      let s := coldState s
      let s := modTime s fun t => { t with tb := 0 }
      modPower s fun p => { p with
        trips := 0, lpcmp := 0, resetCause := 0, wakeCause := 0, cause := 0
        pwren := true, pwrenMin := false, wakeWaits := false, lpBeyond := false
        porst := p.porst || p.mode == .standby || (!p.brown && !p.hot)
        island := { keep := Vector.replicate 64 0, vbatPor := true } }
    else s)

/-! The stages of a start (R429). -/

/-- R429: the error code of a stage. DESIGN CHOICE (log entry 19). -/
def bootErrorCode (s : State) : Byte :=
  match s.power.stage.toNat with
  | 1 => if s.pool.refOk then 2 else 1
  | 2 => 3
  | 3 => 4
  | 4 => 6
  | _ => Config.bootError s.power.stage

/-- R424, R429, R64: the PLLs have locked, but for those retired and those that a mask names: A is active if it locks,
and TB counts fine. -/
def pllsLock (s : State) (unlocked : BitVec 2) : State :=
  let s := modPool s fun k =>
    { k with pllLock := ~~~(k.retiredPlls ||| unlocked), pllB := tst (k.retiredPlls ||| unlocked) 0 }
  fineAgain s

/-- R424: the PLLs that stage 1 reports as not locking, by their kind of R385. DEDUCED (log entry 198). -/
def unlockedPlls (failed : List (Nat × Nat)) : BitVec 2 :=
  failed.foldl (fun m x => if x.1 = 6 then m ||| (1#2 <<< x.2) else m) 0

/-- R429: what a stage that passed leaves impossible: no PLL in lock after stage 1, no healthy converter after stage 4. -/
def stageError (s : State) : Option Byte :=
  if s.power.stage = 1 ∧ s.pool.pllLock = 0 then some 2
  else if s.power.stage = 4 ∧ s.pool.retiredConverters = 3 then some 6
  else none

/-- R129, R443: a SAFE_N that is low is taken. -/
def takeSafePin (s : State) : State := if s.power.safePin && !s.safeLow then safeNFalls s else s

/-- R41, R427, R429: READY. -/
def becomeReady (s : State) : State :=
  let ms := (s.time.tb - s.power.releaseTb).toNat / 1000000
  let standby := s.power.standbyStart
  let frame : W64 := if standby then s.power.island.frame + 1 else 0
  let s := modPower s fun p => { p with mode := .up, stage := 7, readyMs := BitVec.ofNat 16 ms, standbyStart := false }
  let s := modTime s fun t => { t with rulings := true, cycle := t.period, nextFrame := frame, frame := frame - b2n standby }
  let s := modScribe s fun c => { c with ready := true }
  let s := adcReview s
  let s := if standby then eicRestore s s.power.island.eic else s
  takeSafePin (modPower s fun p => { p with island := { p.island with eic := none } })

/-- R429: the stage in progress ends, or fails and stops the start. -/
def stageDone (s : State) (ok : Bool) (failed : List (Nat × Nat)) : State :=
  if s.power.mode != .boot || s.power.error != 0 then s
  else if !ok then modPower s fun p => { p with error := bootErrorCode s }
  else
    let s := stageFailures (if s.power.stage = 1 then pllsLock s (unlockedPlls failed) else s) failed
    match stageError s with
    | some e => modPower s fun p => { p with error := e }
    | none =>
      if 6 ≤ s.power.stage.toNat then becomeReady s
      else modPower s fun p => { p with stage := p.stage + 1 }

/-- R429: the report of a stage: none where it fails, or the failures that it found. -/
def execBootStageDone (report : Option (List (Nat × Nat))) (s : State) : Host.Outcome State Fault Refusal :=
  finish (stageDone s report.isSome (report.getD []))

/-! Sleep, Standby and the wakes (R434 to R436, R439). -/

/-- R388, R404: the scribe begins to restart; the command in progress is kept in its journal. -/
def beginRestart (s : State) : State :=
  modScribe s fun c => { c with restarting := true }

/-- R434: entry into Sleep, at the tick that does not come. DESIGN CHOICE (log entry 125). -/
def enterSleep (s : State) : State :=
  let s := modPower s fun p => { p with
    mode := .sleep, wakeSeen := 0
    island := { p.island with eic := some (eicImage s.eic), wakeSel := s.scribe.wakeSel } }
  let s := modEic s fun e => { e with causes := [] }
  let s := modTime s fun t => { t with rulings := false, stopped := true, resume := false, coarseStep := 0 }
  let s := modPool s fun k => { k with pllLock := 0 }
  let s := modHost s fun h => { h with l1 := h.linkUp && Config.aspmL1 }
  modScribe s fun c => { c with entry := none, patch := 0, patchDigest := 0 }

/-- R435: entry into Standby: everything outside the island is held in reset. -/
def enterStandby (s : State) : State :=
  let image := eicImage s.eic
  let sel := s.scribe.wakeSel
  let frame := s.time.frame
  let s := coldState (modTime s fun t => { t with coarse := false, coarseStep := 0 })
  modPower s fun p => { p with
    mode := .standby, pwren := false, pwrenMin := false, wakeWaits := false, lpBeyond := false
    island := { p.island with standbyFlag := true, frame := frame, eic := some image, wakeSel := sel } }

/-- R434, R436: a wake from Sleep for the cause given, and for those seen, as WAKE_CAUSE shows them.
DEDUCED (log entry 104). -/
def wakeSleep (s : State) (cause : Word) : State :=
  let s := modPower s fun p => { p with
    mode := .up, wakeCause := cause ||| at_ 0 (p.wakeSeen &&& p.island.wakeSel).toNat, wakeSeen := 0
    wokenAt := some s.time.tb, calibrating := BitVec.allOnes 256 }
  let s := modTime s fun t => { t with resume := true }
  let s := modHost s fun h => { h with l1 := false }
  let s := beginRestart s
  let s := eicRestore s s.power.island.eic
  takeSafePin (modPower s fun p => { p with island := { p.island with eic := none } })

/-- R435: a wake from Standby: PWREN goes high once it has been low for 1 ms. -/
def wakeStandby (s : State) (cause : Word) : State :=
  modPower s fun p => { p with
    wakeCause := cause
    wokenAt := some s.time.tb
    pwren := p.pwrenMin
    wakeWaits := !p.pwrenMin }

/-- R436: wake sources seen in Sleep that are selected. -/
def wakeDue (s : State) : Bool := s.power.mode == .sleep && (s.power.wakeSeen &&& s.power.island.wakeSel) != 0

/-- R436, R443: WAKE, where it is selected, ends Sleep or Standby, together with what else has been seen in Sleep. -/
def execWake (s : State) : Host.Outcome State Fault Refusal :=
  let sel := s.power.island.wakeSel
  finish (
    if !tst sel 0 then s
    else match s.power.mode with
      | .sleep => wakeSleep s 1
      | .standby => if s.power.pwren || s.power.wakeWaits then noteWake s 0 else wakeStandby s 1
      | _ => noteWake s 0)

/-- R439: the input lies beyond the threshold of the low-power comparator; the threshold may lie up to 30 mV off.
DESIGN CHOICE (log entry 20). -/
def lpcmpBeyond (lpcmp : Byte) (uv : Int) : Bool :=
  let thr : Int := (fld lpcmp 5 0 : Int) * 28125 + max (-30000) (min 30000 Config.lpcmpOffset)
  if tst lpcmp 6 then uv < thr else thr < uv

/-- R439: one sample; two consecutive ones beyond the threshold wake the device. -/
def lpcmpSample (s : State) (uv : Int) : State :=
  let p := s.power
  if p.mode != .standby || !tst p.lpcmp 7 then s
  else
    let now := lpcmpBeyond p.lpcmp uv
    let was := p.lpBeyond
    let s := modPower s fun p => { p with lpBeyond := now }
    if !(now && was && tst p.island.wakeSel 1) then s
    else if p.pwren || p.wakeWaits then noteWake s 1
    else wakeStandby s 2

/-- R439. -/
def execLpcmpWake (uv : Int) (s : State) : Host.Outcome State Fault Refusal := finish (lpcmpSample s uv)

/-- R435, R443: PWREN has been low for 1 ms. -/
def execPwrenLowTimeEnd (s : State) : Host.Outcome State Fault Refusal :=
  finish (if s.power.mode = .standby && !s.power.pwren then
      modPower s fun p => { p with pwrenMin := true, pwren := p.wakeWaits, wakeWaits := false }
    else s)

/-! Supplies and clocks (R421, R424, R425, R64). -/

/-- R421. -/
def execVbatOkChange (ok : Bool) (s : State) : Host.Outcome State Fault Refusal :=
  finish (modPower s fun p => { p with vbatOk := ok })

/-- R421: a pin lies in a bank. -/
def inVioBank (bank pin : Nat) : Bool :=
  pin < 272 && (if pin < 256 then pin / 32 == bank else (pin - 256) / 2 == bank)

/-- R421: a bank's inputs read low without VIO. -/
def vioFalls (s : State) (bank : Nat) : State :=
  let inBank := inVioBank bank
  let s := forAll (List.range 272) s fun s pin => if inBank pin then setBall s pin false else s
  forAll (indices 256) s fun s n =>
    if inBank s.nibs[n].pin && s.nibs[n].inp.ball then ballMoves s n false (nowTime s) else s

/-- R421, R147: a bank has VIO again; the levels that its nibs drive show at their balls. -/
def vioRises (s : State) (bank : Nat) : State :=
  { s with nibs := s.nibs.map fun x => if inVioBank bank x.pin then { x with seen := x.drive == .z } else x }

/-- R421. -/
def execVioChange (bank : Nat) (up : Bool) (s : State) : Host.Outcome State Fault Refusal :=
  finish (if bank < 8 then
      let was := tst s.power.vio bank
      let s := modPower s fun p => { p with vio := setBit p.vio bank up }
      if was && !up then vioFalls s bank else if !was && up then vioRises s bank else s
    else s)

/-- R425: the 32.768 kHz oscillator starts or stops; a stop in Sleep or Standby is reported at the next start. -/
def execLfOkChange (ok : Bool) (s : State) : Host.Outcome State Fault Refusal :=
  let down := s.power.mode == .sleep || s.power.mode == .standby
  finish (modPower s fun p => { p with
    lfOk := ok, island := { p.island with lfLost := p.island.lfLost || (!ok && down) } })

/-- R424: the reference is lost: both PLLs count as out of lock. -/
def execReferenceLost (s : State) : Host.Outcome State Fault Refusal :=
  finish (if s.pool.refOk then
      let s := modPool s fun k => { k with refOk := false, pllLock := 0 }
      if s.power.mode = .up then raiseFault s 2 else s
    else s)

/-- R424: the reference returns, and both PLLs lock again. -/
def execReferenceReturn (s : State) : Host.Outcome State Fault Refusal :=
  finish (modPool s fun k => { k with
    refOk := true
    pllLock := if (s.power.mode = .up && !s.time.stopped) || (s.power.mode = .boot && s.power.stage != 1) then
      ~~~k.retiredPlls else k.pllLock })

/-- R64, R434: the PLL has locked: fine counting resumes, and the rulings with it. -/
def execFineResume (s : State) : Host.Outcome State Fault Refusal :=
  finish (if s.time.stopped && s.time.resume && s.power.mode == .up && !s.host.dhalt then
      modTime (pllsLock s 0) fun t => { t with rulings := true }
    else s)

/-- R442: the sensor passes THERM.LIMIT, or falls 5 °C below it. -/
def execThermalLimit (above : Bool) (s : State) : Host.Outcome State Fault Refusal :=
  let was := s.power.thermOver
  let s := modPower s fun p => { p with thermOver := above }
  finish (if above && !was then raiseFault s 3 else s)

/-- R134, R434: a calibration completes: the verniers of the nib swap, and START no longer waits for it. -/
def execVernierCalibration (n : NibIx) (s : State) : Host.Outcome State Fault Refusal :=
  finish (modPower (vernierSwap s n) fun p => { p with calibrating := p.calibrating &&& ~~~(1#256 <<< n.val) })

/-! The PCIe link (R428, R448, R451, R349). -/

/-- R349, R393, R395: the link goes down. -/
def linkDown (s : State) : State :=
  if s.host.linkUp then
    let s := modHost s fun h => { h with
      linkUp := false, width := 0, speed := 0, degraded := false, l1 := false, downs := satAdd h.downs 1
      bar4 := h.bar4.filter fun j => j.path != .pcie || j.data.isSome }
    raiseFault (haltAll s 6) 10
  else s

/-- R393. -/
def execPcieLinkDown (s : State) : Host.Outcome State Fault Refusal := finish (linkDown s)

/-- R428: PERST_N low resets the link, the configuration space and the MSI-X table. -/
def execPerstN (low : Bool) (s : State) : Host.Outcome State Fault Refusal :=
  if low then
    let s := linkDown s
    let s := modHost s fun h => { h with
      perst := true, payload := 0, request := 2, bme := false, msixEnable := false, functionMask := false, d3hot := false }
    finish (modEic s fun e => { e with vectors := Vector.replicate 16 {} })
  else finish (modHost s fun h => { h with perst := false })

/-- R448, R339: the link trains, at a width and a speed, with the codes of the payload and request sizes.
DESIGN CHOICE (log entry 21). -/
def execLinkTraining (link sizes : Fin 8 × Fin 8) (s : State) : Host.Outcome State Fault Refusal :=
  let (width, speed) := link
  let (payload, request) := sizes
  let awake := s.power.mode == .up || s.power.mode == .boot
  finish (if awake && !s.host.perst && [1, 2, 4].contains width.val && 1 ≤ speed.val && speed.val ≤ 3
      && payload.val ≤ 5 && request.val ≤ 5 then
      sendMessages (modHost s fun h => { h with
        linkUp := true
        width := BitVec.ofNat 3 width.val
        speed := BitVec.ofNat 2 speed.val
        payload := BitVec.ofNat 3 payload.val
        request := BitVec.ofNat 3 request.val
        degraded := width.val < Config.boardWidth
        reversed := Config.lanesReversed })
    else s)

/-- R451: the function enters D3hot. -/
def execD3hotEntry (s : State) : Host.Outcome State Fault Refusal :=
  finish (haltAll (modHost s fun h => { h with d3hot := true }) 5)

/-- R451: the function returns to D0. -/
def execD0Entry (s : State) : Host.Outcome State Fault Refusal :=
  finish (sendMessages (modHost s fun h => { h with d3hot := false }))

/-! The keepsake (R438, R445). -/

/-- R438: the selected word of the keepsake. -/
def keepWord (s : State) : Word := s.power.island.keep[(Fin.ofNat 64 s.power.keepIndex.toNat : Fin 64)]

/-- R445: an access to KEEP_DATA moves the index. -/
def keepAdvance (s : State) : State :=
  modPower s fun p => if p.autoInc then { p with keepIndex := p.keepIndex + 1 } else p

/-- R438, R445: a write of KEEP_DATA. -/
def writeKeep (s : State) (v : Word) : State :=
  keepAdvance (modPower s fun p => { p with island := { p.island with
    keep := modifyAt p.island.keep (Fin.ofNat 64 p.keepIndex.toNat) fun _ => v, keepValid := true } })

end Sys2Proof.Machine
end

