-- ==== Sys2Proof/Machine/Micro.lean ====
section
/-! DEFINITION. The microword (R212) and the microcode store with its BCH code (R237, R238). -/
namespace Sys2Proof.Machine

/-- R212: the fields of a microword. -/
structure Micro where
  seq : BitVec 4
  cond : BitVec 6
  target : BitVec 13
  aop : BitVec 8
  as1 : Fin 64
  as2 : Fin 64
  ad : Fin 64
  bop : BitVec 8
  bs1 : Fin 64
  bs2 : Fin 64
  bd : Fin 64
  mop : BitVec 4
  ms1 : Fin 64
  ms2 : Fin 64
  md : Fin 64
  iop : BitVec 4
  ia : Fin 64
  id : Fin 64
  eop : BitVec 3
  ed : Fin 64
  cop : BitVec 3
  cs : Fin 64
  isel : BitVec 2
  imm : BitVec 27
  deriving DecidableEq, Repr

/-- A register number of a microword. -/
def regNo (w : BitVec 160) (lo : Nat) : Fin 64 := (w.extractLsb' lo 6).toFin

/-- R212: the fields of a word. -/
def microOf (w : BitVec 160) : Micro where
  seq := w.extractLsb' 156 4
  cond := w.extractLsb' 150 6
  target := w.extractLsb' 137 13
  aop := w.extractLsb' 129 8
  as1 := regNo w 123
  as2 := regNo w 117
  ad := regNo w 111
  bop := w.extractLsb' 103 8
  bs1 := regNo w 97
  bs2 := regNo w 91
  bd := regNo w 85
  mop := w.extractLsb' 81 4
  ms1 := regNo w 75
  ms2 := regNo w 69
  md := regNo w 63
  iop := w.extractLsb' 59 4
  ia := regNo w 53
  id := regNo w 47
  eop := w.extractLsb' 44 3
  ed := regNo w 38
  cop := w.extractLsb' 35 3
  cs := regNo w 29
  isel := w.extractLsb' 27 2
  imm := w.extractLsb' 0 27

/-- Microword bits in place: a value at bit `lo` of the word. -/
def microBits (lo v : Nat) : BitVec 160 := BitVec.ofNat 160 (v * 2 ^ lo)

/-! The store's BCH code (R237). -/

/-- m1(x) m3(x), the minimal polynomials of alpha and alpha^3 with alpha a root of x^8 + x^4 + x^3 + x^2 + 1:
(x^8+x^4+x^3+x^2+1)(x^8+x^6+x^5+x^4+x^2+x+1) = x^16+x^14+x^13+x^11+x^10+x^9+x^8+x^6+x^5+x+1. -/
def bchGenerator : BitVec 17 := 0x16F63

/-- x times a residue, modulo the generator. -/
def bchStep (r : BitVec 16) : BitVec 16 :=
  if r.getLsbD 15 then (r <<< 1) ^^^ bchGenerator.truncate 16 else r <<< 1

/-- The residues of x^0, x^1, ..., x^(n-1) modulo the generator. -/
def bchPowers : Nat → BitVec 16 → List (BitVec 16)
  | 0, _ => []
  | n + 1, r => r :: bchPowers n (bchStep r)

/-- The residue of the polynomial whose coefficient of x^i is bit `i`, over the bits from `i` up. -/
def bchResidue (w : BitVec 176) : Nat → List (BitVec 16) → BitVec 16
  | _, [] => 0
  | i, p :: ps => (if w.getLsbD i then p else 0) ^^^ bchResidue w (i + 1) ps

/-- A stored word as its codeword: check bit j is the coefficient of x^j, microword bit i that of x^(i+16). -/
def bchWord (stored : BitVec 176) : BitVec 176 := (stored <<< 16) ||| (stored >>> 160)

/-- The microword of a codeword. -/
def bchData (code : BitVec 176) : BitVec 160 := (code >>> 16).truncate 160

/-- R237: the check bits of a microword. -/
def bchCheck (w : BitVec 160) : BitVec 16 :=
  bchResidue ((w.zeroExtend 176) <<< 16) 0 (bchPowers 176 1)

/-- R237: a microword with its check bits, as the store holds it. -/
def bchEncode (w : BitVec 160) : BitVec 176 := (bchCheck w).zeroExtend 176 <<< 160 ||| w.zeroExtend 176

/-- One bit of a codeword inverted. -/
def bchFlip (code : BitVec 176) (i : Nat) : BitVec 176 := code ^^^ (1#176 <<< i)

/-- The position, from `i` up, whose residue is `r`. -/
def bchFind (r : BitVec 16) : Nat → List (BitVec 16) → Option Nat
  | _, [] => none
  | i, p :: ps => if p = r then some i else bchFind r (i + 1) ps

/-- The first two positions, from `i` up, whose residues add to `r`. -/
def bchFindTwo (r : BitVec 16) : Nat → List (BitVec 16) → Option (Nat × Nat)
  | _, [] => none
  | i, p :: ps =>
    match bchFind (r ^^^ p) (i + 1) ps with
    | some j => some (i, j)
    | none => bchFindTwo r (i + 1) ps

/-- What the decoder makes of a stored word (R238). -/
inductive Fetched
  | clean (w : BitVec 160)
  | corrected (w : BitVec 160)
  | uncorrectable
  deriving DecidableEq, Repr

/-- R238: any two bit errors are corrected; every other pattern that is no codeword is uncorrectable. -/
def bchDecode (stored : BitVec 176) : Fetched :=
  let code := bchWord stored
  let ps := bchPowers 176 1
  let r := bchResidue code 0 ps
  if r = 0 then .clean (bchData code)
  else match bchFind r 0 ps with
    | some i => .corrected (bchData (bchFlip code i))
    | none =>
      match bchFindTwo r 0 ps with
      | some (i, j) => .corrected (bchData (bchFlip (bchFlip code i) j))
      | none => .uncorrectable

/-- A word of a physical quill's store. -/
def storeWord (s : State) (p : PhysIx) (a : Nat) : BitVec 176 := sparseGet 0 s.stores[p] a

/-- A word of a physical quill's store replaced. -/
def putStoreWord (s : State) (p : PhysIx) (a : Nat) (w : BitVec 176) : State :=
  { s with stores := modifyAt s.stores p fun m => sparsePut 0 m a w }

/-- R239: the address that the PC fetches from. -/
def fetchAddr (x : Quill) : Nat :=
  if x.halfmode then x.engine.pc.toNat % 4096 + (if x.activeHalf then 4096 else 0) else x.engine.pc.toNat

/-- R238: the fetch of the word at the PC. -/
def fetch (s : State) (q : QuillIx) : Fetched :=
  bchDecode (storeWord s s.quills[q].store (fetchAddr s.quills[q]))

/-- The microword that a fetch delivers; an uncorrectable one delivers none. -/
def fetchedWord : Fetched → Option (BitVec 160)
  | .clean w => some w
  | .corrected w => some w
  | .uncorrectable => none

end Sys2Proof.Machine
end

