-- ==== Sys2Proof/Machine/Flags.lean ====
section
/-! DEFINITION. What an ALU operation computes in one lane with its carry and overflow (R219, R221), the flags of
the slot (R221), and the conditions that read them (R217). -/
namespace Sys2Proof.Machine

/-- R219: the ALU operations. -/
inductive AluOp
  | nop | mov | add | sub | neg | abs | adds | subs | and | or | xor | andn | not | min | max | minu | maxu
  | shl | shr | sar | rol | ror | cmp | tst | clz | popc | bfx | bfi | zext | sext | splat | lrot
  deriving DecidableEq, Repr

/-- R219: the operations in the order of their codes. -/
def AluOp.all : List AluOp :=
  [.nop, .mov, .add, .sub, .neg, .abs, .adds, .subs, .and, .or, .xor, .andn, .not, .min, .max, .minu, .maxu,
   .shl, .shr, .sar, .rol, .ror, .cmp, .tst, .clz, .popc, .bfx, .bfi, .zext, .sext, .splat, .lrot]

/-- R219: the operation of an AOP or BOP field; codes 0x20 to 0x3F are invalid. -/
def aluOpOf (f : BitVec 8) : Option AluOp := AluOp.all[(f.extractLsb' 0 6).toNat]?

/-- R210: the lane mode of an AOP or BOP field; mode 3 is invalid. -/
inductive LaneMode | one | two | four
  deriving DecidableEq, Repr

/-- R210. -/
def laneModeOf (f : BitVec 8) : Option LaneMode :=
  match (f.extractLsb' 6 2).toNat with
  | 0 => some .one | 1 => some .two | 2 => some .four | _ => none

/-- What one lane computes: the value, C and V. -/
structure LaneOut (w : Nat) where
  val : BitVec w
  c : Bool := false
  v : Bool := false

/-- A signed result saturated to its width (R219 ADDS, SUBS). -/
def saturate {w : Nat} (x : Int) : LaneOut w :=
  let hi : Int := 2 ^ (w - 1) - 1
  let lo : Int := -(2 ^ (w - 1))
  if hi < x then { val := BitVec.ofInt w hi, v := true }
  else if x < lo then { val := BitVec.ofInt w lo, v := true }
  else { val := BitVec.ofInt w x }

/-- The exact signed result does not fit the width. -/
def overflows {w : Nat} (x : Int) : Bool := (BitVec.ofInt w x).toInt != x

/-- R219: the leading zeros of a value. -/
def leadingZeros {w : Nat} (x : BitVec w) : Nat :=
  ((List.range w).find? fun i => x.getLsbD (w - 1 - i)).getD w

/-- R219: the ones of a value. -/
def countOnes {w : Nat} (x : BitVec w) : Nat := ((List.range w).filter fun i => x.getLsbD i).length

/-- R219: bits [p + n - 1:p] of the lane. -/
def laneMask {w : Nat} (p n : Nat) : BitVec w := BitVec.ofNat w ((2 ^ n - 1) * 2 ^ p)

/-- R219: the result of an operation in one lane. SPLAT and LROT move whole lanes and act here as MOV. -/
def laneOp {w : Nat} (op : AluOp) (s1 s2 d : BitVec w) : LaneOut w :=
  let n := s2.toNat % w
  let p := fld s2 6 0
  let k := fld s2 14 8
  let m := fld s2 7 0
  match op with
  | .nop => { val := d }
  | .mov | .splat | .lrot => { val := s1 }
  | .add => { val := s1 + s2, c := 2 ^ w ≤ s1.toNat + s2.toNat, v := overflows (w := w) (s1.toInt + s2.toInt) }
  | .sub | .cmp => { val := s1 - s2, c := s1.toNat < s2.toNat, v := overflows (w := w) (s1.toInt - s2.toInt) }
  | .neg => { val := -s1, c := s1 != 0, v := overflows (w := w) (-s1.toInt) }
  | .abs => { val := if s1.msb then -s1 else s1, v := overflows (w := w) s1.toInt.natAbs }
  | .adds => saturate (s1.toInt + s2.toInt)
  | .subs => saturate (s1.toInt - s2.toInt)
  | .and | .tst => { val := s1 &&& s2 }
  | .or => { val := s1 ||| s2 }
  | .xor => { val := s1 ^^^ s2 }
  | .andn => { val := s1 &&& ~~~s2 }
  | .not => { val := ~~~s1 }
  | .min => { val := if s1.toInt ≤ s2.toInt then s1 else s2 }
  | .max => { val := if s1.toInt ≤ s2.toInt then s2 else s1 }
  | .minu => { val := if s1.toNat ≤ s2.toNat then s1 else s2 }
  | .maxu => { val := if s1.toNat ≤ s2.toNat then s2 else s1 }
  | .shl => { val := s1 <<< n, c := n != 0 && s1.getLsbD (w - n) }
  | .shr => { val := s1 >>> n, c := n != 0 && s1.getLsbD (n - 1) }
  | .sar => { val := s1.sshiftRight n, c := n != 0 && s1.getLsbD (n - 1) }
  | .rol => { val := (s1 <<< n) ||| (s1 >>> (w - n)), c := n != 0 && s1.getLsbD (w - n) }
  | .ror => { val := (s1 >>> n) ||| (s1 <<< (w - n)), c := n != 0 && s1.getLsbD (n - 1) }
  | .clz => { val := BitVec.ofNat w (leadingZeros s1) }
  | .popc => { val := BitVec.ofNat w (countOnes s1) }
  | .bfx => { val := (s1 >>> p) &&& laneMask 0 k }
  | .bfi => { val := (d &&& ~~~(laneMask p k)) ||| ((s1 &&& laneMask 0 k) <<< p) }
  | .zext => { val := s1 &&& laneMask 0 m }
  | .sext =>
    if m = 0 then { val := 0 }
    else if w ≤ m then { val := s1 }
    else { val := if s1.getLsbD (m - 1) then s1 ||| ~~~(laneMask 0 m) else s1 &&& laneMask 0 m }

/-- R221: Z, N, C and V come from lane 0, E from all lanes. -/
def slotFlags {w : Nat} (lane0 : LaneOut w) (all : W128) : AluFlags :=
  { z := lane0.val == 0, n := lane0.val.msb, c := lane0.c, v := lane0.v, e := all == 0 }

/-- R210, R219: an operation over every lane: the 128-bit value and the flags of the slot. -/
def aluCompute (op : AluOp) (mode : LaneMode) (s1 s2 d : W128) : W128 × AluFlags :=
  match mode with
  | .one => let r := laneOp op s1 s2 d; (r.val, slotFlags r r.val)
  | .two =>
    let l (i : Nat) : LaneOut 64 := laneOp op (word64 s1 i) (word64 s2 i) (word64 d i)
    match op with
    | .splat => let v : W128 := word64 s1 0 ++ word64 s1 0; (v, slotFlags (l 0) v)
    | .lrot => let v : W128 := word64 s1 0 ++ word64 s1 1; (v, slotFlags { val := word64 s1 1 } v)
    | _ => let v : W128 := (l 1).val ++ (l 0).val; (v, slotFlags (l 0) v)
  | .four =>
    let l (i : Nat) : LaneOut 32 := laneOp op (word32 s1 i) (word32 s2 i) (word32 d i)
    match op with
    | .splat =>
      let v : W128 := word32 s1 0 ++ word32 s1 0 ++ word32 s1 0 ++ word32 s1 0
      (v, slotFlags (l 0) v)
    | .lrot =>
      let v : W128 := word32 s1 2 ++ word32 s1 1 ++ word32 s1 0 ++ word32 s1 3
      (v, slotFlags { val := word32 s1 3 } v)
    | _ =>
      let v : W128 := (l 3).val ++ (l 2).val ++ (l 1).val ++ (l 0).val
      (v, slotFlags (l 0) v)

/-- R217: the flag conditions, low four bits of COND. -/
def flagCondition (f : AluFlags) (c : Nat) : Bool :=
  match c with
  | 1 => f.z | 2 => !f.z | 3 => f.n | 4 => !f.n | 5 => f.c | 6 => !f.c | 7 => f.v | 8 => !f.v
  | 9 => f.n != f.v | 10 => f.n == f.v | 11 => f.z || f.n != f.v | 12 => !f.z && f.n == f.v
  | 13 => f.c || f.z | 14 => !f.c && !f.z | 15 => f.e
  | _ => false

/-- R217: gathered events that remain to be popped. -/
def eventsLeft (x : Quill) : Nat := x.queue.gathered - x.queue.popped

/-- A word of the quill's context store; words not listed read zero (R246). -/
def contextWord (x : Quill) (w : Nat) : W128 := if w < 256 then sparseGet 0 x.context w else 0

/-- R217, R218: the condition that COND selects, from the state at the start of the cycle; reserved codes are
false. -/
def condition (x : Quill) (cond : BitVec 6) : Bool :=
  let e := x.engine
  let c := cond.toNat
  if c = 0 then true
  else if c < 0x10 then flagCondition e.flagsA c
  else if c < 0x20 then flagCondition e.flagsB (c - 0x10)
  else if 0x30 ≤ c then fld (contextWord x (0x10 + 3 * (c - 0x30))) 82 80 == 2
  else match c with
    | 0x20 => e.ev
    | 0x21 => !e.ev
    | 0x22 => eventsLeft x != 0
    | 0x23 => eventsLeft x == 0
    | 0x24 => tst (contextWord x 1) 7
    | 0x25 => tst (contextWord x 1) 8
    | 0x26 => e.lc0 != 0
    | 0x27 => e.lc1 != 0
    | 0x28 => e.dx
    | 0x29 => e.predv
    | 0x2A => e.records.length < 128
    | 0x2B => e.writes.length < 256
    | 0x2C => tst (contextWord x 1) 9
    | _ => false

end Sys2Proof.Machine
end

