-- ==== Sys2Proof/Machine/Operands.lean ====
section
/-! DEFINITION. The operands of a microword: registers as they stand at the start of the cycle (R208, R211), the
immediate (R220), inkwell addresses (R224), and the words that stop the quill (R236). -/
namespace Sys2Proof.Machine

/-- R208: a register read; G0 is zero and G63 the frame-context pointer. -/
def readReg (e : Engine) (i : Fin 64) : W128 := if i = 0 then 0 else if i = 63 then 0x40000 else e.g[i]

/-- R208: a register write; writes to G0 and G63 are discarded. A written register holds good parity. -/
def writeReg (e : Engine) (i : Fin 64) (v : W128) : Engine :=
  if i = 0 ∨ i = 63 then e
  else { e with g := e.g.set i v, parity := e.parity &&& ~~~(1#64 <<< i.val) }

/-- R220: the immediate in every lane. -/
def immLanes (m : Micro) : LaneMode → W128
  | .one => m.imm.signExtend 128
  | .two => m.imm.signExtend 64 ++ m.imm.signExtend 64
  | .four => m.imm.signExtend 32 ++ m.imm.signExtend 32 ++ m.imm.signExtend 32 ++ m.imm.signExtend 32

/-- The AOP or BOP field of a slot, its sources and its destination (R212). -/
def slotOp (m : Micro) : AluSlot → BitVec 8 | .a => m.aop | .b => m.bop
def slotSrc1 (m : Micro) : AluSlot → Fin 64 | .a => m.as1 | .b => m.bs1
def slotSrc2 (m : Micro) : AluSlot → Fin 64 | .a => m.as2 | .b => m.bs2
def slotDest (m : Micro) : AluSlot → Fin 64 | .a => m.ad | .b => m.bd
/-- R220: IMM replaces source 2 of the slot. -/
def slotImm (m : Micro) : AluSlot → Bool | .a => m.isel == 1 | .b => m.isel == 2

/-- R219, R220: source 2 of an ALU slot. -/
def slotOperand2 (e : Engine) (m : Micro) (x : AluSlot) (mode : LaneMode) : W128 :=
  if slotImm m x then immLanes m mode else readReg e (slotSrc2 m x)

/-- R224: an inkwell address of the word's address register, with the immediate added for ISEL 3. -/
def inkAddr (e : Engine) (m : Micro) (lo : Nat) : BitVec 19 :=
  (readReg e m.ia).extractLsb' lo 19 + (if m.isel = 3 then m.imm.truncate 19 else 0)

/-- R224: the read address and the write address. -/
def readAddr (e : Engine) (m : Micro) : BitVec 19 := inkAddr e m 0
def writeAddr (e : Engine) (m : Micro) : BitVec 19 := inkAddr e m 32

/-- R224: an address of the context store. -/
def isContext (a : BitVec 19) : Bool := a.getLsbD 18
/-- R224: the logical inkwell and the word of an address. -/
def addrBank (a : BitVec 19) : InkIx := (a.extractLsb' 12 6).toFin
def addrWord (a : BitVec 19) : Fin 4096 := (a.extractLsb' 0 12).toFin

/-- R225: the read and the write field of IOP. -/
def readField (m : Micro) : Nat := m.iop.toNat % 4
def writeField (m : Micro) : Nat := m.iop.toNat / 4

/-- R226: the quill owns the bank now. -/
def holdsBank (s : State) (q : QuillIx) (b : InkIx) : Bool :=
  let o := s.ink.banks[b].owner
  o.kind == .quill && o.quill == q

/-- R226: the quill owned the bank at the start of its frame. No owner that is a quill changes within a frame (R19); a
frozen frame that later ticks have passed keeps what it owned. -/
def ownsBank (s : State) (q : QuillIx) (b : InkIx) : Bool :=
  match s.quills[q].frozenTick with
  | none => holdsBank s q b
  | some (_, _, own) => own.getLsbD b

/-- The banks that the quill owns now, one bit each. DEDUCED (log entry 180). -/
def banksHeld (s : State) (q : QuillIx) : W64 :=
  BitVec.ofNat 64 ((indices 64).foldl (fun n (b : InkIx) => if holdsBank s q b then n + 2 ^ b.val else n) 0)

/-- R226: the word's write is one that is buffered. -/
def buffersWrite (s : State) (q : QuillIx) (m : Micro) : Bool :=
  let a := writeAddr s.quills[q].engine m
  writeField m != 0 && !isContext a && ownsBank s q (addrBank a)

/-- R214: the sequencer takes the branch, call, return or yield of a conditional operation. -/
def seqTaken (x : Quill) (m : Micro) : Bool :=
  match m.seq.toNat with
  | 0x5 | 0x7 | 0xC | 0x2 => condition x m.cond
  | 0x3 => !condition x m.cond
  | 0x0 | 0xD | 0xE | 0xF => false
  | 0x8 => x.engine.lc0 != 0
  | 0x9 => x.engine.lc1 != 0
  | _ => true

/-- R210, R219: an AOP or BOP field that stops the quill. -/
def illegalAlu (f : BitVec 8) : Bool :=
  match aluOpOf f with
  | none => true
  | some op => op != .nop && (laneModeOf f).isNone

/-- R236 ILLEGAL: a field holds a code that chapter 08 calls invalid. -/
def illegalWord (m : Micro) : Bool :=
  illegalAlu m.aop || illegalAlu m.bop
    || [6, 7, 11, 12, 13, 14, 15].contains m.mop.toNat
    || readField m == 3 || 5 ≤ m.eop.toNat || 6 ≤ m.cop.toNat

/-- R215: the word would push a ninth return address, or pop an empty stack. -/
def stackFault (x : Quill) (m : Micro) : Bool :=
  let sq := m.seq.toNat
  ((sq == 4 || (sq == 5 && condition x m.cond)) && 8 ≤ x.engine.stack.length)
    || ((sq == 6 || (sq == 7 && condition x m.cond)) && x.engine.stack.isEmpty)

/-- The registers an ALU slot reads (R211). -/
def slotReads (m : Micro) (x : AluSlot) : List (Fin 64) :=
  match aluOpOf (slotOp m x) with
  | none | some .nop => []
  | some op =>
    let unary := [AluOp.mov, .neg, .abs, .not, .clz, .popc, .splat, .lrot].contains op
    [slotSrc1 m x] ++ (if unary || slotImm m x then [] else [slotSrc2 m x])
      ++ (if op == .bfi then [slotDest m x] else [])

/-- R211: every register the word reads. -/
def wordReads (m : Micro) : List (Fin 64) :=
  slotReads m .a ++ slotReads m .b
    ++ (if m.mop = 0 then [] else [m.ms1, m.ms2])
    ++ (if m.iop = 0 then [] else [m.ia])
    ++ (if writeField m = 0 then [] else [m.id])
    ++ (if m.eop = 4 then [m.ed] else [])
    ++ (if m.cop = 0 then [] else [m.cs])
    ++ (if m.seq = 0xA ∨ m.seq = 0xE then [(m.cond.toFin : Fin 64)] else [])

/-- R236 PARITY: the word reads a register that holds a parity error. -/
def parityFault (e : Engine) (m : Micro) : Bool := (wordReads m).any fun i => e.parity.getLsbD i

/-- R236: every cause that stops the quill at this word. -/
def stopCauses (s : State) (q : QuillIx) (m : Micro) : List StopCause :=
  let x := s.quills[q]
  (if illegalWord m then [.illegal] else [])
    ++ (if stackFault x m then [.stack] else [])
    ++ (if m.cop != 0 && 128 ≤ x.engine.records.length then [.commitFull] else [])
    ++ (if buffersWrite s q m && 256 ≤ x.engine.writes.length then [.inkFull] else [])
    ++ (if parityFault x.engine m then [.parity] else [])

end Sys2Proof.Machine
end

