-- ==== Sys2Proof/Machine/Quill.lean ====
section
/-! DEFINITION. The quill engine (chapter 08): what each slot of a microword does in its cycle, the arrival of
results (R232, R233), words that stop the quill (R236), the end of the budget (R17), the scrubber (R238), debug
access (R241 to R243) and the registers of a quill (R244, R245). -/
namespace Sys2Proof.Machine

/-- An ADVISORY bit is set, with its event (R245). -/
def advise (s : State) (q : QuillIx) (bit : Nat) : State :=
  raiseQuillEvent (modQuill s q fun x => { x with advisory := setBit x.advisory bit true }) q 3

/-! Stopping (R236, R255). -/

/-- R236, R242: a frame that is being stepped records the cause and ends; any other frame becomes an overrun. -/
def stopQuill (s : State) (q : QuillIx) (c : StopCause) : State :=
  let stepped := s.quills[q].halted
  let s := modQuill s q fun x => { x with
    ovrCause := at_ 0 c.code ||| at_ 16 x.engine.pc.toNat
    overruns := if stepped then x.overruns else satAdd x.overruns 1
    frozen := false
    engine := { x.engine with phase := .stopped c, results := [] } }
  if stepped then s
  else
    let u := unitNo s .quill q
    let s := raiseFault (raiseQuillEvent s q 0) (128 + 8 * q) u
    match c with
    | .ucodeEcc => raiseFault s (130 + 8 * q) u
    | .parity => raiseFault s (131 + 8 * q) u
    | _ => s

/-- R236 gives no order among several causes of one word: which is recorded is open. DEDUCED (log entry 9). -/
def chooseCause (s : State) (first : StopCause) (rest : List StopCause) : StopCause × State :=
  if rest.isEmpty then (first, s)
  else
    let n := Config.stopChoice s.free % (rest.length + 1)
    (((first :: rest)[n]?).getD first, drawFree s)

/-! Fetch (R238, R414, R415). -/

/-- R238: a corrected fetch is counted and raises UCODE_CORR. -/
def countCorrected (s : State) (q : QuillIx) : State :=
  raiseQuillEvent (modQuill s q fun x => { x with eccCorrected := satAdd x.eccCorrected 1 }) q 2

/-- R238, R414: the fetch of a word is accounted once: a correction, and an access to the microcode checker. -/
def accountFetch (s : State) (q : QuillIx) (f : Fetched) : State :=
  let inj := injects s 2 q
  match f with
  | .clean _ => if inj then countInjected (countCorrected s q) true else s
  | .corrected _ => countCorrected (if inj then countInjected s false else s) q
  | .uncorrectable => if inj then countInjected s false else s

/-- R414, R415: a register operand read, as an access to the register parity checker of the quill. -/
def accountRead (q : QuillIx) (s : State) (i : Fin 64) : State :=
  if injects s 3 q then countInjected s (!s.quills[q].engine.parity.getLsbD i) else s

/-- What is accounted when a word begins: the frame whose compute starts (R244 FRAMES), and its fetch. -/
def beginWord (s : State) (q : QuillIx) (f : Fetched) : State :=
  if s.quills[q].engine.done.isEmpty then
    let s := modQuill s q fun x => if x.engine.cycle = 0 then { x with frames := x.frames + 1 } else x
    let s := accountFetch s q f
    match fetchedWord f with
    | some w => forAll (wordReads (microOf w)) s (accountRead q)
    | none => s
  else s

/-- The quill is to execute a word in the present cycle: it computes (R16, R17), and no debug halt holds it. -/
def computesNow (s : State) (q : QuillIx) : Bool :=
  let x := s.quills[q]
  x.active && x.engine.phase == .computing && !x.halted && s.time.cycle == 64 + x.engine.cycle
    && s.time.cycle + 33 ≤ s.time.period

/-- One slot of the word at the PC acts. The word stops the quill before any slot of it acts (R236). Nothing acts
where the word holds another operation, the slot has acted, or the sequencer has ended the word. -/
def wordSlot (s : State) (q : QuillIx) (slot : Slot) (has : Micro → Bool) (act : State → Micro → State) : State :=
  let d := s.quills[q].engine.done
  if d.contains slot || d.contains .seq then s
  else
    let f := fetch s q
    match fetchedWord f with
    | none => stopQuill (beginWord s q f) q .ucodeEcc
    | some w =>
      let m := microOf w
      if has m then
        let s := beginWord s q f
        match stopCauses s q m with
        | [] => modEngine (act s m) q fun e => { e with done := slot :: e.done }
        | c :: cs => let (c, s) := chooseCause s c cs; stopQuill s q c
      else s

/-- A slot command: it acts on the word that the quill executes in the present cycle. -/
def atWord (s : State) (q : QuillIx) (slot : Slot) (has : Micro → Bool) (act : State → Micro → State) : State :=
  if computesNow s q then wordSlot s q slot has act else s

/-- R232: a result under way. -/
def addResult (e : Engine) (latency : Nat) (dest : Fin 64) (kind : ResultKind) (value : W128)
    (flag : EventFlag := .none) : Engine :=
  { e with results := e.results ++
      [{ due := e.cycle + latency - 1, dest := dest, kind := kind, value := value, flag := flag }] }

/-! ALU slots (R216, R219 to R221). -/

/-- R219, R221: an ALU operation of a slot: its flags, and its result unless it is CMP or TST. -/
def aluEffect (q : QuillIx) (x : AluSlot) (op : AluOp) (s : State) (m : Micro) : State :=
  modEngine s q fun e =>
    let mode := (laneModeOf (slotOp m x)).getD .one
    let (v, f) := aluCompute op mode (readReg e (slotSrc1 m x)) (slotOperand2 e m x mode) (readReg e (slotDest m x))
    let e := match x with | .a => { e with newFlagsA := some f } | .b => { e with newFlagsB := some f }
    if op == .cmp || op == .tst then e
    else addResult e 1 (slotDest m x) (match x with | .a => .aluA | .b => .aluB) v

/-- The slot of a microword that an ALU slot is. -/
def aluSlot : AluSlot → Slot | .a => .aluA | .b => .aluB

/-- An ALU operation in the word of the present cycle. -/
def atAlu (s : State) (q : QuillIx) (x : AluSlot) (op : AluOp) : State :=
  atWord s q (aluSlot x) (fun m => aluOpOf (slotOp m x) == some op) (aluEffect q x op)

/-! Multiplier and divider (R222, R223). -/

/-- R223: a quotient, a remainder and the divide exception. -/
structure Divided where
  quot : W64
  rem : W64
  dx : Bool

/-- R222, R223: unsigned division of `n` by `d`; `s1` is the remainder given for a zero divisor. -/
def divUnsigned (n d : Nat) (s1 : W64) : Divided :=
  if d = 0 then { quot := BitVec.allOnes 64, rem := s1, dx := true }
  else if 2 ^ 64 ≤ n / d then { quot := BitVec.allOnes 64, rem := 0, dx := true }
  else { quot := BitVec.ofNat 64 (n / d), rem := BitVec.ofNat 64 (n % d), dx := false }

/-- R222, R223: signed division. -/
def divSigned (n d : W64) : Divided :=
  let least : W64 := 1#64 <<< 63
  if d = 0 then { quot := if n.msb then least else least - 1, rem := n, dx := true }
  else if n = least ∧ d = BitVec.allOnes 64 then { quot := least, rem := 0, dx := true }
  else { quot := BitVec.ofInt 64 (n.toInt.tdiv d.toInt), rem := BitVec.ofInt 64 (n.toInt.tmod d.toInt), dx := false }

/-- R222: the multiplier's operations. -/
inductive MulOp | u | s | twoU | twoS | qs
  deriving DecidableEq, Repr

/-- R222: a product. -/
def mulValue (op : MulOp) (s1 s2 : W128) : W128 :=
  let a := word64 s1 0
  let b := word64 s2 0
  match op with
  | .u => BitVec.ofNat 128 (a.toNat * b.toNat)
  | .s => BitVec.ofInt 128 (a.toInt * b.toInt)
  | .twoU =>
    let half (h : Nat) : W64 := BitVec.ofNat 64 ((word32 s1 (2 * h)).toNat * (word32 s2 (2 * h)).toNat)
    half 1 ++ half 0
  | .twoS =>
    let half (h : Nat) : W64 := BitVec.ofInt 64 ((word32 s1 (2 * h)).toInt * (word32 s2 (2 * h)).toInt)
    half 1 ++ half 0
  | .qs => (BitVec.ofInt 128 (a.toInt * b.toInt)).sshiftRight 32

/-- R222: the divider's operations. -/
inductive DivOp | u | s | uf
  deriving DecidableEq, Repr

/-- R222, R223: a division. -/
def divValue (op : DivOp) (s1 s2 : W128) : Divided :=
  let a := word64 s1 0
  let b := word64 s2 0
  match op with
  | .u => divUnsigned a.toNat b.toNat a
  | .s => divSigned a b
  | .uf => divUnsigned (a.toNat * 2 ^ 32) b.toNat a

/-- R222: the multiplier issues. -/
def mulEffect (q : QuillIx) (op : MulOp) (s : State) (m : Micro) : State :=
  modEngine s q fun e => addResult e 3 m.md .mul (mulValue op (readReg e m.ms1) (readReg e m.ms2))

/-- R222, R223: the divider issues. -/
def divEffect (q : QuillIx) (op : DivOp) (s : State) (m : Micro) : State :=
  modEngine s q fun e =>
    let d := divValue op (readReg e m.ms1) (readReg e m.ms2)
    addResult e 20 m.md .div (d.rem ++ d.quot) (.dx d.dx)

/-- The codes of MOP (R222). -/
def MulOp.code : MulOp → Nat | .u => 1 | .s => 2 | .twoU => 3 | .twoS => 4 | .qs => 5
def DivOp.code : DivOp → Nat | .u => 8 | .s => 9 | .uf => 10

/-- A multiplication in the word of the present cycle. -/
def atMul (s : State) (q : QuillIx) (op : MulOp) : State :=
  atWord s q .mul (fun m => m.mop.toNat == op.code) (mulEffect q op)
/-- A division in the word of the present cycle. -/
def atDiv (s : State) (q : QuillIx) (op : DivOp) : State :=
  atWord s q .mul (fun m => m.mop.toNat == op.code) (divEffect q op)

/-! Inkwell port (R224 to R226). -/

/-- R226: an access to a bank that the quill does not own. -/
def deniedInk (s : State) (q : QuillIx) (a : BitVec 19) (write : Bool) : State :=
  let s := modQuill s q fun x => { x with inkDenied := satAdd x.inkDenied 1 }
  denyAccess (advise s q 2) (addrBank a) (addrWord a) write (.quill q)

/-- R225: the post-increments of a word form one write of G[IA]; the word's read, or its write where it reads not,
brings it. -/
def postIncrement (e : Engine) (m : Micro) : Engine :=
  let g := readReg e m.ia
  let g1 := if readField m = 2 then setFld g 11 0 (fld g 11 0 + 1) else g
  let g2 := if writeField m = 2 then setFld g1 43 32 (fld g 43 32 + 1) else g1
  addResult e 1 m.ia .postInc g2

/-- R225, R226: the read of a word. -/
def inkReadEffect (q : QuillIx) (s : State) (m : Micro) : State :=
  let a := readAddr s.quills[q].engine m
  let (v, s) :=
    if isContext a then (contextWord s.quills[q] (addrWord a), s)
    else if ownsBank s q (addrBank a) then inkRead s (addrBank a) (addrWord a)
    else (0, deniedInk s q a false)
  modEngine s q fun e =>
    let e := addResult e 2 m.id .ink v
    if readField m = 2 then postIncrement e m else e

/-- R225: the byte enables of a write: all, or those of WRB. -/
def writeEnables (e : Engine) (m : Micro) : BitVec 16 :=
  if writeField m = 3 then (readReg e m.ia).extractLsb' 96 16 else BitVec.allOnes 16

/-- R225, R226: the write of a word. -/
def inkWriteEffect (q : QuillIx) (s : State) (m : Micro) : State :=
  let a := writeAddr s.quills[q].engine m
  let s :=
    if isContext a then advise s q 1
    else if ownsBank s q (addrBank a) then
      modEngine s q fun e =>
        let w : InkWrite :=
          { bank := addrBank a, word := addrWord a, enables := writeEnables e m, data := readReg e m.id }
        { e with newWrite := some w }
    else deniedInk s q a true
  modEngine s q fun e => if writeField m = 2 ∧ readField m ≠ 2 then postIncrement e m else e

/-- An inkwell read of a code in the word of the present cycle. -/
def atInkRead (s : State) (q : QuillIx) (code : Nat) : State :=
  atWord s q .inkRead (fun m => readField m == code) (inkReadEffect q)
/-- An inkwell write of a code in the word of the present cycle. -/
def atInkWrite (s : State) (q : QuillIx) (code : Nat) : State :=
  atWord s q .inkWrite (fun m => writeField m == code) (inkWriteEffect q)

/-! Event and tracker port (R227). -/

/-- The oldest gathered event that remains. -/
def oldestEvent (x : Quill) : Option W128 :=
  if x.queue.popped < x.queue.gathered then (x.queue.entries[x.queue.popped]?).map (·.record) else none

/-- R227: PRED of a quill; a frozen frame keeps the trackers of its own tick (R242). -/
def framePred (s : State) (q : QuillIx) (t : TrackIx) (dir : Nat) (angle : Word) : Option W64 :=
  match s.quills[q].frozenTick with
  | none => predOf s t dir angle
  | some (tb, ts, _) => if dir = 3 then none else predictCross ts (tb <<< 3) t dir angle true

/-- R227: the operations of EOP. -/
inductive EventOp | pop | peek | count | pred
  deriving DecidableEq, Repr

/-- The codes of EOP. -/
def EventOp.code : EventOp → Nat | .pop => 1 | .peek => 2 | .count => 3 | .pred => 4

/-- R227: an operation of the event port. -/
def eventEffect (q : QuillIx) (op : EventOp) (s : State) (m : Micro) : State :=
  let x := s.quills[q]
  match op with
  | .pop => modEngine s q fun e =>
      let r := oldestEvent x
      { addResult e 2 m.ed .event (r.getD 0) (.ev r.isSome) with newPop := r.isSome }
  | .peek => modEngine s q fun e =>
      let r := oldestEvent x
      addResult e 2 m.ed .event (r.getD 0) (.ev r.isSome)
  | .count => modEngine s q fun e => addResult e 2 m.ed .event (BitVec.ofNat 128 (eventsLeft x % 128))
  | .pred => modEngine s q fun e =>
      let g := readReg e m.ed
      let p := framePred s q ((g.extractLsb' 32 4).toFin) (fld g 37 36) (word32 g 0)
      addResult e 8 m.ed .event
        (match p with | some t => BitVec.ofNat 128 (2 ^ 64 + t.toNat) | none => 0) (.predv p.isSome)

/-- An operation of the event port in the word of the present cycle. -/
def atEvent (s : State) (q : QuillIx) (op : EventOp) : State :=
  atWord s q .event (fun m => m.eop.toNat == op.code) (eventEffect q op)

/-! Commit port (R228). -/

/-- R228: the commit record of an operation. -/
def commitRec (cop : Nat) (g : W128) : Option CommitRec :=
  match cop with
  | 1 => some (.stroke g)
  | 2 => some (.regw g)
  | 3 => some (.vpos g)
  | 4 => some (.vdyn g)
  | 5 => some (.signal (g.extractLsb' 0 6).toFin)
  | _ => none

/-- R228: the commit port issues a record. -/
def commitEffect (q : QuillIx) (cop : Nat) (s : State) (m : Micro) : State :=
  modEngine s q fun e => { e with newRecord := commitRec cop (readReg e m.cs) }

/-- An operation of the commit port in the word of the present cycle. -/
def atCommit (s : State) (q : QuillIx) (cop : Nat) : State :=
  atWord s q .commit (fun m => m.cop.toNat == cop) (commitEffect q cop)

/-! Sequencer (R213 to R215). -/

/-- R213: the wrap of the PC. -/
def wrapPc (x : Quill) (n : Nat) : BitVec 13 := BitVec.ofNat 13 (if x.halfmode then n % 4096 else n)

/-- R213: the incrementer. -/
def nextPc (x : Quill) : BitVec 13 := wrapPc x (x.engine.pc.toNat + 1)

/-- R213: TARGET as an address. -/
def targetPc (x : Quill) (m : Micro) : BitVec 13 := wrapPc x m.target.toNat

/-- R234: the word ends the frame routine at the end of its cycle. -/
def yields (m : Micro) (x : Quill) : Bool := m.seq == 0xB || (m.seq == 0xC && condition x m.cond)

/-- R214: what SEQ does to the PC, the counters and the stack. -/
def seqEngine (x : Quill) (m : Micro) : Engine :=
  let e := x.engine
  let c := condition x m.cond
  let next := { e with pc := nextPc x }
  let jump := { e with pc := targetPc x m }
  let call := { jump with stack := nextPc x :: e.stack }
  let ret := match e.stack with | [] => next | r :: rest => { e with pc := r, stack := rest }
  let yield := { next with yielding := true }
  match m.seq.toNat with
  | 0x1 => jump
  | 0x2 => if c then jump else next
  | 0x3 => if c then next else jump
  | 0x4 => call
  | 0x5 => if c then call else next
  | 0x6 => ret
  | 0x7 => if c then ret else next
  | 0x8 => if e.lc0 != 0 then { jump with lc0 := e.lc0 - 1 } else next
  | 0x9 => if e.lc1 != 0 then { jump with lc1 := e.lc1 - 1 } else next
  | 0xA => { e with pc := wrapPc x (m.target.toNat + fld (readReg e m.cond.toFin) 7 0) }
  | 0xB => yield
  | 0xC => if c then yield else next
  | 0xD => let n := m.target.zeroExtend 16; if tst m.cond 0 then { next with lc1 := n } else { next with lc0 := n }
  | 0xE =>
    let n := (readReg e m.cond.toFin).truncate 16
    if tst m.target 0 then { next with lc1 := n } else { next with lc0 := n }
  | _ => next

/-- R214: the sequencer acts; BREAK asks for a halt at the end of its word (R241). -/
def seqEffect (q : QuillIx) (s : State) (m : Micro) : State :=
  modQuill s q fun x => { x with
    engine := seqEngine x m
    haltReq := x.haltReq || (m.seq == 0xF && x.brkEn && !x.halted) }

/-- The sequencer's operation of a code in the word of the present cycle. -/
def atSeq (s : State) (q : QuillIx) (code : Nat) : State :=
  atWord s q .seq (fun m => m.seq.toNat == code) (seqEffect q)

/-! The end of a compute cycle (R232 to R234). -/

/-- R233: the kinds of result from the lowest precedence to the highest. -/
def ResultKind.rising : List ResultKind := [.postInc, .event, .ink, .div, .mul, .aluB, .aluA]

/-- R217: the flag that a result brings. -/
def takeFlag (e : Engine) (r : PendingResult) : Engine :=
  match r.flag with
  | .none => e
  | .ev b => { e with ev := b }
  | .dx b => { e with dx := b }
  | .predv b => { e with predv := b }

/-- R233: two results arrive at one register. -/
def resultsMeet : List PendingResult → Bool
  | [] => false
  | r :: rs => (rs.any fun x => x.dest == r.dest) || resultsMeet rs

/-- R232, R233: the results due are written, the one of highest precedence last; of two event-port results the
later issued stands. -/
def writeResults (e : Engine) (due : List PendingResult) : Engine :=
  let e := due.foldl takeFlag e
  ResultKind.rising.foldl (fun e k => (due.filter fun r => r.kind == k).foldl (fun e r => writeReg e r.dest r.value) e) e

/-- The end of a word: its results, flags, record, write and POP stand; a YIELD discards what is still under way
(R234). -/
def endWord (e : Engine) : Engine :=
  let due := e.results.filter fun r => r.due ≤ e.cycle
  let e1 := writeResults e due
  { e1 with
    flagsA := e.newFlagsA.getD e.flagsA
    flagsB := e.newFlagsB.getD e.flagsB
    records := e.records ++ e.newRecord.toList
    writes := e.writes ++ e.newWrite.toList
    results := if e.yielding then [] else e.results.filter fun r => !(r.due ≤ e.cycle)
    newFlagsA := none, newFlagsB := none, newRecord := none, newWrite := none, newPop := false
    done := [], yielding := false
    cycle := e.cycle + 1
    phase := if e.yielding then .yielded else e.phase }

/-- R407: the quill's frames are under a vote; a debug halt waits for its end (R416). -/
def underVote (s : State) (q : QuillIx) : Bool := s.pool.votes.any fun v => v.quill == q

/-- R241: a quill enters the debug halt. DEDUCED (log entry 60). -/
def enterHalt (s : State) (q : QuillIx) : State :=
  raiseQuillEvent (modQuill s q fun x => { x with
    halted := true, haltReq := false, withheld := true, frozen := x.engine.phase == .computing }) q 1

/-- R232 to R234, R241: the end of the cycle in which the quill's word acted. -/
def writeBack (s : State) (q : QuillIx) : State :=
  let x := s.quills[q]
  let e := x.engine
  let due := e.results.filter fun r => r.due ≤ e.cycle
  let k : BitVec 16 := BitVec.ofNat 16 (e.cycle + 1)
  let s := modQuill s q fun x => { x with
    engine := endWord e
    queue := { x.queue with popped := x.queue.popped + b2n e.newPop }
    yieldLast := if e.yielding then k else x.yieldLast
    yieldMax := if e.yielding && x.yieldMax.toNat < k.toNat then k else x.yieldMax
    frozen := x.frozen && !e.yielding }
  let s := if resultsMeet due then advise s q 0 else s
  let s := if due.any fun r => r.flag == .dx true then advise s q 5 else s
  if x.haltReq && !x.halted && !underVote s q then enterHalt s q else s

/-- R232: the results of a compute cycle are written at its end. -/
def execResultWriteback (q : QuillIx) (s : State) : Host.Outcome State Fault Refusal :=
  finish (if computesNow s q && s.quills[q].engine.done.contains .seq then writeBack s q else s)

/-- R17, R236: the quill has not yielded by the end of cycle P - 33. -/
def budgetOver (s : State) (q : QuillIx) : Bool :=
  let x := s.quills[q]
  x.active && x.engine.phase == .computing && !x.halted && s.time.cycle + 32 == s.time.period

/-- R17, R236: the quill stops with cause BUDGET. -/
def execBudgetExpiry (q : QuillIx) (s : State) : Host.Outcome State Fault Refusal :=
  finish (if budgetOver s q then stopQuill s q .budget else s)

/-! The sequencer's commands (R214). -/
def execSeqNext (q : QuillIx) (s : State) : Host.Outcome State Fault Refusal := finish (atSeq s q 0x0)
def execSeqJmp (q : QuillIx) (s : State) : Host.Outcome State Fault Refusal := finish (atSeq s q 0x1)
def execSeqJt (q : QuillIx) (s : State) : Host.Outcome State Fault Refusal := finish (atSeq s q 0x2)
def execSeqJf (q : QuillIx) (s : State) : Host.Outcome State Fault Refusal := finish (atSeq s q 0x3)
def execSeqCall (q : QuillIx) (s : State) : Host.Outcome State Fault Refusal := finish (atSeq s q 0x4)
def execSeqCallt (q : QuillIx) (s : State) : Host.Outcome State Fault Refusal := finish (atSeq s q 0x5)
def execSeqRet (q : QuillIx) (s : State) : Host.Outcome State Fault Refusal := finish (atSeq s q 0x6)
def execSeqRett (q : QuillIx) (s : State) : Host.Outcome State Fault Refusal := finish (atSeq s q 0x7)
def execSeqLoop0 (q : QuillIx) (s : State) : Host.Outcome State Fault Refusal := finish (atSeq s q 0x8)
def execSeqLoop1 (q : QuillIx) (s : State) : Host.Outcome State Fault Refusal := finish (atSeq s q 0x9)
def execSeqDispatch (q : QuillIx) (s : State) : Host.Outcome State Fault Refusal := finish (atSeq s q 0xA)
def execSeqYield (q : QuillIx) (s : State) : Host.Outcome State Fault Refusal := finish (atSeq s q 0xB)
def execSeqYieldt (q : QuillIx) (s : State) : Host.Outcome State Fault Refusal := finish (atSeq s q 0xC)
def execSeqLdlc (q : QuillIx) (s : State) : Host.Outcome State Fault Refusal := finish (atSeq s q 0xD)
def execSeqLdlcr (q : QuillIx) (s : State) : Host.Outcome State Fault Refusal := finish (atSeq s q 0xE)
def execSeqBreak (q : QuillIx) (s : State) : Host.Outcome State Fault Refusal := finish (atSeq s q 0xF)

/-! The ALU commands (R219). -/
def execAluMov (q : QuillIx) (x : AluSlot) (s : State) : Host.Outcome State Fault Refusal :=
  finish (atAlu s q x .mov)
def execAluAdd (q : QuillIx) (x : AluSlot) (s : State) : Host.Outcome State Fault Refusal :=
  finish (atAlu s q x .add)
def execAluSub (q : QuillIx) (x : AluSlot) (s : State) : Host.Outcome State Fault Refusal :=
  finish (atAlu s q x .sub)
def execAluNeg (q : QuillIx) (x : AluSlot) (s : State) : Host.Outcome State Fault Refusal :=
  finish (atAlu s q x .neg)
def execAluAbs (q : QuillIx) (x : AluSlot) (s : State) : Host.Outcome State Fault Refusal :=
  finish (atAlu s q x .abs)
def execAluAdds (q : QuillIx) (x : AluSlot) (s : State) : Host.Outcome State Fault Refusal :=
  finish (atAlu s q x .adds)
def execAluSubs (q : QuillIx) (x : AluSlot) (s : State) : Host.Outcome State Fault Refusal :=
  finish (atAlu s q x .subs)
def execAluAnd (q : QuillIx) (x : AluSlot) (s : State) : Host.Outcome State Fault Refusal :=
  finish (atAlu s q x .and)
def execAluOr (q : QuillIx) (x : AluSlot) (s : State) : Host.Outcome State Fault Refusal :=
  finish (atAlu s q x .or)
def execAluXor (q : QuillIx) (x : AluSlot) (s : State) : Host.Outcome State Fault Refusal :=
  finish (atAlu s q x .xor)
def execAluAndn (q : QuillIx) (x : AluSlot) (s : State) : Host.Outcome State Fault Refusal :=
  finish (atAlu s q x .andn)
def execAluNot (q : QuillIx) (x : AluSlot) (s : State) : Host.Outcome State Fault Refusal :=
  finish (atAlu s q x .not)
def execAluMin (q : QuillIx) (x : AluSlot) (s : State) : Host.Outcome State Fault Refusal :=
  finish (atAlu s q x .min)
def execAluMax (q : QuillIx) (x : AluSlot) (s : State) : Host.Outcome State Fault Refusal :=
  finish (atAlu s q x .max)
def execAluMinu (q : QuillIx) (x : AluSlot) (s : State) : Host.Outcome State Fault Refusal :=
  finish (atAlu s q x .minu)
def execAluMaxu (q : QuillIx) (x : AluSlot) (s : State) : Host.Outcome State Fault Refusal :=
  finish (atAlu s q x .maxu)
def execAluShl (q : QuillIx) (x : AluSlot) (s : State) : Host.Outcome State Fault Refusal :=
  finish (atAlu s q x .shl)
def execAluShr (q : QuillIx) (x : AluSlot) (s : State) : Host.Outcome State Fault Refusal :=
  finish (atAlu s q x .shr)
def execAluSar (q : QuillIx) (x : AluSlot) (s : State) : Host.Outcome State Fault Refusal :=
  finish (atAlu s q x .sar)
def execAluRol (q : QuillIx) (x : AluSlot) (s : State) : Host.Outcome State Fault Refusal :=
  finish (atAlu s q x .rol)
def execAluRor (q : QuillIx) (x : AluSlot) (s : State) : Host.Outcome State Fault Refusal :=
  finish (atAlu s q x .ror)
def execAluCmp (q : QuillIx) (x : AluSlot) (s : State) : Host.Outcome State Fault Refusal :=
  finish (atAlu s q x .cmp)
def execAluTst (q : QuillIx) (x : AluSlot) (s : State) : Host.Outcome State Fault Refusal :=
  finish (atAlu s q x .tst)
def execAluClz (q : QuillIx) (x : AluSlot) (s : State) : Host.Outcome State Fault Refusal :=
  finish (atAlu s q x .clz)
def execAluPopc (q : QuillIx) (x : AluSlot) (s : State) : Host.Outcome State Fault Refusal :=
  finish (atAlu s q x .popc)
def execAluBfx (q : QuillIx) (x : AluSlot) (s : State) : Host.Outcome State Fault Refusal :=
  finish (atAlu s q x .bfx)
def execAluBfi (q : QuillIx) (x : AluSlot) (s : State) : Host.Outcome State Fault Refusal :=
  finish (atAlu s q x .bfi)
def execAluZext (q : QuillIx) (x : AluSlot) (s : State) : Host.Outcome State Fault Refusal :=
  finish (atAlu s q x .zext)
def execAluSext (q : QuillIx) (x : AluSlot) (s : State) : Host.Outcome State Fault Refusal :=
  finish (atAlu s q x .sext)
def execAluSplat (q : QuillIx) (x : AluSlot) (s : State) : Host.Outcome State Fault Refusal :=
  finish (atAlu s q x .splat)
def execAluLrot (q : QuillIx) (x : AluSlot) (s : State) : Host.Outcome State Fault Refusal :=
  finish (atAlu s q x .lrot)

/-! The multiplier's and divider's commands (R222). -/
def execMulU (q : QuillIx) (s : State) : Host.Outcome State Fault Refusal := finish (atMul s q .u)
def execMulS (q : QuillIx) (s : State) : Host.Outcome State Fault Refusal := finish (atMul s q .s)
def execMul2u (q : QuillIx) (s : State) : Host.Outcome State Fault Refusal := finish (atMul s q .twoU)
def execMul2s (q : QuillIx) (s : State) : Host.Outcome State Fault Refusal := finish (atMul s q .twoS)
def execMulQs (q : QuillIx) (s : State) : Host.Outcome State Fault Refusal := finish (atMul s q .qs)
def execDivU (q : QuillIx) (s : State) : Host.Outcome State Fault Refusal := finish (atDiv s q .u)
def execDivS (q : QuillIx) (s : State) : Host.Outcome State Fault Refusal := finish (atDiv s q .s)
def execDivUf (q : QuillIx) (s : State) : Host.Outcome State Fault Refusal := finish (atDiv s q .uf)

/-! The inkwell port's commands (R225). -/
def execInkRd (q : QuillIx) (s : State) : Host.Outcome State Fault Refusal := finish (atInkRead s q 1)
def execInkRdx (q : QuillIx) (s : State) : Host.Outcome State Fault Refusal := finish (atInkRead s q 2)
def execInkWr (q : QuillIx) (s : State) : Host.Outcome State Fault Refusal := finish (atInkWrite s q 1)
def execInkWrx (q : QuillIx) (s : State) : Host.Outcome State Fault Refusal := finish (atInkWrite s q 2)
def execInkWrb (q : QuillIx) (s : State) : Host.Outcome State Fault Refusal := finish (atInkWrite s q 3)

/-! The event port's commands (R227). -/
def execEvpPop (q : QuillIx) (s : State) : Host.Outcome State Fault Refusal := finish (atEvent s q .pop)
def execEvpPeek (q : QuillIx) (s : State) : Host.Outcome State Fault Refusal := finish (atEvent s q .peek)
def execEvpCount (q : QuillIx) (s : State) : Host.Outcome State Fault Refusal := finish (atEvent s q .count)
def execEvpPred (q : QuillIx) (s : State) : Host.Outcome State Fault Refusal := finish (atEvent s q .pred)

/-! The commit port's commands (R228). -/
def execCmtStroke (q : QuillIx) (s : State) : Host.Outcome State Fault Refusal := finish (atCommit s q 1)
def execCmtRegw (q : QuillIx) (s : State) : Host.Outcome State Fault Refusal := finish (atCommit s q 2)
def execCmtVpos (q : QuillIx) (s : State) : Host.Outcome State Fault Refusal := finish (atCommit s q 3)
def execCmtVdyn (q : QuillIx) (s : State) : Host.Outcome State Fault Refusal := finish (atCommit s q 4)
def execCmtSignal (q : QuillIx) (s : State) : Host.Outcome State Fault Refusal := finish (atCommit s q 5)

/-! The scrubber (R238). -/

/-- The logical quill that fetches from a physical quill's store. -/
def quillOfStore (s : State) (p : PhysIx) : Option QuillIx := (indices 16).find? fun q => s.quills[q].store == p

/-- R238: the scrubber reads a word, rewrites it corrected, or raises QUILL_UCODE for one that it cannot correct. The
codes of the microcode are counted for the logical quill whose store it is. Scrubbing pauses while the store is copied
(R411). DEDUCED (log entry 62). -/
def execUcodeScrub (p : PhysIx) (w : Fin 8192) (s : State) : Host.Outcome State Fault Refusal :=
  finish <| if s.pool.moves.any fun m => m.source == p || m.target == p then s else match bchDecode (storeWord s p w) with
    | .clean _ => s
    | .corrected d =>
      let s := putStoreWord s p w (bchEncode d)
      match quillOfStore s p with
      | some q => modQuill s q fun x => { x with eccScrubbed := satAdd x.eccScrubbed 1 }
      | none => s
    | .uncorrectable =>
      let s := modPool s fun k => { k with badStores := setBit k.badStores p true }
      match quillOfStore s p with
      | some q => raiseFault s (130 + 8 * q) (unitNo s .quill q)
      | none => s

/-! Debug access (R241 to R243). -/

/-- R241: QHALT. A quill in the middle of a compute cycle halts at its end, one that computes and has ended its cycle
halts now, and any other, active or not, halts at its next gather. -/
def haltQuill (s : State) (q : QuillIx) : State :=
  let x := s.quills[q]
  if x.halted then s
  else if x.active && x.engine.phase == .computing && 64 ≤ s.time.cycle && !computesNow s q && !underVote s q then enterHalt s q
  else modQuill s q fun x => { x with haltReq := true }

/-- The ALU slot `x` of a word. -/
def wholeAlu (q : QuillIx) (m : Micro) (x : AluSlot) (s : State) : State :=
  match aluOpOf (slotOp m x) with
  | none | some .nop => s
  | some op => aluEffect q x op s m

/-- Every slot of a word, in one cycle. -/
def wholeWord (q : QuillIx) (s : State) (m : Micro) : State :=
  let s := wholeAlu q m .b (wholeAlu q m .a s)
  let s := match [MulOp.u, .s, .twoU, .twoS, .qs].find? fun o => m.mop.toNat == o.code with
    | some o => mulEffect q o s m | none => s
  let s := match [DivOp.u, .s, .uf].find? fun o => m.mop.toNat == o.code with
    | some o => divEffect q o s m | none => s
  let s := if readField m = 0 then s else inkReadEffect q s m
  let s := if writeField m = 0 then s else inkWriteEffect q s m
  let s := match [EventOp.pop, .peek, .count, .pred].find? fun o => m.eop.toNat == o.code with
    | some o => eventEffect q o s m | none => s
  let s := if m.cop = 0 then s else commitEffect q m.cop.toNat s m
  seqEffect q s m

/-- R242: one microword of the frozen frame as one cycle. DEDUCED (log entry 59). -/
def stepFrozen (s : State) (q : QuillIx) : State :=
  let x := s.quills[q]
  if x.halted && x.frozen then
    let s := wordSlot s q .seq (fun _ => true) (wholeWord q)
    if s.quills[q].frozen then writeBack s q else s
  else s

/-- R243: the halt ends; the frozen frame is discarded, and the quill issues nothing until its next gather. -/
def resumeQuill (s : State) (q : QuillIx) : State :=
  modQuill s q fun x => if x.halted then
      { x with halted := false, frozen := false, frozenTick := none, skip := true
               engine := { x.engine with phase := .idle, results := [], records := [], writes := [] } }
    else { x with haltReq := false }

/-! The registers of a quill (R244, R245). -/

/-- R242: what DBG_DATA0 to DBG_DATA3 show. -/
def dbgData (x : Quill) : W128 :=
  let e := x.engine
  let n := x.dbgSel.toNat
  let flags (f : AluFlags) (lo : Nat) : Nat :=
    (b2n f.z + 2 * b2n f.n + 4 * b2n f.c + 8 * b2n f.v + 16 * b2n f.e) * 2 ^ lo
  if !x.halted then 0
  else if h : n < 64 then readReg e ⟨n, h⟩
  else if n = 64 then
    BitVec.ofNat 128 (packFields
      [(32, flags e.flagsA 0 + flags e.flagsB 8 + b2n e.ev * 2 ^ 16 + b2n e.dx * 2 ^ 17 + b2n e.predv * 2 ^ 18),
       (16, e.lc0.toNat), (16, e.lc1.toNat), (32, e.stack.length), (32, eventsLeft x)])
  else if n ≤ 72 then BitVec.ofNat 128 (((e.stack.reverse[n - 65]?).map fun a => a.toNat).getD 0)
  else 0

/-- R245 STATUS. -/
def quillStatus (s : State) (x : Quill) : Word :=
  bitAt 0 (x.active && x.engine.phase == .computing && !x.halted && 64 ≤ s.time.cycle
      && s.time.cycle + 33 ≤ s.time.period)
    ||| bitAt 1 x.halted ||| bitAt 2 x.audited ||| bitAt 3 x.skip ||| bitAt 4 x.overrunLast

/-- R244: a register of a quill as it stands. -/
def quillPeek (s : State) (q : QuillIx) (off : Nat) : Word :=
  let x := s.quills[q]
  match off with
  | 0x00 => bitAt 0 x.active ||| bitAt 1 x.halfmode ||| bitAt 2 x.activeHalf ||| bitAt 3 x.paired
  | 0x04 => quillStatus s x
  | 0x08 => at_ 0 x.phys ||| at_ 16 x.moves.toNat
  | 0x0C => at_ 0 x.entry.toNat
  | 0x10 => x.version
  | 0x14 => match x.staged with
    | some g => if g.phys.isNone then bitAt 0 true ||| at_ 16 g.program else 0
    | none => 0
  | 0x18 => at_ 0 x.proved.toNat
  | 0x1C => at_ 0 x.yieldLast.toNat ||| at_ 16 x.yieldMax.toNat
  | 0x20 => lo32 x.frames
  | 0x24 => hi32 x.frames
  | 0x28 => x.ovrCause
  | 0x2C => at_ 0 x.overruns.toNat ||| at_ 16 x.disputes.toNat
  | 0x30 => at_ 0 x.inkDenied.toNat ||| at_ 16 x.regwDenied.toNat
  | 0x34 => at_ 0 x.eccCorrected.toNat ||| at_ 16 x.eccScrubbed.toNat
  | 0x38 => x.advisory
  | 0x3C => at_ 0 x.queue.entries.length ||| at_ 8 x.queue.gathered ||| at_ 16 x.queue.ovf.toNat
  | 0x40 => x.commitUse
  | 0x44 => x.evtStatus
  | 0x48 => x.evtEnable
  | 0x4C => at_ 0 x.dbgSel.toNat ||| bitAt 7 x.brkEn ||| bitAt 8 x.haltReq
  | 0x50 => if x.halted then at_ 0 x.engine.pc.toNat ||| bitAt 13 true ||| bitAt 14 x.frozen ||| at_ 16 x.engine.cycle
            else 0
  | 0x54 => word32 (dbgData x) 0
  | 0x58 => word32 (dbgData x) 1
  | 0x5C => word32 (dbgData x) 2
  | 0x60 => word32 (dbgData x) 3
  | 0x64 => bitAt 0 x.mbx.hold
  | _ => if h : 0x68 ≤ off ∧ off < 0xA8 then x.mbx.regs[(off - 0x68) / 4] else 0

/-- R244: the counters that a read clears. -/
def quillReadClear (s : State) (q : QuillIx) (off : Nat) : State :=
  match off with
  | 0x2C => modQuill s q fun x => { x with overruns := 0, disputes := 0 }
  | 0x30 => modQuill s q fun x => { x with inkDenied := 0, regwDenied := 0 }
  | 0x34 => modQuill s q fun x => { x with eccCorrected := 0, eccScrubbed := 0 }
  | _ => s

/-- R22, R245: a mailbox parameter or HOLD is written; register 16 is MBX_CTRL. -/
def writeMbx (s : State) (q : QuillIx) (reg : Fin 17) (v : Word) : State :=
  modQuill s q fun x =>
    if h : reg.val < 16 then { x with mbx := { x.mbx with regs := x.mbx.regs.set reg.val v } }
    else { x with mbx := { x.mbx with hold := tst v 0 } }

/-- R244: a write to a register of a quill. DEDUCED (log entry 63). -/
def quillWrite (s : State) (q : QuillIx) (off : Nat) (v : Word) : State :=
  match off with
  | 0x1C => modQuill s q fun x => if fld v 31 16 = 0 then x else { x with yieldMax := 0 }
  | 0x38 => modQuill s q fun x => { x with advisory := w1c x.advisory v }
  | 0x3C => modQuill s q fun x => if fld v 31 16 = 0 then x else { x with queue := { x.queue with ovf := 0 } }
  | 0x44 => modQuill s q fun x => { x with evtStatus := w1c x.evtStatus v }
  | 0x48 => modQuill s q fun x => { x with evtEnable := v &&& 0x3F }
  | 0x4C => modQuill s q fun x => { x with dbgSel := v.truncate 7 }
  | 0x64 => writeMbx s q 16 v
  | _ =>
    if h : 0x68 ≤ off ∧ off < 0xA8 then writeMbx s q ⟨(off - 0x68) / 4, by omega⟩ v else s

end Sys2Proof.Machine
end

