-- ==== Sys2Proof/Machine/Spares.lean ====
section
/-! DEFINITION. Spare takeover (R135, R136, R408 to R413): physical quills, their roles and the moves of logical
quills between them, nib cells, counter elements, PLLs. -/
namespace Sys2Proof.Machine

/-! Physical quills. -/

/-- The role of a physical quill is a spare's. -/
def isSpare : PhysRole → Bool
  | .proofreader _ | .standby | .reserved => true
  | _ => false

/-- The role is a standby's, reserved for a staged leaf or not. -/
def isStandby : PhysRole → Bool
  | .standby | .reserved => true
  | _ => false

/-- R409: the physical quill takes part in a vote. -/
def inVote (k : PoolSt) (p : PhysIx) : Bool := k.votes.any fun v => v.proof == p || v.standby == p

/-- R409: the first standby that is free: not reserved and not engaged in a vote. -/
def freeStandby (k : PoolSt) : Option PhysIx :=
  (indices 20).find? fun p => k.roles[p] == .standby && !inVote k p

/-- The role of a physical quill set. -/
def setRole (s : State) (p : PhysIx) (r : PhysRole) : State := modPool s fun k => { k with roles := k.roles.set p r }

/-- A proofreader that can become a standby: of the rotation, or of a pair. -/
def convertible (k : PoolSt) (paired : Bool) (p : PhysIx) : Bool :=
  !inVote k p && match k.roles[p] with | .proofreader o => o.isSome == paired | _ => false

/-- R408: the pair that a proofreader holds ends. -/
def endPair (s : State) (p : PhysIx) : State :=
  match s.pool.roles[p] with
  | .proofreader (some q) => modQuill s q fun x => { x with paired := false }
  | _ => s

/-- R32, R408: when no standby remains and a proofreader does, the highest one of the rotation becomes the standby,
and a paired one only after those. -/
def reviewRoles (s : State) : State :=
  let k := s.pool
  let s :=
    if (indices 20).any fun (p : PhysIx) => isStandby k.roles[p] then s
    else
      let highest (paired : Bool) : Option PhysIx := ((indices 20).filter (convertible k paired)).getLast?
      match (highest false).orElse fun _ => highest true with
      | some p => setRole (endPair s p) p .standby
      | none => s
  noteExhausted s 0 (!(indices 20).any fun (p : PhysIx) => isSpare s.pool.roles[p])

/-- R408, R413: a physical quill is retired; the cause is that of the ledger. -/
def retirePhys (s : State) (p : PhysIx) (cause unit : Nat) : State :=
  let s := addLedger (setRole (endPair s p) p .retired) 1 p cause 0
  reviewRoles (raiseFault s 28 unit)

/-- R411: a logical quill moves to a standby at a commit; it goes on fetching from the store that it fetched from. A
quill that moves again before its copy was done leaves the physical quill that it ran on, whose store it never
used. With the standby consumed, the spares are reviewed at once (R31, R32). DEDUCED (log entry 101). -/
def moveQuill (s : State) (q : QuillIx) (target : PhysIx) (cause : Nat) : State :=
  let x := s.quills[q]
  let again := s.pool.moves.any fun m => m.quill == q
  let s := modQuill s q fun x => { x with phys := target, moves := x.moves + 1 }
  let s := setRole s target (.logical q)
  let s := modPool s fun k => { k with
    moves := k.moves.filter (fun m => m.quill != q)
      ++ [{ quill := q, source := x.store, target := target, cause := cause }] }
  if again then retirePhys s x.phys cause (unitNo s .quill q) else reviewRoles s

/-- R410: the moves that wait for a commit; without a free standby the failure takes the unit to L3 (R31). -/
def movesTick (s : State) : State :=
  let wanted := s.pool.moveWanted
  forAll wanted (modPool s fun k => { k with moveWanted := [] }) fun s (q, cause) =>
    match freeStandby s.pool with
    | some p => moveQuill s q p cause
    | none => failureWithoutSpare s (unitNo s .quill q)

/-- R411: the copies of lent stores go on by one word each. -/
def storeCopies (s : State) : State :=
  if s.pool.moves.isEmpty then s
  else modPool s fun k => { k with moves := k.moves.map fun m => { m with words := min 8192 (m.words + 1) } }

/-- R411: all words of the store that a quill still borrows have been copied. -/
def moveCopied (s : State) (q : QuillIx) : Bool := s.pool.moves.any fun m => m.quill == q && 8192 ≤ m.words

/-- R411: the standby fetches from its own store, and the old physical quill is retired. -/
def moveEnds (s : State) (m : QuillMove) : State :=
  let s := { s with stores := s.stores.set m.target s.stores[m.source] }
  let s := modQuill s m.quill fun x => { x with store := m.target }
  let s := modPool s fun k => { k with
    moves := k.moves.filter fun y => y.quill != m.quill
    badStores := (if tst k.badStores m.source then setBit k.badStores m.target true else k.badStores)
      &&& ~~~(1#20 <<< m.source.val) }
  retirePhys s m.source m.cause (unitNo s .quill m.quill)

/-- R411: at the first tick after the copy. -/
def execQuillMigrationCopyDone (q : QuillIx) (s : State) : Host.Outcome State Fault Refusal :=
  finish (if moveCopied s q && s.time.cycle == 0 then
      match s.pool.moves.find? fun m => m.quill == q with
      | some m => moveEnds s m
      | none => s
    else s)

/-- R412: a physical quill whose store held a word beyond correction, once its program has left it, is retired. -/
def leaveStore (s : State) (p : PhysIx) : State :=
  if tst s.pool.badStores p then
    retirePhys (modPool s fun k => { k with badStores := k.badStores &&& ~~~(1#20 <<< p.val) }) p 2 0xFFF
  else setRole s p .standby

/-! Nib cells (R135, R136). -/

/-- The reserve cells that are healthy and serve no nib, ascending. -/
def freeCells (s : State) : List Nat :=
  let used : BitVec 512 := (indices 256).foldl (fun m (n : NibIx) => m ||| (1#512 <<< s.nibs[n].cell)) 0
  (List.range 272).filter fun c => !tst s.pool.retiredCells c && !tst used c

/-- The lowest of them. -/
def freeCell (s : State) : Option Nat := (freeCells s).head?

/-- R136: the nib can be moved at this commit. -/
def cellIdle (x : Nib) : Bool :=
  match nibMode x with
  | 0 | 2 => armedCount x == 0 && !pulseInProgress x && x.pattern.isNone
  | _ => true

/-- R136: the nib takes a reserve cell; its old one is retired (R413). DEDUCED (log entry 102). -/
def moveCell (s : State) (n : NibIx) : State :=
  let x := s.nibs[n]
  match freeCell s with
  | none => failureWithoutSpare (modNib s n fun x => { x with moveWanted := false }) (unitNo s .nib n)
  | some c =>
    let s := if tst s.pool.retiredCells x.cell then s
      else addLedger (modPool s fun k => { k with retiredCells := setBit k.retiredCells x.cell true }) 3 x.cell 5 0
    let s := modNib s n fun x => { x with
      cell := c, moveWanted := false, vernB := false, vernAOk := true, vernBOk := true
      inp := { x.inp with tdcFail := false } }
    let s := raiseFault (raiseNibEvent s n 8) 27 (unitNo s .nib n)
    noteExhausted s 2 (freeCell s).isNone

/-- R136: the move is due at this commit. -/
def cellMoveDue (s : State) (n : NibIx) : Bool :=
  s.nibs[n].moveWanted && cellIdle s.nibs[n] && s.time.cycle == 0 && s.time.rulings

/-- R136. -/
def execNibCellMove (n : NibIx) (s : State) : Host.Outcome State Fault Refusal :=
  finish (if cellMoveDue s n then moveCell s n else s)

/-! Counter elements (R410). -/

/-- The physical counter elements that are healthy and serve no logical one, ascending. -/
def freeCes (s : State) : List (Fin 544) :=
  let used : BitVec 544 := (indices 512).foldl (fun m (e : CeIx) => m ||| (1#544 <<< s.pool.ceMap[e].val)) 0
  (indices 544).filter fun c => !tst s.pool.retiredCes c && !tst used c

/-- The lowest of them. -/
def freeCe (s : State) : Option (Fin 544) := (freeCes s).head?

/-- R410: a spare takes over with everything that the element holds. -/
def takeCe (s : State) (e : CeIx) : State :=
  let s := modCe s e fun x => { x with takeover := false }
  match freeCe s with
  | none => failureWithoutSpare s (unitNo s .counter e)
  | some c =>
    let old := s.pool.ceMap[e].val
    let s := if tst s.pool.retiredCes old then s
      else addLedger (modPool s fun k => { k with retiredCes := setBit k.retiredCes old true }) 4 old 5 0
    let s := raiseFault (modPool s fun k => { k with ceMap := k.ceMap.set e c }) 26 (unitNo s .counter e)
    noteExhausted s 3 (freeCe s).isNone

/-- R410: at a commit. -/
def execCeTakeover (e : CeIx) (s : State) : Host.Outcome State Fault Refusal :=
  finish (if s.counters[e].takeover && s.time.cycle == 0 && s.time.rulings then takeCe s e else s)

/-! PLLs (R410, R424). -/

/-- The active PLL, 0 or 1. -/
def activePll (k : PoolSt) : Nat := b2n k.pllB

/-- R424: the PLL that is not active has lock. -/
def sparePllLocked (k : PoolSt) : Bool := tst k.pllLock (1 - activePll k)

/-- R410, R413: the active PLL is retired, and the spare takes the core clock with no cycle lost or added. -/
def swapPll (s : State) (cause : Nat) : State :=
  let lost := activePll s.pool
  let s := modPool s fun k => { k with
    pllB := !k.pllB
    pllLock := setBit k.pllLock lost false
    retiredPlls := setBit k.retiredPlls lost true }
  noteExhausted (raiseFault (addLedger s 6 lost cause 0) 1) 5 true

/-- R31, R393, R424: both PLLs have lost lock. With the spare retired before, this is the failure of a kind that has no
spare left, which takes the device to L3 at the least. DEDUCED (log entry 134). -/
def pllsFail (s : State) : State :=
  let s := modPool s fun k => { k with pllLock := 0 }
  raiseFault (if s.pool.retiredPlls = 0 then s else failureWithoutSpare s 0xFFF) 2

/-- R410, R424: the active PLL loses lock; without a spare in lock both have lost it (R393). -/
def execPllSwap (s : State) : Host.Outcome State Fault Refusal :=
  finish (
    let k := s.pool
    if s.power.mode = .up && !s.time.stopped && tst k.pllLock (activePll k) then
      if sparePllLocked k then swapPll s 5
      else pllsFail s
    else s)

end Sys2Proof.Machine
end

