-- ==== Sys2Proof/Machine/TrackRegs.lean ====
section
/-! DEFINITION. The registers of a tracker (R106 to R108): what a word reads, what its read clears, and what a write
does under R70. -/
namespace Sys2Proof.Machine

/-- R74, R106: RATE and ACCEL of now, as the registers show them; `n` numbers the rounding of RATE, `n + 1` that of
ACCEL (R74 does not state it). -/
def rateNow (s : State) (i : TrackIx) : W64 × W64 :=
  let (r, a) := modelRate s.trackers (nowTime s) 17 i
  (toQ32 (2 * i.val) r, toQ32 (2 * i.val + 1) a)

/-- R106: the reported position of now. -/
def posNow (s : State) (i : TrackIx) : Pos := reportedPos s.trackers (nowTime s) 17 i

/-- R107: ATn.STATUS. -/
def readTrackStatus (s : State) (i : TrackIx) : Word :=
  let t := s.trackers[i]
  at_ 0 t.state.code ||| bitAt 3 (runsBack s.trackers (nowTime s) 17 i) ||| bitAt 4 (isFull i)
    ||| bitAt 5 (!t.hist.isEmpty) ||| bitAt 6 t.suspect.isSome ||| bitAt 8 t.cfg.cfgErr

/-- R107: TOOTH2. -/
def readTooth2 (t : Tracker) : Word :=
  at_ 0 t.entry ||| bitAt 12 t.synth ||| bitAt 13 t.toothRev ||| bitAt 14 t.early

/-- R106: PRED_PERIOD in eighths, saturating. -/
def readPredPeriod (t : Tracker) : Word :=
  match predPeriod t with
  | some p => BitVec.ofNat 32 (min (2 ^ 32 - 1) p.toNat)
  | none => 0

/-- R106: a word of a tracker's registers as it stands. DESIGN CHOICE (log entry 141). -/
def atPeek (s : State) (i : TrackIx) (off : Nat) : Word :=
  let t := s.trackers[i]
  let entry := mapEntry t t.map.index.toNat
  match off with
  | 0x00 => readTrackCtrl t
  | 0x04 => readTrackStatus s i
  | 0x08 => t.cfg.src
  | 0x0C => t.cfg.refCtrl
  | 0x10 => t.cfg.refExt
  | 0x14 => t.cfg.refTol
  | 0x18 => t.cfg.predCtrl
  | 0x1C => t.cfg.widthThr
  | 0x20 => t.cfg.stallTime
  | 0x24 => t.cfg.lockLead
  | 0x28 => t.cfg.teeth
  | 0x2C => t.cfg.countsCyc
  | 0x30 => word32 (posNow s i) 0
  | 0x34 => word32 (posNow s i) 1
  | 0x38 => (word32 (posNow s i) 2 &&& 0xFFFF) ||| at_ 16 t.state.code
  | 0x3C => lo32 (rateNow s i).1
  | 0x40 => hi32 (rateNow s i).1
  | 0x44 => lo32 (rateNow s i).2
  | 0x48 => hi32 (rateNow s i).2
  | 0x4C => lo32 t.toothTime
  | 0x50 => hi32 t.toothTime
  | 0x54 => readTooth2 t
  | 0x58 => readPredPeriod t
  | 0x5C => t.angleErr
  | 0x60 => lo32 t.refPos
  | 0x64 => hi32 t.refPos
  | 0x68 => at_ 0 t.missed.toNat ||| at_ 16 t.noise.toNat
  | 0x6C => at_ 0 t.resyncs.toNat ||| at_ 16 t.refMiss.toNat
  | 0x70 => at_ 0 t.dirChanges.toNat ||| at_ 16 t.syncLosses.toNat
  | 0x74 => t.evtStatus
  | 0x78 => t.evtEnable
  | 0x7C => t.cfg.countsIdx
  | 0x80 => at_ 0 t.map.index.toNat ||| bitAt 16 t.map.autoInc
  | 0x84 => entry.angle
  | 0x88 => entry.flags.zeroExtend 32
  | 0x8C => entry.corr
  | 0x90 => t.learn.ctrl
  | 0x94 => at_ 0 t.learn.cycles.toNat ||| at_ 16 t.learn.skipped.toNat ||| bitAt 24 t.learn.limit
  | 0x98 => readSlaveCtrl t
  | 0x9C => t.gear.num
  | 0xA0 => t.gear.den
  | 0xA4 => lo32 t.gear.ofs
  | 0xA8 => hi32 t.gear.ofs
  | 0xAC => t.phase.ctrl
  | 0xB0 => t.phase.nominal
  | 0xB4 => t.phase.last
  | 0xB8 => t.phase.avg
  | 0xBC => at_ 0 t.phase.seq.toNat ||| bitAt 16 t.phase.valid ||| at_ 24 t.phase.discarded.toNat
  | _ => 0

/-- R106, R107: what a read clears, and the access of TMAP_FLAGS. -/
def atReadClear (s : State) (i : TrackIx) (off : Nat) : State :=
  match off with
  | 0x68 => modTrack s i fun t => { t with missed := 0, noise := 0 }
  | 0x6C => modTrack s i fun t => { t with resyncs := 0, refMiss := 0 }
  | 0x70 => modTrack s i fun t => { t with dirChanges := 0, syncLosses := 0 }
  | 0x88 => modTrack s i bumpIndex
  | _ => s

/-- R70: a register that EN does not lock, and whose value must be valid. -/
def writeChecked (s : State) (i : TrackIx) (ok : Bool) (f : Tracker → Tracker) : State :=
  if ok then modTrack s i f else trackCfgErr s i

/-- R103: a write of PH_CTRL that lets the block in progress go on: one that leaves EN, AVG_LOG2 and MODE as they are.
DESIGN CHOICE (log entry 142). -/
def sameBlock (old new : Word) : Bool := tst old 0 && tst new 0 && fld old 12 8 == fld new 12 8

/-- R70, R106: a write of a tracker's register. REF_POS and SLAVE_OFS are written through `atWide`.
DEDUCED (log entry 36). -/
def atWrite (s : State) (i : TrackIx) (off : Nat) (v : Word) : State :=
  match off with
  | 0x00 => writeTrackCtrl s i v
  | 0x04 => modTrack s i fun t => { t with cfg := { t.cfg with cfgErr := t.cfg.cfgErr && !tst v 8 } }
  | 0x08 => writeLocked s i (sourceOk i (fld v 2 0)) fun c => { c with src := v &&& 0x1FFF }
  | 0x0C => writeLocked s i (refCtrlOk v) fun c => { c with refCtrl := v &&& 0xFFFFDF }
  | 0x10 => writeLocked s i true fun c => { c with refExt := v &&& 0xFFF }
  | 0x14 => modTrack s i fun t => { t with cfg := { t.cfg with refTol := v } }
  | 0x18 => writeLocked s i (predCtrlOk v) fun c => { c with predCtrl := v &&& 0xFFFF0FF1 }
  | 0x1C => writeLocked s i true fun c => { c with widthThr := v }
  | 0x20 => writeChecked s i (fld v 23 0 != 0) fun t => { t with cfg := { t.cfg with stallTime := v &&& 0xFFFFFF } }
  | 0x24 => modTrack s i fun t => { t with cfg := { t.cfg with lockLead := v &&& 0xFFFFF } }
  | 0x28 => writeLocked s i (1 ≤ fld v 12 0 && fld v 12 0 ≤ 4096) fun c => { c with teeth := v &&& 0x1FFF }
  | 0x2C => writeLocked s i true fun c => { c with countsCyc := v &&& 0xFFFFFF }
  | 0x74 => modTrack s i fun t => { t with evtStatus := w1c t.evtStatus v }
  | 0x78 => modTrack s i fun t => { t with evtEnable := v &&& 0x7FFF }
  | 0x7C => writeLocked s i true fun c => { c with countsIdx := v &&& 0xFFFFFF }
  | 0x80 => modTrack s i fun t => { t with map := { t.map with index := v.truncate 12, autoInc := tst v 16 } }
  | 0x84 => writeMap s i fun m => { m with angle := v }
  | 0x88 => writeMapFlags s i v
  | 0x8C => writeMapCorr s i v
  | 0x90 => writeLearnCtrl s i v
  | 0x98 => writeSlaveCtrl s i v
  | 0x9C => modTrack s i fun t => { t with gear := { t.gear with num := v } }
  | 0xA0 => writeChecked s i (v != 0) fun t => { t with gear := { t.gear with den := v } }
  | 0xAC => writeChecked s i (fld v 11 8 ≤ 8) fun t => { t with phase := { t.phase with
      ctrl := v &&& 0x1F3F
      sum := if sameBlock t.phase.ctrl v then t.phase.sum else 0
      count := if sameBlock t.phase.ctrl v then t.phase.count else 0 } }
  | 0xB0 => modTrack s i fun t => { t with phase := { t.phase with nominal := v } }
  | _ => s

/-- R53, R106: REF_POS of a SERIAL tracker, and SLAVE_OFS, written as a whole. DEDUCED (log entry 35). -/
def atWide (s : State) (i : TrackIx) (off : Nat) (v : W64) : State :=
  match off with
  | 0x60 =>
    if srcKind s.trackers[i] != .serial then s
    else if s.trackers[i].cfg.en then trackCfgErr s i
    else modTrack s i fun t => { t with refPos := v }
  | 0xA4 => modTrack s i fun t => { t with gear := { t.gear with ofs := v } }
  | _ => s

end Sys2Proof.Machine
end

