-- ==== Sys2Proof/Machine/Units.lean ====
section
/-! DEFINITION. Units in force: own and effective enables (R271), the CONTROL register and what waits for a commit
(R20, R26), the directory (R272), headers (R273, R274) and glyph windows (R275). -/
namespace Sys2Proof.Machine

/-! Enables (R271). -/

/-- The resource of a unit, as an index of its bank. -/
def resNib (x : UnitSt) : NibIx := Fin.ofNat 256 x.rec_.resource
def resTrack (x : UnitSt) : TrackIx := Fin.ofNat 16 x.rec_.resource
def resFb (x : UnitSt) : FbIx := Fin.ofNat 16 x.rec_.resource
def resComp (x : UnitSt) : AcIx := Fin.ofNat 32 x.rec_.resource
def resCe (x : UnitSt) : CeIx := Fin.ofNat 512 x.rec_.resource
def resStream (x : UnitSt) : StreamIx := Fin.ofNat 8 x.rec_.resource
def resLink (x : UnitSt) : LinkIx := Fin.ofNat 64 x.rec_.resource
def resQuill (x : UnitSt) : QuillIx := Fin.ofNat 16 x.rec_.resource

/-- R269: a FEEDBACK unit's enables: the channel's and the emulator's. -/
def selChannel (x : UnitSt) : Bool := tst x.rec_.typeData 0
def selEmulator (x : UnitSt) : Bool := tst x.rec_.typeData 1

/-- R271: the own enable of a unit. -/
def ownEnable (s : State) (x : UnitSt) : Bool :=
  match x.rec_.kind with
  | .glyph | .quill | .inkwell | .dmaChannel => x.enable
  | .nib => tst s.nibs[resNib x].ctrl 0
  | .tracker => s.trackers[resTrack x].cfg.en
  | .feedback =>
    let c := s.channels[resFb x]
    (selChannel x && fbEn c) || (selEmulator x && tst c.emu.ctrl 0)
  | .comparator => acEn s.comparators[resComp x]
  | .converter => tst s.adc.ctrl 0
  | .counter => ceEn s.counters[resCe x]
  | .captureStream => tst s.streams[resStream x].ctrl 0
  | .reflex => s.links[resLink x].en

/-- R271: the unit is effectively enabled. -/
def unitEffective (s : State) (x : UnitSt) : Bool :=
  ownEnable s x && aboveOn s.folio.units (s.folio.units.length + 1) x.rec_.parent

/-- R244, R271: whether a quill runs frames, after its own enable or a glyph above it changed, or a start or stop. -/
def quillReview (s : State) (q : QuillIx) : State :=
  let want := s.folio.started && !s.scribe.stoppedSafe && (match unitOf s .quill q with
    | some u => unitEffective s u
    | none => false)
  if want = s.quills[q].active then s
  else modQuill s q fun x => { x with
    active := want
    engine := { x.engine with phase := .idle, results := [], records := [], writes := [] } }

/-- R271: the effective enable of a primitive, after a glyph above it changed. -/
def reviewUnit (s : State) (x : UnitSt) : State :=
  match x.rec_.kind with
  | .glyph | .inkwell | .dmaChannel => s
  | .quill => quillReview s (resQuill x)
  | .nib => nibReview s (resNib x)
  | .tracker => trackReview s (resTrack x)
  | .feedback => emuReview (fbReview s (resFb x)) (resFb x)
  | .comparator => compReview s (resComp x)
  | .converter => adcReview s
  | .counter => ceReview s (resCe x)
  | .captureStream => streamReview s (resStream x)
  | .reflex => linkReview s (resLink x)

/-- R271: every primitive below a unit, in ascending unit index. -/
def reviewBelow (s : State) (u : Nat) : State := forAll (subtree s.folio.units u) s reviewUnit

/-- A write of a unit's own enable, which differs from its present value. -/
def putOwnEnable (s : State) (x : UnitSt) (on : Bool) : State :=
  match x.rec_.kind with
  | .glyph => reviewBelow (modUnit s x.rec_.unit fun y => { y with enable := on }) x.rec_.unit
  | .quill => quillReview (modUnit s x.rec_.unit fun y => { y with enable := on }) (resQuill x)
  | .inkwell | .dmaChannel => modUnit s x.rec_.unit fun y => { y with enable := on }
  | .nib => writeNibCtrl s (resNib x) (setBit s.nibs[resNib x].ctrl 0 on)
  | .tracker => writeTrackCtrl s (resTrack x) (setBit (readTrackCtrl s.trackers[resTrack x]) 0 on)
  | .feedback =>
    let b := resFb x
    let s := if selChannel x && fbEn s.channels[b] != on then writeFbCtrl s b (setBit s.channels[b].ctrl 0 on) else s
    if selEmulator x && tst s.channels[b].emu.ctrl 0 != on then
      writeEmuCtrl s b (setBit s.channels[b].emu.ctrl 0 on) else s
  | .comparator => writeAcCtrl s (resComp x) (setBit s.comparators[resComp x].ctrl 0 on)
  | .converter => writeAdcCtrl s (setBit s.adc.ctrl 0 on)
  | .counter => setCeCtrl s (resCe x) (setBit s.counters[resCe x].ctrl 0 on) false
  | .captureStream => writeCsCtrl s (resStream x) (setBit s.streams[resStream x].ctrl 0 on)
  | .reflex => writeRlCtrl s (resLink x) (setBit (readRlCtrl s.links[resLink x]) 0 on)

/-- R271: a unit's own enable is written; the enables of a FEEDBACK unit can differ, and both take the value. -/
def setOwnEnable (s : State) (u : Nat) (on : Bool) : State :=
  match findUnit s.folio.units u with
  | some x => if x.rec_.kind != .feedback && ownEnable s x == on then s else putOwnEnable s x on
  | none => s

/-! CONTROL and APPLY (R20, R26, R271, R278). -/

/-- A header action that waits for its commit. -/
def pendCtrl (s : State) (u : Nat) (act : CtrlAct) : State :=
  modFolio s fun k => { k with ctrlPend := k.ctrlPend ++ [{ unit := u, act := act, ticks := commitTicks s }] }

/-- R271: a write of CONTROL.ENABLE. -/
def askEnable (s : State) (u : Nat) (on : Bool) : State :=
  if (findUnit s.folio.units u).isSome then pendCtrl s u (.enable on) else s

/-- R26: SAFE written with 1 acts at once; a release that waits is dropped. DEDUCED (log entry 106). -/
def setSafe (s : State) (u : Nat) : State :=
  if (findUnit s.folio.units u).isSome then
    let s := modUnit s u fun x => { x with safe := true }
    let s := modFolio s fun k => { k with
      ctrlPend := k.ctrlPend.filter fun c => !(c.unit == u && c.act == .safeRelease) }
    raiseGlyphEvent (reviewSafe s) u 1
  else s

/-- R26: SAFE written with 0 waits for its commit. -/
def askRelease (s : State) (u : Nat) : State :=
  if (findUnit s.folio.units u).isSome then pendCtrl s u .safeRelease else s

/-- R278: APPLY, ignored on a primitive and on a glyph with no parameters; one that waits for the same tick already
stands for it (R296). -/
def askApply (s : State) (u : Nat) : State :=
  match findUnit s.folio.units u with
  | some x =>
    if x.rec_.kind != .glyph || x.params.isEmpty
        || (s.folio.ctrlPend.any fun c => c.unit == u && c.act == .apply && c.ticks == commitTicks s) then s
    else pendCtrl s u .apply
  | none => s

/-- R20, R253 step 5: the header actions, other than APPLY, that take effect at this tick, in order of acceptance. -/
def ctrlActs (s : State) (due : List CtrlPend) : State :=
  forAll due s fun s c =>
    match c.act with
    | .enable on => setOwnEnable s c.unit on
    | .safeRelease => modUnit s c.unit fun x => { x with safe := false }
    | .apply => s

/-! The directory and the headers (R272 to R274). -/

/-- R268, R272: a word of a unit record. -/
def recWord (r : UnitRec) (i : Nat) : Word :=
  match i with
  | 0 => at_ 0 r.unit ||| at_ 16 r.parent
  | 1 => at_ 0 r.kind.code ||| at_ 8 r.uflags ||| at_ 16 r.resource
  | 2 => at_ 0 r.leaf ||| at_ 16 r.paramCount
  | 3 => at_ 0 r.window ||| at_ 16 r.eicSrc
  | 4 => lo32 r.name
  | 5 => hi32 r.name
  | 6 => lo32 r.typeData
  | 7 => hi32 r.typeData
  | _ => 0

/-- R272: a word of the directory. -/
def directoryWord (s : State) (u i : Nat) : Word :=
  match findUnit s.folio.units u with
  | some x => recWord x.rec_ i
  | none => 0

/-- R273: how far a unit lies below the root. -/
def depthOf (us : List UnitSt) : Nat → Nat → Nat
  | 0, _ => 0
  | fuel + 1, p =>
    if p = 0xFFFF then 0
    else match findUnit us p with
      | some g => 1 + depthOf us fuel g.rec_.parent
      | none => 0

/-- The direct children of a unit, ascending. -/
def childrenOf (us : List UnitSt) (u : Nat) : List Nat :=
  (us.filter fun x => x.rec_.parent == u).map fun x => x.rec_.unit

/-- R274: STATUS of a header. -/
def headerStatus (s : State) (x : UnitSt) : Word :=
  let waits (f : CtrlAct → Bool) : Bool := s.folio.ctrlPend.any fun c => c.unit == x.rec_.unit && f c.act
  bitAt 0 (unitEffective s x)
    ||| bitAt 1 (safeAbove s.folio.units (s.folio.units.length + 1) x.rec_.unit)
    ||| bitAt 2 (waits fun a => a == .apply)
    ||| bitAt 3 (waits fun a => a != .apply)
    ||| bitAt 4 (x.rec_.leaf != 0 && s.co.staged.any fun l => l.image.leaf == x.rec_.leaf)
    ||| at_ 8 x.rec_.paramCount

/-- R273: a register of a unit's header as it stands. -/
def headerOf (s : State) (x : UnitSt) (off : Nat) : Word :=
  let us := s.folio.units
  match off with
  | 0x00 => at_ 0 x.rec_.unit ||| at_ 16 x.rec_.leaf
  | 0x04 => at_ 0 x.rec_.kind.code ||| at_ 16 x.rec_.resource
  | 0x08 => at_ 0 x.rec_.parent ||| at_ 16 (depthOf us (us.length + 1) x.rec_.parent)
  | 0x0C => at_ 0 (childrenOf us x.rec_.unit).length ||| at_ 16 ((subtree us x.rec_.unit).length - 1)
  | 0x10 => headerStatus s x
  | 0x14 => bitAt 0 (ownEnable s x) ||| bitAt 1 x.safe
  | 0x18 => x.generation
  | 0x1C => unitEventStatus s x
  | 0x20 => (ownEvents s x).2
  | _ => 0

/-- R273: a register of the header of an index; an empty index reads zero. -/
def headerPeek (s : State) (u off : Nat) : Word :=
  match findUnit s.folio.units u with
  | some x => headerOf s x off
  | none => 0

/-- The EVT_STATUS (`status`) or EVT_ENABLE of the block of a primitive written (R274). -/
def writeBlockEvents (s : State) (k : UnitType) (i : Nat) (status : Bool) (v : Word) : State :=
  let off (a b : Nat) : Nat := if status then a else b
  match k with
  | .quill => quillWrite s (Fin.ofNat 16 i) (off 0x44 0x48) v
  | .inkwell => inkWrite s (0x100 + 64 * i + off 0x28 0x2C) v
  | .nib => nibWrite s (Fin.ofNat 256 i) (off 0x20 0x24) v
  | .tracker => atWrite s (Fin.ofNat 16 i) (off 0x74 0x78) v
  | .feedback => fbWrite s (Fin.ofNat 16 i) (off 0x64 0x68) v
  | .comparator => acWrite s (Fin.ofNat 32 i) (off 0x0C 0x10) v
  | .converter => adcWrite s (off 0x20 0x24) v
  | _ => s

/-- R273, R274: a write to a unit's header; an empty index ignores it. -/
def headerWrite (s : State) (u off : Nat) (v : Word) : State :=
  match findUnit s.folio.units u with
  | none => s
  | some x =>
    match off with
    | 0x14 =>
      let s := askEnable s u (tst v 0)
      if tst v 1 then setSafe s u else askRelease s u
    | 0x1C =>
      if x.rec_.kind = .glyph then modUnit s u fun y => { y with
        applied := y.applied && !tst v 0, safeEntered := y.safeEntered && !tst v 1 }
      else writeBlockEvents s x.rec_.kind x.rec_.resource true v
    | 0x20 =>
      if x.rec_.kind = .glyph then modUnit s u fun y => { y with evtEnable := v &&& 7 }
      else writeBlockEvents s x.rec_.kind x.rec_.resource false v
    | 0x24 => if tst v 0 then askApply s u else s
    | _ => s

/-! Glyph windows (R275). -/

/-- The glyph that holds a window. -/
def windowUnit (s : State) (w : Nat) : Option UnitSt :=
  s.folio.units.find? fun x => x.rec_.kind == .glyph && x.rec_.window == w

/-- R275: CHILDRENj. -/
def childrenWord (s : State) (x : UnitSt) (j : Nat) : Word :=
  let cs := childrenOf s.folio.units x.rec_.unit
  at_ 0 (cs.getD (2 * j) 0xFFFF) ||| at_ 16 (cs.getD (2 * j + 1) 0xFFFF)

/-- R275: a register of a glyph window as it stands. -/
def windowPeek (s : State) (w off : Nat) : Word :=
  match windowUnit s w with
  | none => 0
  | some x =>
    if off < 0x40 then headerOf s x off
    else if 0x100 ≤ off ∧ off < 0x200 then ((x.params[(off - 0x100) / 4]?).map (·.shadow)).getD 0
    else if 0x200 ≤ off ∧ off < 0x300 then ((x.params[(off - 0x200) / 4]?).map (·.force)).getD 0
    else if 0x400 ≤ off then childrenWord s x ((off - 0x400) / 4)
    else 0

/-- One parameter of a glyph changed. -/
def modParam (s : State) (u k : Nat) (f : Param → Param) : State :=
  modUnit s u fun x => { x with params := x.params.modify k f }

/-- R275, R278: a write to a glyph window; a parameter's shadow takes the value. -/
def windowWrite (s : State) (w off : Nat) (v : Word) : State :=
  match windowUnit s w with
  | none => s
  | some x =>
    if off < 0x40 then headerWrite s x.rec_.unit off v
    else if 0x100 ≤ off ∧ off < 0x200 then
      modParam s x.rec_.unit ((off - 0x100) / 4) fun y => { y with shadow := v }
    else s

/-- The parameter that a BAR0 address names as PARAMk: its glyph and number (R275). -/
def paramAt (s : State) (addr : Nat) : Option (Nat × Nat) :=
  if 0x1800000 ≤ addr ∧ addr < 0x2000000 then
    let off := (addr - 0x1800000) % 4096
    match windowUnit s ((addr - 0x1800000) / 4096) with
    | some x =>
      let k := (off - 0x100) / 4
      if 0x100 ≤ off ∧ off < 0x200 ∧ k < x.params.length then some (x.rec_.unit, k) else none
    | none => none
  else none

end Sys2Proof.Machine
end

