-- ==== Sys2Proof/Machine/ScribeRings.lean ====
section
/-! DEFINITION. The scribe's command interface (R378 to R382): rings, mailbox, sequence numbers, responses, ABORT, and
the SCRIBE registers (R390, R391). -/
namespace Sys2Proof.Machine

/-! Commands and responses (R378). -/

/-- The fields of a command. -/
def cmdOpcode (b : BitVec 512) : Nat := fld b 7 0
def cmdNoIrq (b : BitVec 512) : Bool := tst b 8
def cmdTag (b : BitVec 512) : Nat := fld b 31 16
def cmdArg (b : BitVec 512) (i : Nat) : W64 := word64 b (1 + i)

/-- The opcodes of R383. -/
def opIdentify : Nat := 0x01
def opGetHealth : Nat := 0x02
def opLoadFolio : Nat := 0x10
def opVerifyFolio : Nat := 0x11
def opStart : Nat := 0x12
def opStopToSafe : Nat := 0x13
def opStageLeaf : Nat := 0x14
def opChangeover : Nat := 0x15
def opDiscardStaged : Nat := 0x16
def opReadUnitDir : Nat := 0x20
def opMarch : Nat := 0x30
def opRepairStatus : Nat := 0x31
def opRetireResource : Nat := 0x32
def opInjectFault : Nat := 0x40
def opAckFault : Nat := 0x41
def opLoadPatch : Nat := 0x50
def opPatchStatus : Nat := 0x51
def opTbSet : Nat := 0x60
def opTbTrim : Nat := 0x61
def opSleep : Nat := 0x70
def opStandby : Nat := 0x71
def opAbort : Nat := 0x7F
def opSnapshot : Nat := 0x80
def opKeyEnroll : Nat := 0x90

/-- R383: the commands with no commit point. -/
def committless (op : Nat) : Bool :=
  [opIdentify, opGetHealth, opVerifyFolio, opReadUnitDir, opRepairStatus, opPatchStatus, opAbort, opSnapshot].contains op

/-- The statuses of R387. -/
def stSuccess : Nat := 0x00
def stBadOpcode : Nat := 0x01
def stBadField : Nat := 0x02
def stBadState : Nat := 0x03
def stImage : Nat := 0x04
def stBusError : Nat := 0x05
def stAborted : Nat := 0x06
def stTooLate : Nat := 0x07
def stNotFound : Nat := 0x08
def stAuth : Nat := 0x09
def stSync : Nat := 0x0A
def stRestart : Nat := 0x0B
def stExpired : Nat := 0x0C
def stLate : Nat := 0x0D
def stUnready : Nat := 0x0E
def stNoPath : Nat := 0x0F
def stDenied : Nat := 0x10
def stNoSpare : Nat := 0x11

/-- R383: the argument bits that a command names, arguments 0 to 3; the others have none. -/
def argMasks (op : Nat) : Option (List W64) :=
  let all : W64 := BitVec.allOnes 64
  let report : W64 := ~~~0xF
  let half : W64 := 0xFFFFFFFF
  if op ∈ [opIdentify, opGetHealth, opRepairStatus, opSnapshot] then some [report]
  else if op ∈ [opLoadFolio, opVerifyFolio, opStageLeaf, opLoadPatch] then some [all, half]
  else if op = opStart then some [all]
  else if op ∈ [opStopToSafe, opDiscardStaged, opPatchStatus] then some []
  else if op = opChangeover then some [0xFF, half, all, all]
  else if op = opReadUnitDir then some [report, 0x1FFF0FFF]
  else if op = opMarch then some [0x3F03, half]
  else if op = opRetireResource then some [0xFFFFFF]
  else if op = opInjectFault then some [0xFFFF000F, 0xFFFF]
  else if op = opAckFault then some [0x1FF]
  else if op = opTbSet then some [all, all]
  else if op = opTbTrim then some [half, half, half]
  else if op = opSleep then some [0xD]
  else if op = opStandby then some [all, 0x3]
  else if op = opAbort then some [0xFFFF]
  else if op = opKeyEnroll then some [all, half]
  else none

/-- R378: the byte offset of the first field with a reserved bit that is not zero. -/
def reservedField (b : BitVec 512) (masks : List W64) : Option Nat :=
  if fld b 15 9 ≠ 0 then some 1
  else if word32 b 1 ≠ 0 then some 4
  else ((List.range 7).find? fun i => (cmdArg b i &&& ~~~(masks.getD i 0)) != 0).map fun i => 8 + 8 * i

/-- R378: a response as it is written, with its PHASE. -/
def responseBytes (r : Response) (phase : Bool) : List Byte :=
  leBytes 32 (packFields [(32, r.seq.toNat), (16, r.tag.toNat), (8, r.opcode.toNat), (8, r.status), (32, r.detail),
    (32, b2n phase + 2 * b2n r.restarted), (64, r.result0.toNat), (64, r.result1.toNat)])

/-- R379: the response ring is full. -/
def rspFull (r : ScribeRing) : Bool := (r.prod - r.cons).toNat == 2 ^ r.sizeLog2.toNat

/-- R390: whether a status counts as refused. -/
def isRefusal (st : Nat) : Bool := (1 ≤ st && st ≤ 5) || (9 ≤ st && st ≤ 0x11)

/-- R380: a response into the mailbox. -/
def mailboxResponse (s : State) (r : Response) : State :=
  let bytes := BitVec.ofNat 256 (leNat (responseBytes r false))
  let s := modScribe s fun c => { c with
    mbx := Vector.ofFn fun (i : Fin 16) => if i.val < 8 then word32 bytes i else 0
    busy := false
    done := true }
  if r.noIrq then s else pushCause s 2

/-- R379: a response into the ring, which has room; a ring that is off takes none. -/
def ringResponse (s : State) (r : Response) : State :=
  let k := s.scribe.rsp
  if !k.en then s
  else
    let size := 2 ^ k.sizeLog2.toNat
    let s := post s (.write (k.base + BitVec.ofNat 64 (32 * (k.prod.toNat % size))) (responseBytes r k.phase))
    let s := modScribe s fun c => { c with rsp := { c.rsp with
      prod := k.prod + 1
      phase := if (k.prod + 1).toNat % size = 0 then !k.phase else k.phase } }
    if r.noIrq then s else pushCause s 1

/-- R379 to R381: a response is written. -/
def writeResponse (s : State) (r : Response) : State :=
  let s := if r.mailbox then mailboxResponse s r else ringResponse s r
  modScribe s fun c => { c with
    doneSeq := r.seq
    aborted := if r.status = stAborted then satAdd c.aborted 1 else c.aborted
    refused := if isRefusal r.status then satAdd c.refused 1 else c.refused }

/-- R379, R388: a response is written now, or held by a full ring or by a restart. -/
def giveResponse (s : State) (r : Response) : State :=
  let full := !r.mailbox && s.scribe.rsp.en && rspFull s.scribe.rsp
  if full || s.scribe.restarting then modScribe s fun c => { c with held := some r, rspWait := full }
  else writeResponse s r

/-- R378: the command in turn completes. -/
def completeHead (s : State) (status : Nat) (detail : Nat := 0) (r0 : W64 := 0) (r1 : W64 := 0) : State :=
  match s.scribe.queue with
  | [] => s
  | e :: rest =>
    let b := e.bytes.getD 0
    let s := modScribe s fun c => { c with
      queue := rest
      ended := if status = stSuccess ∧ !committless (cmdOpcode b) then some (s.time.tb, cmdTag b, e.seq) else c.ended
      timeMax := BitVec.ofNat 16 (max c.timeMax.toNat (min 0xFFFF (e.ns / 100000))) }
    giveResponse s {
      seq := e.seq, tag := BitVec.ofNat 16 (cmdTag b), opcode := BitVec.ofNat 8 (cmdOpcode b), status := status
      detail := detail, result0 := r0, result1 := r1, restarted := e.restarted, noIrq := cmdNoIrq b
      mailbox := e.mailbox }

/-! ABORT (R382). -/

/-- R304, R314: a trigger that is disarmed, with its outcome. -/
def disarm (s : State) (o : CoOutcome) : State :=
  modCo s fun k => { k with
    trigger := none, phase := .none, expire := 0, last := none, outcome := o, notTaken := k.notTaken + 1 }

/-- R382, R388: what a command in progress before its commit point has arranged is undone. -/
def undoCmd (s : State) (op : Nat) : State :=
  if op = opStart then modFolio s fun k => { k with startAt := none }
  else if op = opChangeover then disarm s .aborted
  else if op = opTbSet then modTime s fun t => { t with tbSet := none }
  else if op = opSnapshot then modScribe s fun c => { c with snapDue := false }
  else s

/-- The tag of a command that has been fetched. -/
def entryTag (e : CmdEntry) : Option Nat := e.bytes.map cmdTag

/-- R382: the oldest command with a tag among those before an ABORT. -/
def abortTarget (queue : List CmdEntry) (seq : Word) (tag : Nat) : Option CmdEntry :=
  (queue.takeWhile fun e => e.seq != seq).find? fun e => entryTag e == some tag

/-- One entry of the queue changed. -/
def modEntry (s : State) (seq : Word) (f : CmdEntry → CmdEntry) : State :=
  modScribe s fun c => { c with queue := c.queue.map fun e => if e.seq = seq then f e else e }

/-- The frame number of the coming tick. -/
def comingFrame (s : State) : W64 := match syncStep s with | some (_, f) => f | none => s.time.nextFrame

/-- The close of a frame begins in this cycle (R16), once. -/
def closeDue (s : State) : Bool :=
  s.time.rulings && !s.time.stopped && !s.time.closed && s.time.cycle + 32 == s.time.period

/-- R382, R384: a START is refused at its commit point: the follower is not locked. -/
def startRefused (s : State) : Bool := isFollower s && s.time.sync.state != .locked

/-- R304, R382: the command in progress reaches its commit point in the present cycle, that of a close.
DEDUCED (log entry 177). -/
def commitsNow (s : State) (op : Nat) : Bool :=
  closeDue s
    && ((op == opChangeover && s.co.phase == .armed && s.co.trigger == some (.frame (comingFrame s)))
      || (op == opStart && s.folio.startAt == some (comingFrame s) && !startRefused s))

/-- R382: an ABORT with no target, or too late for one that has completed in the present cycle. -/
def abortMissed (s : State) (e : CmdEntry) (tag : Nat) : State :=
  match s.scribe.ended with
  | some (t, g, seq) =>
    if t = s.time.tb ∧ g = tag then modEntry s e.seq fun e => { e with abort := some (seq, true) }
    else modEntry s e.seq fun e => { e with abortNone := true }
  | none => modEntry s e.seq fun e => { e with abortNone := true }

/-- R382, R389: a response that is held cannot be withdrawn: its command has passed its commit point, or is a CHANGEOVER
whose outcome stands. DEDUCED (log entry 193). -/
def heldStands (r : Response) : Bool :=
  (r.status == stSuccess && !committless r.opcode.toNat) || r.opcode.toNat == opChangeover

/-- R304, R312, R382, R389: an ABORT acts; the oldest command is one whose response is held.
DEDUCED (log entry 96). -/
def actAbort (s : State) (e : CmdEntry) : State :=
  let tag := fld (cmdArg (e.bytes.getD 0) 0) 15 0
  match s.scribe.held.filter fun r => r.tag.toNat == tag && r.opcode.toNat != opAbort with
  | some r =>
    let s := modEntry s e.seq fun e => { e with abort := some (r.seq, heldStands r) }
    if heldStands r then s
    else modScribe s fun c => { c with
      held := some { r with status := stAborted, detail := 0, result0 := 0, result1 := 0 } }
  | none =>
  match abortTarget s.scribe.queue e.seq tag with
  | none => abortMissed s e tag
  | some t =>
    let op := cmdOpcode (t.bytes.getD 0)
    if op = opAbort then modEntry s e.seq fun e => { e with abortNone := true }
    else
      let late := t.phase == .committed || (t.phase == .started && commitsNow s op)
      let s := modEntry s e.seq fun e => { e with abort := some (t.seq, late) }
      if late then s
      else
        let s := if t.phase = .started then undoCmd s op else s
        modEntry s t.seq fun t => { t with cancelled := true }

/-- R382, R389: every ABORT that has been fetched and has not acted; a restart delays them. -/
def actAborts (s : State) : State :=
  if s.scribe.restarting then s
  else forAll (s.scribe.queue.filter fun e => (e.bytes.map cmdOpcode) == some opAbort && e.abort.isNone && !e.abortNone)
    s actAbort

/-! The command in turn (R381). -/

/-- The scribe starts no command: it restarts, a response is held, or Sleep or Standby is to be entered
(R379, R384, R388). -/
def scribeWaits (s : State) : Bool :=
  s.scribe.restarting || s.scribe.held.isSome || !s.scribe.ready || s.scribe.entry.isSome

/-- R378, R381, R382: the status and results with which the command in turn completes of itself.
DEDUCED (log entry 94). -/
def turnStatus (e : CmdEntry) (b : BitVec 512) : Option (Nat × Nat × W64) :=
  let op := cmdOpcode b
  if e.cancelled then some (stAborted, if op = opChangeover then CoOutcome.aborted.code else 0, 0)
  else match argMasks op with
    | none => some (stBadOpcode, 0, 0)
    | some masks =>
      match reservedField b masks with
      | some off => some (stBadField, off, 0)
      | none =>
        if op != opAbort then none
        else match e.abort with
          | some (seq, late) => some (if late then stTooLate else stSuccess, 0, seq.zeroExtend 64)
          | none => if e.abortNone then some (stNotFound, 0, 0) else none

/-- R381: commands that complete as soon as it is their turn do so, in order. -/
def scribeTurnFor : Nat → State → State
  | 0, s => s
  | fuel + 1, s =>
    if scribeWaits s then s
    else match s.scribe.queue with
      | [] => s
      | e :: _ =>
        match e.bytes with
        | none => s
        | some b =>
          match turnStatus e b with
          | some (st, detail, r0) => scribeTurnFor fuel (completeHead s st detail r0)
          | none => s

/-- R381. -/
def scribeTurn (s : State) : State := scribeTurnFor (s.scribe.queue.length + 1) s

/-- The bytes of the command in turn, if it is the given one and has not started. -/
def headFor (s : State) (op : Nat) : Option (BitVec 512) :=
  if scribeWaits s || s.power.mode != .up then none
  else match s.scribe.queue with
    | e :: _ =>
      match e.bytes with
      | some b => if cmdOpcode b = op ∧ e.phase = .waiting ∧ (turnStatus e b).isNone then some b else none
      | none => none
    | [] => none

/-- How far the command in progress is, if it is the given one. -/
def headPhase (s : State) (op : Nat) : Option CmdPhase :=
  match s.scribe.queue with
  | e :: _ => if (e.bytes.map cmdOpcode) = some op ∧ e.phase ≠ .waiting then some e.phase else none
  | [] => none

/-- The command in turn reaches a phase. -/
def setHeadPhase (s : State) (ph : CmdPhase) : State :=
  modScribe s fun c => { c with queue := match c.queue with | e :: rest => { e with phase := ph } :: rest | [] => [] }

/-- A command in turn completes, and the next has its turn. -/
def endCmd (s : State) (status : Nat) (detail : Nat := 0) (r0 : W64 := 0) (r1 : W64 := 0) : State :=
  scribeTurn (completeHead s status detail r0 r1)

/-! Submission (R379 to R381). -/

/-- R381: a command takes its sequence number. A ring entry goes before a mailbox command of the same cycle that has
not started. -/
def submit (s : State) (bytes : Option (BitVec 512)) (mailbox : Bool) : State :=
  let c := s.scribe
  let new : CmdEntry := { seq := c.seq, bytes := bytes, mailbox := mailbox, at_ := s.time.tb }
  match c.queue.getLast? with
  | some m =>
    if !mailbox && m.mailbox && m.at_ == s.time.tb && m.phase == .waiting then
      modScribe s fun c => { c with
        seq := c.seq + 1, mbxSeq := c.seq.truncate 16
        queue := c.queue.dropLast ++ [{ new with seq := m.seq }, { m with seq := c.seq }] }
    else modScribe s fun c => { c with seq := c.seq + 1, queue := c.queue ++ [new] }
  | none => modScribe s fun c => { c with seq := c.seq + 1, queue := [new] }

/-- Ring entries submitted and not yet fetched. -/
def unfetched (c : Scribe) : Nat := (c.queue.filter fun e => e.bytes.isNone).length

/-- R379: a write of CMD_TAIL. DEDUCED (log entry 93). -/
def writeCmdTail (s : State) (v : Word) : State :=
  let c := s.scribe
  let tail : BitVec 16 := v.truncate 16
  let ahead := (tail - c.cmd.cons).toNat
  if !c.cmd.en then s
  else if 2 ^ c.cmd.sizeLog2.toNat < ahead then modScribe s fun c => { c with ringErr := true }
  else
    let s := modScribe s fun c => { c with cmd := { c.cmd with prod := tail }, fetchFailed := false }
    forAll (List.range (ahead - unfetched c)) s fun s _ => submit s none false

/-- R379: the scribe fetches the next entry, unless the fetch fails on the bus. -/
def fetchCommand (s : State) (entry : BitVec 512) : State :=
  match s.scribe.queue.find? fun e => e.bytes.isNone with
  | none => s
  | some e =>
    if s.power.mode != .up || s.scribe.fetchFailed then s
    else if (noRequest s).isSome then modScribe s fun c => { c with ringErr := true, fetchFailed := true }
    else
      let s := modEntry s e.seq fun e => { e with bytes := some entry }
      let s := modScribe s fun c => { c with cmd := { c.cmd with cons := c.cmd.cons + 1 } }
      scribeTurn (actAborts s)

/-- R380: the command in the mailbox registers. -/
def mailboxCommand (c : Scribe) : BitVec 512 :=
  BitVec.ofNat 512 (packFields (c.mbx.toList.map fun w => (32, w.toNat)))

/-- R380: GO. -/
def submitMailbox (s : State) : State :=
  if s.scribe.busy then s
  else
    let b := mailboxCommand s.scribe
    let s := modScribe s fun c => { c with busy := true, done := false, mbxSeq := c.seq.truncate 16 }
    scribeTurn (actAborts (submit s (some b) true))

/-- R379: a held response is written once it has room and no restart holds it. -/
def releaseHeld (s : State) : State :=
  match s.scribe.held with
  | none => s
  | some r =>
    if s.scribe.restarting || (!r.mailbox && s.scribe.rsp.en && rspFull s.scribe.rsp) then s
    else scribeTurn (writeResponse (modScribe s fun c => { c with held := none, rspWait := false }) r)

/-- R379: a write of RSP_CONS. -/
def writeRspCons (s : State) (v : Word) : State :=
  releaseHeld (modScribe s fun c => { c with rsp := { c.rsp with cons := v.truncate 16 } })

/-- R379, R391: a ring after a write of its control register; true where the size is refused. -/
def ringCtrl (k : ScribeRing) (v : Word) : ScribeRing × Bool :=
  let size := fld v 7 4
  let sized := if k.en then k else { k with sizeLog2 := BitVec.ofNat 4 size }
  if !tst v 0 then ({ sized with en := false }, false)
  else if k.en then (k, false)
  else if 4 ≤ size ∧ size ≤ 12 then ({ sized with en := true, prod := 0, cons := 0, phase := true }, false)
  else ({ sized with en := false }, true)

/-- R379: a write of CMD_CTRL or RSP_CTRL. A command ring that is set up anew forgets entries not yet fetched. -/
def writeRingCtrl (s : State) (rsp : Bool) (v : Word) : State :=
  if rsp then
    let (k, err) := ringCtrl s.scribe.rsp v
    releaseHeld (modScribe s fun c => { c with rsp := k, ringErr := c.ringErr || err })
  else
    let (k, err) := ringCtrl s.scribe.cmd v
    let fresh := k.en && !s.scribe.cmd.en
    modScribe s fun c => { c with
      cmd := k
      ringErr := c.ringErr || err
      fetchFailed := c.fetchFailed && !fresh
      queue := if fresh then c.queue.filter fun e => e.bytes.isSome else c.queue }

/-! Registers (R390, R391). -/

/-- R391: STATUS.FOLIO. -/
def folioCode (s : State) : Nat :=
  if s.scribe.stoppedSafe then 3 else if s.folio.started then 2 else if s.folio.loaded then 1 else 0

/-- R391. -/
def scribeStatus (s : State) : Word :=
  let c := s.scribe
  bitAt 0 c.ready ||| at_ 1 (folioCode s) ||| bitAt 3 c.keyHash.isSome ||| bitAt 4 (c.patch != 0)
    ||| bitAt 5 c.restarting ||| bitAt 6 c.rspWait ||| bitAt 7 c.ringErr ||| bitAt 8 c.notice

/-- R390: FW_VERSION. -/
def fwVersion (s : State) : Word := at_ 0 s.scribe.patch.toNat ||| at_ 16 Config.romVersion.toNat

/-- R385: SUMMARY. -/
def healthSummary (s : State) : Word :=
  bitAt 0 (s.pool.exhausted != 0) ||| at_ 1 s.pool.exhausted.toNat ||| bitAt 7 s.ink.march.stopped
    ||| at_ 8 (highestLevel s.blotter)
    ||| bitAt 11 (s.time.sync.state == .holdover || s.time.sync.state == .relock || s.time.sync.state == .mismatch)
    ||| bitAt 12 (128 ≤ s.ink.ledger.length) ||| bitAt 13 (s.co.staged.any fun l => l.unready)

/-- R390: CUR_CMD: the command whose response is held, or else the one in turn. -/
def curCmd (c : Scribe) : Word :=
  match c.held with
  | some r => at_ 0 r.opcode.toNat ||| at_ 16 r.tag.toNat
  | none => match c.queue.head?.bind (·.bytes) with
    | some b => at_ 0 (cmdOpcode b) ||| at_ 16 (cmdTag b)
    | none => 0

/-- R390: CMD_CTRL and RSP_CTRL. -/
def ringCtrlWord (k : ScribeRing) : Word := bitAt 0 k.en ||| at_ 4 k.sizeLog2.toNat

/-- R390: a register of the SCRIBE block as it stands. -/
def scribePeek (s : State) (off : Nat) : Word :=
  let c := s.scribe
  match off with
  | 0x00 => scribeStatus s
  | 0x04 => fwVersion s
  | 0x08 => healthSummary s
  | 0x0C => curCmd c
  | 0x10 => lo32 c.cmd.base
  | 0x14 => hi32 c.cmd.base
  | 0x18 => ringCtrlWord c.cmd
  | 0x1C => at_ 0 c.cmd.prod.toNat
  | 0x20 => at_ 0 c.cmd.cons.toNat
  | 0x24 => lo32 c.rsp.base
  | 0x28 => hi32 c.rsp.base
  | 0x2C => ringCtrlWord c.rsp
  | 0x30 => at_ 0 c.rsp.prod.toNat
  | 0x34 => at_ 0 c.rsp.cons.toNat
  | 0x38 => c.seq
  | 0x3C => c.doneSeq
  | 0x40 => at_ 0 c.restarts.toNat
  | 0x44 => at_ 0 c.aborted.toNat ||| at_ 16 c.refused.toNat
  | 0x48 => at_ 0 c.timeMax.toNat
  | 0x4C => (c.keyHash.getD 0).truncate 32
  | 0x54 => bitAt 0 c.busy ||| bitAt 1 c.done ||| at_ 16 c.mbxSeq.toNat
  | _ => if h : 0x60 ≤ off ∧ off < 0xA0 then c.mbx[(off - 0x60) / 4] else 0

/-- R390: a write to a 32-bit register of the SCRIBE block. -/
def scribeWrite (s : State) (off : Nat) (v : Word) : State :=
  match off with
  | 0x00 => modScribe s fun c => { c with ringErr := c.ringErr && !tst v 7, notice := c.notice && !tst v 8 }
  | 0x18 => writeRingCtrl s false v
  | 0x1C => writeCmdTail s v
  | 0x2C => writeRingCtrl s true v
  | 0x34 => writeRspCons s v
  | 0x48 => if v = 0 then s else modScribe s fun c => { c with timeMax := 0 }
  | 0x50 => if tst v 0 then submitMailbox s else s
  | _ =>
    if h : 0x60 ≤ off ∧ off < 0xA0 then
      if s.scribe.busy then s else modScribe s fun c => { c with mbx := c.mbx.set ((off - 0x60) / 4) v }
    else s

/-- R379, R390: a ring base applied whole, accepted only while the ring's EN is 0. -/
def scribeWide (s : State) (off : Nat) (v : W64) : State :=
  let v := v &&& ~~~0xFFF
  if off = 0x10 then
    if s.scribe.cmd.en then s else modScribe s fun c => { c with cmd := { c.cmd with base := v } }
  else if off = 0x24 then
    if s.scribe.rsp.en then s else modScribe s fun c => { c with rsp := { c.rsp with base := v } }
  else s

end Sys2Proof.Machine
end

