-- ==== Sys2Proof/Machine/Bus.lean ====
section
/-! DEFINITION. The register map (R474 to R478), the DEV registers (R313, R314, R444, R445, R471, R472), and the three
ways to reach a register: an access path (R51 to R53, R450), a register-write record (R229) and a glyph's APPLY
(R278). -/
namespace Sys2Proof.Machine

/-! DEV. -/

/-- R314: CO_STATUS.STATE. -/
def coState (c : CoSt) : Nat :=
  match c.phase with
  | .committed => 3
  | .armed => 2
  | .none => if !c.copies.isEmpty then 4 else if !c.staged.isEmpty then 1 else 0

/-- R313, R314: CO_CTRL. -/
def coCtrl (c : CoSt) : Word :=
  match c.trigger with
  | none => 0
  | some (.frame _) => at_ 0 1 ||| bitAt 8 (c.phase != .none)
  | some (.angle t _) => at_ 0 2 ||| at_ 2 t ||| at_ 6 c.dir.toNat ||| bitAt 8 (c.phase != .none)

/-- R313: F of a FRAME trigger, E of an ANGLE trigger. -/
def coFrame (c : CoSt) : W64 :=
  match c.trigger with | some (.frame f) => f | some (.angle ..) => c.earliest | none => 0

/-- R313: four staged leaves, one per byte. -/
def coLeaves (c : CoSt) (first : Nat) : Word :=
  BitVec.ofNat 32 (leNat ((List.range 4).map fun i =>
    BitVec.ofNat 8 (((c.staged[first + i]?).map (·.image.leaf)).getD 0)))

/-- R309: carry words that have still to be copied. -/
def copyWords (c : CoSt) : Nat := (c.copies.map (·.words.length)).foldl (· + ·) 0

/-- R313: a changeover register. -/
def coPeek (c : CoSt) (off : Nat) : Word :=
  match off with
  | 0x80 => coCtrl c
  | 0x84 => at_ 0 (coState c) ||| bitAt 3 (c.staged.any (·.unready)) ||| at_ 8 c.staged.length
      ||| at_ 16 c.outcome.code
  | 0x88 => match c.trigger with | some (.angle _ a) => a | _ => 0
  | 0x8C => lo32 (coFrame c)
  | 0x90 => hi32 (coFrame c)
  | 0x94 => lo32 c.expire
  | 0x98 => hi32 c.expire
  | 0x9C => coLeaves c 0
  | 0xA0 => coLeaves c 4
  | 0xA4 => lo32 c.lastFrame
  | 0xA8 => hi32 c.lastFrame
  | 0xAC => ((c.staged.head?).map (·.image.generation)).getD 0
  | 0xB0 => at_ 0 c.taken.toNat ||| at_ 16 c.notTaken.toNat
  | 0xB4 => at_ 0 (copyWords c)
  | _ => 0

/-- R445: PWR_STATUS. -/
def powerStatus (s : State) : Word :=
  at_ 0 (if s.folio.started then 0 else 1) ||| bitAt 4 s.power.lfOk ||| bitAt 5 s.pool.refOk
    ||| bitAt 6 (s.pool.pllLock.getLsbD 0) ||| bitAt 7 (s.pool.pllLock.getLsbD 1) ||| bitAt 8 s.pool.pllB
    ||| bitAt 9 s.power.vbatOk

/-- R444: a power register. -/
def powerPeek (s : State) (off : Nat) : Word :=
  let w := s.power
  match off with
  | 0xC0 => powerStatus s
  | 0xC4 => w.resetCause
  | 0xC8 => w.wakeCause
  | 0xCC => at_ 0 w.stage.toNat ||| at_ 8 w.error.toNat ||| at_ 16 w.readyMs.toNat
  | 0xD0 => at_ 0 w.thermLimit.toNat ||| bitAt 8 w.thermOver ||| at_ 16 w.trips.toNat
  | 0xD4 => at_ 0 w.lpcmp.toNat
  | 0xD8 => at_ 0 w.keepIndex.toNat ||| bitAt 8 w.autoInc
  | 0xDC => keepWord s
  | 0xE0 => bitAt 0 w.island.keepValid
  | _ => 0

/-- R472: LINK. -/
def linkWord (h : HostSt) : Word :=
  at_ 0 (if h.linkUp then h.width.toNat else 0) ||| at_ 4 h.speed.toNat ||| bitAt 6 h.linkUp ||| bitAt 7 h.degraded
    ||| bitAt 8 h.reversed ||| bitAt 9 h.l1 ||| at_ 16 h.downs.toNat

/-- R456: an access of the service port has not completed: that of a READ frame, or one to BAR4. -/
def spPending (s : State) : Bool :=
  (s.host.spAccess.any fun a => !a.done) || s.host.bar4.any fun j => j.path == .sp

/-- The DEV block. -/
def devPeek (s : State) (off : Nat) : Word :=
  let h := s.host
  match off with
  | 0x00 => 0x7316 ||| at_ 16 Config.stepping.toNat ||| at_ 20 (gradeOf s.power)
  | 0x04 => lo32 Config.deviceUid
  | 0x08 => hi32 Config.deviceUid
  | 0x0C => linkWord h
  | 0x10 => at_ 0 h.accessErr.toNat ||| at_ 16 h.accessCount.toNat
  | 0x14 => h.accessAddr
  | 0x18 => at_ 0 h.spLast.toNat ||| bitAt 8 (spPending s) ||| at_ 16 h.spFrames.toNat
  | 0x1C => bitAt 0 h.bscanRefused ||| bitAt 1 h.privRefused ||| bitAt 2 h.dhalt
  | _ => if off < 0xC0 then coPeek s.co off else powerPeek s off

/-- A write to the DEV block. -/
def devWrite (s : State) (off : Nat) (v : Word) : State :=
  match off with
  | 0x10 => modHost s fun h => { h with
      accessErr := w1c h.accessErr (v.truncate 4)
      accessCount := if fld v 3 0 = 0xF then 0 else h.accessCount }
  | 0x1C => modHost s fun h => { h with
      bscanRefused := h.bscanRefused && !tst v 0, privRefused := h.privRefused && !tst v 1 }
  | 0xD0 => modPower s fun w => { w with thermLimit := v.truncate 8 }
  | 0xD4 => modPower s fun w => { w with lpcmp := v.truncate 8 }
  | 0xD8 => modPower s fun w => { w with keepIndex := v.truncate 6, autoInc := tst v 8 }
  | 0xDC => writeKeep s v
  | _ => s

/-! The register map. -/

/-- The blocks of R474 and R477. -/
inductive Block
  | dev | scribe | time | blotter | eic | dma | stream | chan | ink | quill | track | fb | comp | adc | nib | link | ce
  | directory | header | window | fast | msix | pba
  deriving DecidableEq, Repr

/-- R474, R477: block, base, stride and instances. -/
def busMap : List (Block × Nat × Nat × Nat) :=
  [(.dev, 0x0, 0x100, 1), (.scribe, 0x1000, 0x100, 1), (.time, 0x2000, 0x100, 1), (.blotter, 0x4000, 0x280, 1),
   (.eic, 0x10000, 0x3000, 1), (.dma, 0x20000, 0x80, 1), (.stream, 0x20800, 16, 8), (.chan, 0x21000, 64, 32),
   (.ink, 0x30000, 0x1100, 1), (.quill, 0x40000, 256, 16), (.track, 0x50000, 256, 16), (.fb, 0x58000, 128, 16),
   (.comp, 0x60000, 32, 32), (.adc, 0x60400, 128, 1), (.nib, 0x80000, 64, 256), (.link, 0xC0000, 16, 64),
   (.ce, 0x100000, 32, 512), (.directory, 0x1000000, 32, 4096), (.header, 0x1040000, 64, 4096),
   (.window, 0x1800000, 4096, 2048), (.fast, 0x80000000, 4096, 8), (.msix, 0x80008000, 0x100, 1),
   (.pba, 0x80009000, 8, 1)]

/-- A register: its block, the instance and the offset in it. -/
structure Place where
  block : Block
  inst : Nat
  off : Nat
  deriving DecidableEq, Repr

/-- The register at an address: a BAR0 offset, or 0x8000_0000 plus a BAR2 offset; none for every other address.
DESIGN CHOICE (log entry 108). -/
def placeOf (addr : Nat) : Option Place :=
  if addr % 4 ≠ 0 then none
  else
    match busMap.find? fun (_, base, stride, n) => base ≤ addr && addr < base + stride * n with
    | some (b, base, stride, _) => some ⟨b, (addr - base) / stride, (addr - base) % stride⟩
    | none => none

/-- The register at an address as a path reaches it: the service port does not reach the MSI-X table (R477). -/
def placeFor (p : Path) (addr : Nat) : Option Place :=
  match placeOf addr with
  | some x => if p = .sp ∧ (x.block = .msix ∨ x.block = .pba) then none else some x
  | none => none

/-- A register as it stands. -/
def placePeek (s : State) (p : Path) (x : Place) : Word :=
  match x.block with
  | .dev => devPeek s x.off
  | .scribe => scribePeek s x.off
  | .time => timePeek s x.off
  | .blotter => blotterPeek s x.off
  | .eic => eicPeek s p x.off
  | .dma => dmaPeek s x.off
  | .stream => csPeek s (Fin.ofNat 8 x.inst) x.off
  | .chan => chanPeek s (Fin.ofNat 32 x.inst) x.off
  | .ink => inkPeek s x.off
  | .quill => quillPeek s (Fin.ofNat 16 x.inst) x.off
  | .track => atPeek s (Fin.ofNat 16 x.inst) x.off
  | .fb => fbPeek s (Fin.ofNat 16 x.inst) x.off
  | .comp => acPeek s (Fin.ofNat 32 x.inst) x.off
  | .adc => adcPeek s x.off
  | .nib => nibPeek s (Fin.ofNat 256 x.inst) x.off
  | .link => rlPeek s (Fin.ofNat 64 x.inst) x.off
  | .ce => cePeek s p (Fin.ofNat 512 x.inst) x.off
  | .directory => directoryWord s x.inst (x.off / 4)
  | .header => headerPeek s x.inst x.off
  | .window => windowPeek s x.inst x.off
  | .fast =>
    if x.off = 8 then peekBy s p (Fin.ofNat 9 x.inst) true
    else if x.off = 0 then (claimBy s p (Fin.ofNat 9 x.inst) true).1 else 0
  | .msix => msixPeek s.eic x.off
  | .pba => if x.off = 0 then pbaWord s.eic else 0

/-- What a read of a register does beside returning it (R9). -/
def placeReadEffect (s : State) (p : Path) (x : Place) : State :=
  match x.block with
  | .dev => if x.off = 0xDC then keepAdvance s else s
  | .scribe => s
  | .time => timeReadClear s x.off
  | .blotter => blotterReadClear s x.off
  | .eic => eicReadClear s p x.off
  | .dma => s
  | .stream => if x.off = 8 then modStream s (Fin.ofNat 8 x.inst) fun y => { y with lost := 0 } else s
  | .chan => s
  | .ink => inkReadClear s x.off
  | .quill => quillReadClear s (Fin.ofNat 16 x.inst) x.off
  | .track => atReadClear s (Fin.ofNat 16 x.inst) x.off
  | .fb => fbReadClear s (Fin.ofNat 16 x.inst) x.off
  | .comp => acReadClear s (Fin.ofNat 32 x.inst) x.off
  | .adc => adcReadClear s x.off
  | .nib => nibReadClear s (Fin.ofNat 256 x.inst) x.off
  | .link => s
  | .ce => s
  | .directory => s
  | .header => s
  | .window => s
  | .fast => if x.off = 0 then (claimBy s p (Fin.ofNat 9 x.inst) true).2 else s
  | .msix => s
  | .pba => s

/-- R25: the resource that the registers of a block instance belong to, where writes to it ask for a unit that binds
it. Quills and inkwell banks serve the host without one (R22, R318). -/
def placeUnit (x : Place) : Option UnitType :=
  match x.block with
  | .stream => some .captureStream | .track => some .tracker | .fb => some .feedback | .comp => some .comparator
  | .adc => some .converter | .nib => some .nib | .link => some .reflex | .ce => some .counter
  | _ => none

/-- R25: the registers at a place take writes. -/
def placeOpen (s : State) (x : Place) : Bool := match placeUnit x with | some k => bound s k x.inst | none => true

/-- A write of a 32-bit register. -/
def putPlace (s : State) (p : Path) (x : Place) (v : Word) : State :=
  match x.block with
  | .dev => devWrite s x.off v
  | .scribe => scribeWrite s x.off v
  | .time => timeWrite s x.off v
  | .blotter => blotterWrite s x.off v
  | .eic => eicWrite s p x.off v
  | .dma => dmaWrite s x.off v
  | .stream => if x.off = 0 then writeCsCtrl s (Fin.ofNat 8 x.inst) v else s
  | .chan => chanWrite s (Fin.ofNat 32 x.inst) x.off v
  | .ink => inkWrite s x.off v
  | .quill => quillWrite s (Fin.ofNat 16 x.inst) x.off v
  | .track => atWrite s (Fin.ofNat 16 x.inst) x.off v
  | .fb => fbWrite s (Fin.ofNat 16 x.inst) x.off v
  | .comp => acWrite s (Fin.ofNat 32 x.inst) x.off v
  | .adc => adcWrite s x.off v
  | .nib =>
    let n : NibIx := Fin.ofNat 256 x.inst
    nibRanked s p n x.off fun s => nibWrite s n x.off v
  | .link => rlWrite s (Fin.ofNat 64 x.inst) x.off v
  | .ce => ceWrite s p (Fin.ofNat 512 x.inst) x.off v
  | .directory => s
  | .header => headerWrite s x.inst x.off v
  | .window => windowWrite s x.inst x.off v
  | .fast => if x.off = 4 then completeBy s p (Fin.ofNat 9 x.inst) true v else s
  | .msix => msixWrite s x.off v
  | .pba => s

/-- R25: a write of a 32-bit register, where the resource takes it. -/
def placeWrite (s : State) (p : Path) (x : Place) (v : Word) : State := if placeOpen s x then putPlace s p x v else s

/-! Values wider than 32 bits (R51 to R53). -/

/-- The RL registers of a block: offset of the low word and number of words. -/
def rlOf : Block → List (Nat × Nat)
  | .dev => [(0x8C, 2), (0x94, 2), (0xA4, 2)]
  | .scribe => [(0x10, 2), (0x24, 2)]
  | .time => [(0x00, 2), (0x08, 2), (0x10, 4), (0x20, 2), (0x48, 2)]
  | .blotter => [(0x20, 2)]
  | .dma => [(0x20, 2), (0x2C, 2), (0x38, 2), (0x44, 2), (0x50, 2), (0x5C, 2), (0x68, 2), (0x74, 2)]
  | .chan => [(0x08, 2), (0x14, 2), (0x24, 2), (0x34, 2)]
  | .quill => [(0x20, 2), (0x54, 4)]
  | .track => [(0x30, 7), (0x4C, 3), (0x60, 2), (0xA4, 2)]
  | .fb => [(0x0C, 4), (0x20, 2), (0x30, 2), (0x54, 2)]
  | .comp => [(0x18, 2)]
  | .adc => [(0x18, 2)]
  | .nib => [(0x30, 4)]
  | .ce => [(0x08, 2), (0x14, 2)]
  | .eic | .stream | .ink | .link | .directory | .header | .window | .fast | .msix | .pba => []

/-- The RL register that an offset belongs to. -/
def rlAt (x : Place) : Option (Nat × Nat) := (rlOf x.block).find? fun (b, n) => b ≤ x.off && x.off < b + 4 * n

/-- R53: the 64-bit writable values of a block, by the offset of the low word. -/
def wideOf : Block → List Nat
  | .scribe => [0x10, 0x24]
  | .dma => [0x20, 0x2C, 0x38, 0x44, 0x50, 0x5C, 0x68, 0x74]
  | .chan => [0x08]
  | .track => [0x60, 0xA4]
  | .fb => [0x0C, 0x20]
  | .ce => [0x08, 0x14]
  | _ => []

/-- The 64-bit writable value that an offset belongs to. -/
def wideAt (x : Place) : Option Nat := (wideOf x.block).find? fun b => b ≤ x.off && x.off < b + 8

/-- R25, R53: a 64-bit value applied whole; `x` is any register of the value, `b` the offset of its low word. -/
def placeWide (s : State) (p : Path) (x : Place) (b : Nat) (v : W64) : State :=
  if !placeOpen s x then s
  else match x.block with
  | .scribe => scribeWide s b v
  | .dma => writeCqBase s (Fin.ofNat 8 ((b - 0x20) / 12)) v
  | .chan => writeHead s (Fin.ofNat 32 x.inst) v
  | .track => atWide s (Fin.ofNat 16 x.inst) b v
  | .fb => fbWide s (Fin.ofNat 16 x.inst) b v
  | .ce =>
    if b = 0x08 then writeCeCount s (Fin.ofNat 512 x.inst) v (ceRank p)
    else modCe s (Fin.ofNat 512 x.inst) fun y => ceSelWrite y (ceWsel y p) (ceRank p) v s.time.tb
  | _ => s

/-- R52: the words of an RL register in groups of four, each latched under the address of its first word. -/
def latchGroups (s : State) (p : Path) (x : Place) (addr b n : Nat) : Nat → State
  | 0 => s
  | k + 1 =>
    let s := latchGroups s p x addr b n k
    let word (i : Nat) : Nat :=
      if i < n then (placePeek s p { x with off := b + 4 * i }).toNat * 2 ^ (32 * (i % 4)) else 0
    latchRead s p (addr + 16 * k)
      (BitVec.ofNat 128 (word (4 * k) + word (4 * k + 1) + word (4 * k + 2) + word (4 * k + 3)))

/-- R51, R52: a read of a register by a path. -/
def busRead (s : State) (p : Path) (addr : Nat) : Word × State :=
  match placeFor p addr with
  | none => (0, s)
  | some x =>
    match rlAt x with
    | some (b, n) =>
      let low := addr - (x.off - b)
      let i := (x.off - b) / 4
      if i = 0 then (placePeek s p x, placeReadEffect (latchGroups s p x low b n ((n + 3) / 4)) p x)
      else (word32 (latched s p (low + 16 * (i / 4))) (i % 4), s)
    | none => (placePeek s p x, placeReadEffect s p x)

/-- R53, R450: a write of a register by a path. -/
def busWrite (s : State) (p : Path) (addr : Nat) (v : Word) : State :=
  match placeFor p addr with
  | none => s
  | some x =>
    match wideAt x with
    | some b =>
      if x.off = b then holdLow s p addr v else placeWide s p x b (cat64 v (heldLow s p (addr - 4)))
    | none => placeWrite s p x v

/-! Records and parameters (R229, R259, R278). -/

/-- R229: a value written without an access path: a 64-bit value whole (`wide`), one half of one with the other half as it
stands in force, or a 32-bit register. A WIDE record that names no 64-bit value has nothing to write.
DEDUCED (log entry 109). -/
def recordWrite (s : State) (addr : Nat) (v : W64) (wide : Bool) : State :=
  match placeOf addr with
  | none => s
  | some x =>
    if x.block = .ce then (if placeOpen s x then ceRecordWrite s (Fin.ofNat 512 x.inst) x.off v wide else s)
    else
      match wideAt x with
      | some b =>
        let lo := placePeek s .scribe { x with off := b }
        let hi := placePeek s .scribe { x with off := b + 4 }
        if wide then (if x.off = b then placeWide s .scribe x b v else s)
        else placeWide s .scribe x b (if x.off = b then cat64 hi (lo32 v) else cat64 (lo32 v) lo)
      | none => if wide then s else placeWrite s .scribe x (lo32 v)

/-- R277: the parameters that a write of a target passes through, and the target it ends at. -/
def finalTarget (s : State) : Nat → ParamTarget → List (Nat × Nat) × ParamTarget
  | 0, t => ([], t)
  | n + 1, t =>
    match t with
    | .reg addr =>
      match paramAt s addr with
      | some (u, k) =>
        let next : ParamTarget := match findUnit s.folio.units u with
          | some x => ((x.params[k]?).map (·.target)).getD .none
          | none => .none
        let (l, t) := finalTarget s n next
        ((u, k) :: l, t)
      | none => ([], t)
    | _ => ([], t)

/-- R278: the parameters passed through take the value in shadow and in force. -/
def setParams (s : State) (l : List (Nat × Nat)) (v : Word) : State :=
  forAll l s fun s (u, k) => modParam s u k fun y => { y with shadow := v, force := v }

/-- R259, R324: an inkwell lane written as a port-A write, whoever owns the bank. -/
def writeLane (s : State) (b : InkIx) (w : Fin 4096) (lane : Fin 4) (v : Word) : State :=
  inkWriteWord s b w (0xF#16 <<< (4 * lane.val)) ((v.zeroExtend 128) <<< (32 * lane.val)) true

/-- R246 APPLIED: an APPLY writes an inkwell lane, and the next frame of its owner is told. -/
def applyLane (s : State) (b : InkIx) (w : Fin 4096) (lane : Fin 4) (v : Word) : State :=
  let s := writeLane s b w lane v
  let o := s.ink.banks[b].owner
  if o.kind = .quill then modQuill s o.quill fun x => { x with appliedSince := true } else s

/-- R278: a parameter's value is written to where it ends: a low word of a 64-bit value is held, its high word
applies it whole. `held` lists the low words held so far in this APPLY. -/
def writeTarget (s : State) (held : List (Nat × Word)) (t : ParamTarget) (v : Word) : State × List (Nat × Word) :=
  match t with
  | .none => (s, held)
  | .ink b w lane => (applyLane s b w lane v, held)
  | .reg addr =>
    match placeOf addr with
    | none => (s, held)
    | some x =>
      match wideAt x with
      | none => (recordWrite s addr (v.zeroExtend 64) false, held)
      | some b =>
        if x.off = b then (s, (addr, v) :: held)
        else
          match held.lookup (addr - 4) with
          | some lo => (recordWrite s (addr - 4) (cat64 v lo) true, held)
          | none => (recordWrite s addr (v.zeroExtend 64) false, held)

/-- R278: one parameter of an APPLY: the shadow as cycle P - 32 found it comes into force and is written on.
DEDUCED (log entry 80). -/
def applyParam (u : Nat) (acc : State × List (Nat × Word)) (k : Nat) : State × List (Nat × Word) :=
  let (s, held) := acc
  match (findUnit s.folio.units u).bind fun x => x.params[k]? with
  | none => acc
  | some y =>
    let v := y.closing
    let s := modParam s u k fun y => { y with force := v }
    let (passed, t) := finalTarget s s.folio.units.length y.target
    writeTarget (setParams s passed v) held t v

/-- R278, R279: the parameters of a glyph are applied, in ascending index. -/
def applyGlyph (s : State) (u : Nat) : State :=
  match findUnit s.folio.units u with
  | none => s
  | some x => ((List.range x.params.length).foldl (applyParam u) (s, [])).1

/-- R229: a register-write record that the folio grants. A glyph parameter takes the value in shadow and in force, and
writes it on (R259, R278). -/
def regwRecord (s : State) (addr : Nat) (v : W64) (wide : Bool) : State :=
  match paramAt s addr with
  | some _ =>
    let (passed, t) := finalTarget s (s.folio.units.length + 1) (.reg addr)
    let s := setParams s passed (lo32 v)
    match t with
    | .none => s
    | .ink b w lane => writeLane s b w lane (lo32 v)
    | .reg a => recordWrite s a (v &&& 0xFFFFFFFF) false
  | none => recordWrite s addr v wide

end Sys2Proof.Machine
end

