-- ==== Sys2Proof/Machine/Crypto.lean ====
section
/-! DEFINITION. SHA-256 (R265, R386; the hash that FIPS 180-4 specifies) and ECDSA over P-256 with it (R265, R386; FIPS
186-4). PRESUMED: both are taken from those standards, which the manual names and does not restate (log entry 6). -/
namespace Sys2Proof.Machine

/-! SHA-256. -/

/-- The largest number whose `e`-th power is at most `n`, for one below 2^37: its bits from the highest down. -/
def rootFloor (e n : Nat) : Nat :=
  (List.range 37).foldl (fun r i => if (r + 2 ^ (36 - i)) ^ e ≤ n then r + 2 ^ (36 - i) else r) 0

/-- The primes below 312: the first 64. -/
def shaPrimes : List Nat :=
  (List.range 312).filter fun n => 2 ≤ n && (List.range n).all fun d => d < 2 || n % d != 0

/-- The first 32 bits of the fraction of the `e`-th root of a number. -/
def rootFraction (e n : Nat) : Word := BitVec.ofNat 32 (rootFloor e (n * 2 ^ (32 * e)))

/-- The round constants: the fractions of the cube roots of the first 64 primes. -/
def shaK : List Word := shaPrimes.map (rootFraction 3)

/-- The initial hash value: the fractions of the square roots of the first eight primes. -/
def shaH0 : List Word := (shaPrimes.take 8).map (rootFraction 2)

/-- Two functions of the schedule and two of the rounds. -/
def shaSmall0 (x : Word) : Word := x.rotateRight 7 ^^^ x.rotateRight 18 ^^^ (x >>> 3)
def shaSmall1 (x : Word) : Word := x.rotateRight 17 ^^^ x.rotateRight 19 ^^^ (x >>> 10)
def shaBig0 (x : Word) : Word := x.rotateRight 2 ^^^ x.rotateRight 13 ^^^ x.rotateRight 22
def shaBig1 (x : Word) : Word := x.rotateRight 6 ^^^ x.rotateRight 11 ^^^ x.rotateRight 25

/-- A big-endian number of bytes. -/
def beNat (l : List Byte) : Nat := l.foldl (fun n b => n * 256 + b.toNat) 0

/-- The message schedule, the latest word first. -/
def shaSchedule : Nat → List Word → List Word
  | 0, w => w
  | n + 1, w =>
    let at_ (i : Nat) : Word := w.getD i 0
    shaSchedule n ((shaSmall1 (at_ 1) + at_ 6 + shaSmall0 (at_ 14) + at_ 15) :: w)

/-- One round. -/
def shaRound (h : List Word) (kw : Word × Word) : List Word :=
  match h with
  | [a, b, c, d, e, f, g, i] =>
    let t1 := i + shaBig1 e + ((e &&& f) ^^^ (~~~e &&& g)) + kw.1 + kw.2
    let t2 := shaBig0 a + ((a &&& b) ^^^ (a &&& c) ^^^ (b &&& c))
    [t1 + t2, a, b, c, d + t1, e, f, g]
  | _ => h

/-- One block of 64 bytes. -/
def shaBlock (h : List Word) (block : List Byte) : List Word :=
  let first := (List.range 16).map fun i => BitVec.ofNat 32 (beNat ((block.drop (4 * i)).take 4))
  let w := (shaSchedule 48 first.reverse).reverse
  let r := (shaK.zip w).foldl shaRound h
  (h.zip r).map fun (a, b) => a + b

/-- `n` blocks. -/
def shaBlocks : Nat → List Word → List Byte → List Word
  | 0, h, _ => h
  | n + 1, h, m => shaBlocks n (shaBlock h (m.take 64)) (m.drop 64)

/-- SHA-256 of a message, its 32 bytes in order. -/
def sha256 (m : List Byte) : List Byte :=
  let zeros := (119 - m.length % 64) % 64
  let padded := m ++ [0x80] ++ List.replicate zeros 0 ++ (leBytes 8 (8 * m.length)).reverse
  let h := shaBlocks (padded.length / 64) shaH0 padded
  h.flatMap fun w => (leBytes 4 w.toNat).reverse

/-! P-256. -/

/-- The prime of the field, the order of the base point, the coefficient b and the base point. -/
def p256P : Nat := 0xffffffff00000001000000000000000000000000ffffffffffffffffffffffff
def p256N : Nat := 0xffffffff00000000ffffffffffffffffbce6faada7179e84f3b9cac2fc632551
def p256B : Nat := 0x5ac635d8aa3a93e7b3ebbd55769886bc651d06b0cc53b0f63bce3c3e27d2604b
def p256G : Nat × Nat := (0x6b17d1f2e12c4247f8bce6e563a440f277037d812deb33a0f4a13945d898c296,
  0x4fe342e2fe1a7f9b8ee7eb4a7c0f9e162bce33576b315ececbb6406837bf51f5)

/-- `b ^ e` modulo `m`, for `e` below 2^256. -/
def powMod (b e m : Nat) : Nat :=
  (List.range 256).foldl (fun acc i =>
    let sq := acc * acc % m
    if e.testBit (255 - i) then sq * b % m else sq) 1

/-- The inverse modulo a prime. -/
def invMod (a m : Nat) : Nat := powMod (a % m) (m - 2) m

/-- The sum of two points of the curve; none is the point at infinity. -/
def pointAdd : Option (Nat × Nat) → Option (Nat × Nat) → Option (Nat × Nat)
  | none, q => q
  | p, none => p
  | some (x1, y1), some (x2, y2) =>
    let p := p256P
    if x1 = x2 ∧ (y1 + y2) % p = 0 then none
    else
      let l := if x1 = x2 then (3 * x1 * x1 + (p - 3)) * invMod (2 * y1) p % p
        else (y2 + p - y1) * invMod (x2 + p - x1) p % p
      let x3 := (l * l + 2 * p - x1 - x2) % p
      some (x3, (l * (x1 + p - x3) + p - y1) % p)

/-- A point times a number below 2^256. -/
def pointMul (k : Nat) (q : Option (Nat × Nat)) : Option (Nat × Nat) :=
  (List.range 256).foldl (fun acc i =>
    let d := pointAdd acc acc
    if k.testBit (255 - i) then pointAdd d q else d) none

/-- The right side of the curve's equation. -/
def curveRhs (x : Nat) : Nat := (x * x % p256P * x + (p256P - 3) * x + p256B) % p256P

/-- A valid point of the curve. -/
def onCurve (x y : Nat) : Bool := x < p256P && y < p256P && y * y % p256P == curveRhs x

/-- ECDSA verification of a hash `z` under the key `q`. -/
def ecdsaVerify (q : Nat × Nat) (z r s : Nat) : Bool :=
  if 0 < r && r < p256N && 0 < s && s < p256N && onCurve q.1 q.2 then
    let w := invMod s p256N
    match pointAdd (pointMul (z * w % p256N) (some p256G)) (pointMul (r * w % p256N) (some q)) with
    | some (x, _) => x % p256N == r
    | none => false
  else false

/-- The 64 bytes of a key, QX then QY, little-endian. -/
def keyBytes (q : Nat × Nat) : List Byte := leBytes 32 q.1 ++ leBytes 32 q.2

/-- The keys under which a signature can verify: at most four. -/
def signatureKeys (z r s : Nat) : List (Nat × Nat) :=
  let xs := [r, r + p256N].filter (· < p256P)
  let points := xs.flatMap fun x =>
    let y := powMod (curveRhs x) ((p256P + 1) / 4) p256P
    [(x, y), (x, p256P - y)].filter fun c => onCurve c.1 c.2
  points.filterMap fun c =>
    let k := pointAdd (pointMul (s % p256N) (some c)) (pointMul ((p256N - z % p256N) % p256N) (some p256G))
    pointMul (invMod r p256N) k

/-- R265, R386: a signature verifies under the key whose hash, in the order of its bytes, is `hash`. -/
def signedBy (hash : List Byte) (message : List Byte) (r s : Nat) : Bool :=
  let z := beNat (sha256 message)
  (signatureKeys z r s).any fun q => sha256 (keyBytes q) == hash && ecdsaVerify q z r s

end Sys2Proof.Machine
end

