-- ==== Sys2Proof/Machine/Image.lean ====
section
/-! DEFINITION. Folio and leaf images (R263 to R291): their parts, and the checks of R295 up to code 0x0B, each of which
answers the byte offset of the offending field or record. A byte past the end of an image reads zero. -/
namespace Sys2Proof.Machine

/-- The bytes of an image. -/
abbrev Bytes := List Byte

/-- Values of an image, little-endian (R8). -/
def u8 (b : Bytes) (o : Nat) : Nat := (b.getD o 0).toNat
def uN (n : Nat) (b : Bytes) (o : Nat) : Nat := leNat ((b.drop o).take n)
def u16 (b : Bytes) (o : Nat) : Nat := uN 2 b o
def u32 (b : Bytes) (o : Nat) : Nat := uN 4 b o
def u64 (b : Bytes) (o : Nat) : Nat := uN 8 b o

/-- The first byte of [lo, hi) that is not zero. -/
def nonZero (b : Bytes) (lo hi : Nat) : Option Nat :=
  ((((b.drop lo).take (hi - lo)).findIdx? (· != 0)).map (lo + ·))

/-- The first answer of a list of checks. -/
def firstOf {α : Type} (l : List α) (f : α → Option Nat) : Option Nat := l.findSome? f

/-- An offset, where a condition fails. -/
def refuse (bad : Bool) (o : Nat) : Option Nat := if bad then some o else none

/-! Header and digest (R264, R265). -/

/-- R264: the header fields. -/
def imgKind (b : Bytes) : Nat := u16 b 0x06
def imgSignedLen (b : Bytes) : Nat := u32 b 0x0C
def imgGeneration (b : Bytes) : Word := BitVec.ofNat 32 (u32 b 0x10)
def imgBase (b : Bytes) : Word := BitVec.ofNat 32 (u32 b 0x14)
def imgRuling (b : Bytes) : Nat := u32 b 0x18
def imgTable (b : Bytes) : Nat := u32 b 0x20
def imgSections (b : Bytes) : Nat := u16 b 0x24
def imgLeaf (b : Bytes) : Nat := u16 b 0x26
def imgSigned (b : Bytes) : Bool := u8 b 0x28 % 2 == 1

/-- R295 code 0x01, in the order of its text; `leaf` and `folio` say which KIND the command takes.
DEDUCED (log entry 70). -/
def checkHeader (b : Bytes) (folio leaf : Bool) : Option Nat :=
  let total := u32 b 0x08
  let signedLen := imgSignedLen b
  let isLeaf := imgKind b = 2
  (refuse (u32 b 0 != 0x4F464B53) 0x00) |>.or <| (refuse (u16 b 4 != 1) 0x04)
  |>.or <| refuse (!((folio && imgKind b == 1) || (leaf && imgKind b == 2))) 0x06
  |>.or <| refuse (u32 b 0x1C != 0x7316) 0x1C
  |>.or <| refuse (!isLeaf && imgBase b != 0) 0x14
  |>.or <| refuse (if isLeaf then imgLeaf b == 0 else imgLeaf b != 0) 0x26
  |>.or <| refuse (8388608 < total || total != b.length || b.length < 128) 0x08
  |>.or <| refuse (signedLen != (if imgSigned b then total - 72 else total) || signedLen < 128) 0x0C
  |>.or <| refuse (imgSections b == 0 || 16 < imgSections b) 0x24
  |>.or <| refuse (signedLen < imgTable b + 16 * imgSections b) 0x20
  |>.or <| refuse (2 ≤ u32 b 0x28) 0x28
  |>.or <| nonZero b 0x60 0x80

/-- R265, R295 code 0x02: DIGEST. -/
def checkDigest (b : Bytes) : Option Nat :=
  let body := b.take 0x40 ++ List.replicate 32 0 ++ ((b.take (imgSignedLen b)).drop 0x60)
  refuse (sha256 body != (b.drop 0x40).take 32) 0x40

/-- The bytes of the enrolled key hash. -/
def hashBytes (h : BitVec 256) : Bytes := leBytes 32 h.toNat

/-- R265, R292, R295 code 0x03: the signature, in a sealed device. -/
def checkSignature (b : Bytes) (sealed_ : Option (BitVec 256)) : Option Nat :=
  match sealed_ with
  | none => none
  | some h =>
    let o := imgSignedLen b
    if !imgSigned b then some 0x28
    else
      (refuse (u32 b o != 0x47534B53) o) |>.or <| refuse (u16 b (o + 4) != 1) (o + 4)
      |>.or <| refuse (u16 b (o + 6) != 0) (o + 6)
      |>.or <| refuse (!signedBy (hashBytes h) (b.take 128) (uN 32 b (o + 8)) (uN 32 b (o + 40))) (o + 8)

/-! Sections (R266, R267). -/

/-- R266: a section table entry. -/
structure Section where
  entry : Nat
  kind : Nat
  off : Nat
  len : Nat
  count : Nat
  deriving DecidableEq, Repr

/-- The section table. -/
def sectionsOf (b : Bytes) : List Section :=
  (List.range (imgSections b)).map fun i =>
    let e := imgTable b + 16 * i
    { entry := e, kind := u16 b e, off := u32 b (e + 4), len := u32 b (e + 8), count := u32 b (e + 12) }

/-- R267: the size of the records of a section type, 0 where they vary; none for an unknown type. -/
def recordSize : Nat → Option Nat
  | 1 | 2 => some 32
  | 3 | 4 | 9 => some 16
  | 5 | 6 => some 0
  | 7 | 10 | 11 => some 8
  | 8 => some 4
  | _ => none

/-- R267: a section type is allowed in the image. -/
def sectionAllowed (isLeaf : Bool) (t : Nat) : Bool :=
  (recordSize t).isSome && (if isLeaf then t != 2 && t != 11 else t != 3)

/-- The section of a type. -/
def sectionOf (b : Bytes) (t : Nat) : Option Section := (sectionsOf b).find? fun s => s.kind == t

/-- The size of a record of variable size at `o`, before its padding (R284, R286). -/
def bodySize (b : Bytes) (t o : Nat) : Nat :=
  if t = 5 then 32 + 20 * u16 b (o + 0x12) + 8 * u16 b (o + 0x0E) else 16 + 16 * u16 b (o + 4)

/-- R284, R286: the offsets of `n` records of variable size from `o`, and where they end. -/
def walkRecords (b : Bytes) (t : Nat) : Nat → Nat → List Nat × Nat
  | 0, o => ([], o)
  | n + 1, o =>
    let (l, e) := walkRecords b t n (o + (bodySize b t o + 15) / 16 * 16)
    (o :: l, e)

/-- The offsets of the records of a section type. -/
def recordsOf (b : Bytes) (t : Nat) : List Nat :=
  match sectionOf b t with
  | none => []
  | some s =>
    match recordSize t with
    | some 0 => (walkRecords b t s.count s.off).1
    | some n => (List.range s.count).map fun i => s.off + n * i
    | none => []

/-- R266, R267: the length of a section agrees with its count. A section has no more records than bytes. -/
def lengthOk (b : Bytes) (s : Section) : Bool :=
  match recordSize s.kind with
  | some 0 => s.count ≤ s.len && (walkRecords b s.kind s.count s.off).2 == s.off + s.len
  | some n => s.len == n * s.count
  | none => false

/-- Two spans of bytes overlap. -/
def overlap (a n c m : Nat) : Bool := 0 < n && 0 < m && a < c + m && c < a + n

/-- R266, R267: the type of an entry, with the entries before it. -/
def checkType (b : Bytes) (before : List Section) (s : Section) : Option Nat :=
  refuse (!sectionAllowed (imgKind b == 2) s.kind || before.any fun y => y.kind == s.kind) s.entry

/-- R266: the place of the section of an entry, with the entries before it. -/
def checkPlace (b : Bytes) (before : List Section) (s : Section) : Option Nat :=
  refuse (s.off % 16 != 0 || imgSignedLen b < s.off + s.len || overlap s.off s.len 0 128
    || overlap s.off s.len (imgTable b) (16 * imgSections b)
    || before.any fun y => overlap s.off s.len y.off y.len) (s.entry + 4)

/-- A check of the entries in order. -/
def checkTable (f : List Section → Section → Option Nat) : List Section → List Section → Option Nat
  | _, [] => none
  | before, s :: rest => (f before s).or (checkTable f (before ++ [s]) rest)

/-- R269: the bits of the TYPE_DATA of a unit type that mean something, as a little-endian mask.
DEDUCED (log entry 72). -/
def typeDataMask : Nat → Nat
  | 0x10 => 0x01
  | 0x11 => 0xFFFF
  | 0x12 => 0xFFFFFFFFFFFF018F
  | 0x13 | 0x15 | 0x16 => 0x8F
  | 0x14 => 0x03
  | _ => 0

/-- R267 to R291: the reserved bytes of a record of a type, as spans from its start. -/
def reservedSpans (b : Bytes) (t o : Nat) : List (Nat × Nat) :=
  match t with
  | 1 => [(0x0B, 0x0C)]
  | 2 => [(0x0C, 0x10), (0x18, 0x20)]
  | 3 => [(6, 8)]
  | 4 => [(0xA, 0x10)]
  | 5 =>
    let w := 32 + 20 * u16 b (o + 0x12)
    let n := u16 b (o + 0x0E)
    (0x14, 0x20) :: ((List.range n).map fun j => (w + 8 * j + 3, w + 8 * j + 4))
      ++ [(w + 8 * n, (w + 8 * n + 15) / 16 * 16)]
  | 6 => [(1, 2), (6, 16)]
  | 7 => [(5, 6)]
  | 8 => [(3, 4)]
  | 9 => [(0xD, 0x10)]
  | 10 => [(1, 2)]
  | 11 => [(4, 8)]
  | _ => []

/-- R263, R269, R284: reserved bytes and bits of one record. -/
def checkReserved (b : Bytes) (t o : Nat) : Option Nat :=
  (firstOf (reservedSpans b t o) fun (x, y) => nonZero b (o + x) (o + y))
  |>.or <| (if t = 1 then
      firstOf (List.range 8) fun i =>
        let allowed := typeDataMask (u8 b (o + 4)) / 256 ^ i % 256
        refuse (u8 b (o + 0x18 + i) &&& allowed != u8 b (o + 0x18 + i)
          && UnitType.all.any fun (k : UnitType) => k.code == u8 b (o + 4)) (o + 0x18 + i)
    else none)
  |>.or <| refuse (t == 5 && 4 ≤ u8 b (o + 1)) (o + 1)

/-- R263: a byte that belongs to no part of the image. -/
def betweenParts (b : Bytes) (o : Nat) : Bool :=
  128 ≤ o && o < imgSignedLen b && !(imgTable b ≤ o && o < imgTable b + 16 * imgSections b)
    && !(sectionsOf b).any fun s => s.off ≤ o && o < s.off + s.len

/-- R263, R266, R267, R295 code 0x04, in the order of its text. -/
def checkSections (b : Bytes) : Option Nat :=
  (refuse (imgTable b % 16 != 0 || imgTable b < 128) 0x20)
  |>.or <| checkTable (checkType b) [] (sectionsOf b)
  |>.or <| checkTable (checkPlace b) [] (sectionsOf b)
  |>.or <| (firstOf (sectionsOf b) fun s => refuse (!lengthOk b s) (s.entry + 8))
  |>.or <| refuse (sectionOf b 1).isNone 0x24
  |>.or <| (firstOf (sectionsOf b) fun s => nonZero b (s.entry + 2) (s.entry + 4))
  |>.or <| (firstOf (b.zipIdx) fun (x, o) => refuse (x != 0 && betweenParts b o) o)
  |>.or <| (firstOf (sectionsOf b) fun s => firstOf (recordsOf b s.kind) fun o => checkReserved b s.kind o)

/-! Units (R268 to R270). -/

/-- The unit type of a code. -/
def unitTypeOf (c : Nat) : Option UnitType := UnitType.all.find? fun t => t.code == c

/-- R268: the unit record at an offset. -/
def unitRecAt (b : Bytes) (o : Nat) : UnitRec :=
  { unit := u16 b o, parent := u16 b (o + 2), kind := (unitTypeOf (u8 b (o + 4))).getD .glyph
    uflags := u8 b (o + 5), resource := u16 b (o + 6), leaf := u16 b (o + 8), paramCount := u8 b (o + 0xA)
    window := u16 b (o + 0xC), eicSrc := u16 b (o + 0xE), name := BitVec.ofNat 64 (u64 b (o + 0x10))
    typeData := BitVec.ofNat 64 (u64 b (o + 0x18)) }

/-- The units of an image. -/
def imageUnits (b : Bytes) : List UnitRec := (recordsOf b 1).map (unitRecAt b)

/-- The record of a unit. -/
def findRec (us : List UnitRec) (u : Nat) : Option UnitRec := us.find? fun r => r.unit == u

/-- R295: the images of the leaves that are staged beside a leaf image, all but an earlier one of its own leaf.
DEDUCED (log entry 175). -/
def besideImages (s : State) (b : Bytes) : List Image :=
  if imgKind b = 2 then (s.co.staged.map (·.image)).filter fun im => im.leaf != imgLeaf b else []

/-- The units in force that no staged leaf replaces, nor the leaf image itself. -/
def lastingUnits (s : State) (b : Bytes) : List UnitSt :=
  if imgKind b = 2 then
    s.folio.units.filter fun x => x.rec_.leaf != imgLeaf b && !(besideImages s b).any fun im => im.leaf == x.rec_.leaf
  else []

/-- R295: the units that stand beside an image after the load or the commit: none for a folio; for a leaf those in
force, with staged leaves in the place of those that they replace. -/
def besideUnits (s : State) (b : Bytes) : List UnitRec :=
  (lastingUnits s b).map (·.rec_) ++ (besideImages s b).flatMap (·.units)

/-- The units after the load or the commit. -/
def comingUnits (s : State) (b : Bytes) : List UnitRec := besideUnits s b ++ imageUnits b

/-- The unit `u` lies below the glyph `g`, by the parents of a list of records. -/
def recBelow (us : List UnitRec) (g : Nat) : Nat → Nat → Bool
  | 0, _ => false
  | n + 1, u =>
    match findRec us u with
    | some r => r.parent == g || recBelow us g n r.parent
    | none => false

/-- The unit `u` lies below the glyph `g`. -/
def below (us : List UnitRec) (g u : Nat) : Bool := recBelow us g us.length u

/-- The unit of a list that binds a resource. -/
def binder (us : List UnitRec) (k : UnitType) (i : Nat) : Option UnitRec :=
  us.find? fun r => r.kind == k && r.resource == i

/-- R40: a ruling period. -/
def periodOk (p : Nat) : Bool := p == 500 || (504 ≤ p && p ≤ 65536 && p % 8 == 0)

/-- R295 code 0x05. -/
def checkRuling (b : Bytes) : Option Nat :=
  refuse (!(periodOk (imgRuling b) || (imgKind b == 2 && imgRuling b == 0))) 0x18

/-- R295 code 0x06. -/
def checkGeneration (s : State) (b : Bytes) : Option Nat :=
  if imgKind b = 2 then
    (refuse (!s.folio.loaded || imgBase b != s.folio.generation) 0x14)
    |>.or <| refuse (!precedes s.folio.generation (imgGeneration b)) 0x10
    |>.or <| refuse (!s.folio.leaves.any fun l => l.leaf == imgLeaf b) 0x26
  else none

/-- R270, R295 code 0x07: one unit record, with the unit index before it. -/
def checkUnit (us : List UnitRec) (isLeaf : Bool) (b : Bytes) (before : Option Nat) (o : Nat) : Option Nat :=
  let r := unitRecAt b o
  let known := (unitTypeOf (u8 b (o + 4))).isSome
  let glyph := r.kind == .glyph
  let root := !isLeaf && r.unit == 0
  let parentOk := match findRec us r.parent with
    | some p => p.kind == .glyph && r.parent < r.unit
    | none => false
  (refuse (4096 ≤ r.unit || before.any fun u => r.unit ≤ u) o)
  |>.or <| refuse (if root then r.parent != 0xFFFF else !parentOk) (o + 2)
  |>.or <| refuse (!known || (root && !glyph)) (o + 4)
  |>.or <| refuse (2 ≤ r.uflags) (o + 5)
  |>.or <| refuse (if glyph then 64 < r.paramCount else r.paramCount != 0) (o + 0xA)
  |>.or <| refuse (r.window != 0xFFFF && (!glyph || 2048 ≤ r.window)) (o + 0xC)
  |>.or <| refuse (r.eicSrc != 0 && (!glyph || r.eicSrc < 64 || 1022 < r.eicSrc)) (o + 0xE)

/-- Unit records in order. -/
def checkUnits (us : List UnitRec) (isLeaf : Bool) (b : Bytes) : Option Nat → List Nat → Option Nat
  | _, [] => none
  | before, o :: rest =>
    (checkUnit us isLeaf b before o).or (checkUnits us isLeaf b (some (u16 b o)) rest)

/-- R270, R295 code 0x07. -/
def checkTree (s : State) (b : Bytes) : Option Nat :=
  let os := recordsOf b 1
  let isLeaf := imgKind b == 2
  (refuse (!isLeaf && (imageUnits b).head?.all fun r => r.unit != 0) (((sectionOf b 1).map (·.off)).getD 0))
  |>.or <| checkUnits (comingUnits s b) isLeaf b none os

/-! Bindings and owners. -/

/-- R315, R430: a logical resource has a physical one. -/
def backed (s : State) (k : UnitType) (i : Nat) : Bool :=
  match k with
  | .quill => decide (i < (healthy 20 (retiredQuills s.pool)).length)
  | .inkwell => if h : i < 64 then s.ink.banks[i].phys.isSome else false
  | .nib => if h : i < 256 then decide (s.nibs[i].cell < 272) else false
  | .counter => decide (i < (healthy 544 s.pool.retiredCes).length)
  | _ => true

/-- The PIN of a nib's record (R269). -/
def recPin (r : UnitRec) : Nat := fld r.typeData 31 16

/-- R290: a leaf may bind what the outgoing leaf binds and what no unit in force binds. -/
def bindable (s : State) (b : Bytes) (r : UnitRec) : Bool :=
  imgKind b != 2 || !s.folio.units.any fun x =>
    x.rec_.leaf != imgLeaf b && x.rec_.kind == r.kind && x.rec_.resource == r.resource

/-- R25, R137, R290, R295 code 0x08: one record, with those before it. -/
def checkBinding (s : State) (b : Bytes) (before : List UnitRec) (o : Nat) : Option Nat :=
  let r := unitRecAt b o
  if r.kind = .glyph then refuse (r.resource != 0xFFFF) (o + 6)
  else
    (refuse (r.kind.count ≤ r.resource || !backed s r.kind r.resource
        || (binder before r.kind r.resource).isSome || !bindable s b r) (o + 6))
    |>.or <| refuse (r.kind == .nib && (!pinOk (recPin r) || (recPin r != 511
        && (before ++ besideUnits s b).any fun x => x.kind == .nib && recPin x == recPin r))) (o + 0x1A)

/-- Records in order, each with those before it. -/
def checkEach (f : List UnitRec → Nat → Option Nat) (b : Bytes) : List UnitRec → List Nat → Option Nat
  | _, [] => none
  | before, o :: rest => (f before o).or (checkEach f b (before ++ [unitRecAt b o]) rest)

/-- R295 code 0x08. -/
def checkBindings (s : State) (b : Bytes) : Option Nat := checkEach (checkBinding s b) b [] (recordsOf b 1)

/-- R269: the OWNER of a nib, tracker, comparator or converter. -/
def recOwner (r : UnitRec) : Option QuillIx :=
  match r.kind with
  | .nib | .tracker | .comparator | .converter =>
    if tst r.typeData 7 then some (Fin.ofNat 16 (fld r.typeData 3 0)) else none
  | _ => none

/-- R295 code 0x09: one record. DEDUCED (log entry 71). -/
def checkOwner (us : List UnitRec) (b : Bytes) (o : Nat) : Option Nat :=
  let r := unitRecAt b o
  let quill (i : Nat) : Bool := (binder us .quill i).isSome
  (refuse (match recOwner r with | some q => !quill q | none => false) (o + 0x18))
  |>.or <| refuse (r.kind == .inkwell && 4 < fld r.typeData 7 0) (o + 0x18)
  |>.or <| refuse (r.kind == .inkwell
      && (if fld r.typeData 7 0 = 1 then !quill (fld r.typeData 15 8) else fld r.typeData 15 8 != 0)) (o + 0x19)

/-- R295 code 0x09. -/
def checkOwners (s : State) (b : Bytes) : Option Nat := firstOf (recordsOf b 1) (checkOwner (comingUnits s b) b)

/-! Windows and leaves (R280, R289, R290). -/

/-- R289: the leaf declared at an offset. -/
def leafAt (b : Bytes) (o : Nat) : LeafDecl :=
  { leaf := u16 b o, root := u16 b (o + 2), unitFirst := u16 b (o + 4), unitCount := u16 b (o + 6)
    windowFirst := u16 b (o + 8), windowCount := u16 b (o + 0xA) }

/-- The leaves that hold after the load: those of the image, or of the folio in force for a leaf image. -/
def leavesFor (s : State) (b : Bytes) : List LeafDecl :=
  if imgKind b = 2 then s.folio.leaves else (recordsOf b 2).map (leafAt b)

/-- The unit index lies in the range of the leaf. -/
def LeafDecl.holds (l : LeafDecl) (u : Nat) : Bool := l.unitFirst ≤ u && u < l.unitFirst + l.unitCount
/-- The window lies in the range of the leaf. -/
def LeafDecl.holdsWindow (l : LeafDecl) (w : Nat) : Bool := l.windowFirst ≤ w && w < l.windowFirst + l.windowCount

/-- R280: one record, with those before it. -/
def checkWindow (s : State) (b : Bytes) (before : List UnitRec) (o : Nat) : Option Nat :=
  let r := unitRecAt b o
  if r.kind != .glyph then none
  else if r.window = 0xFFFF then refuse (r.paramCount != 0) (o + 0xC)
  else
    refuse ((before ++ besideUnits s b).any (fun x => x.kind == .glyph && x.window == r.window)
      || (leavesFor s b).any fun l => l.holdsWindow r.window != l.holds r.unit) (o + 0xC)

/-- R280: the window ranges of an image's leaves, each against those before it. -/
def checkRanges (b : Bytes) (f : LeafDecl → LeafDecl → Bool) (at_ : Nat) : List LeafDecl → List Nat → Option Nat
  | _, [] => none
  | before, o :: rest =>
    (refuse (before.any fun l => f l (leafAt b o)) (o + at_)).or
      (checkRanges b f at_ (before ++ [leafAt b o]) rest)

/-- R280, R295 code 0x0A. -/
def checkWindows (s : State) (b : Bytes) : Option Nat :=
  (checkEach (checkWindow s b) b [] (recordsOf b 1))
  |>.or <| checkRanges b (fun x y => overlap x.windowFirst x.windowCount y.windowFirst y.windowCount) 8 []
    (recordsOf b 2)

/-- R289: one leaf record. -/
def checkLeafDecl (b : Bytes) (o : Nat) : Option Nat :=
  let l := leafAt b o
  let us := imageUnits b
  let others := (recordsOf b 2).map (leafAt b)
  (refuse (l.leaf == 0 || 255 < l.leaf) o)
  |>.or <| refuse (!l.holds l.root || (match findRec us l.root with
      | some r => others.any fun y => y.holds r.parent
      | none => true)) (o + 2)
  |>.or <| refuse (l.unitCount == 0 || 4096 < l.unitFirst + l.unitCount) (o + 4)
  |>.or <| refuse (2048 < l.windowFirst + l.windowCount) (o + 8)

/-- R289, R290: a unit record and the leaf it belongs to. -/
def checkMember (s : State) (b : Bytes) (o : Nat) : Option Nat :=
  let r := unitRecAt b o
  let us := comingUnits s b
  match (leavesFor s b).find? fun l => l.holds r.unit with
  | none => refuse (r.leaf != 0 || imgKind b == 2) (o + 8)
  | some l =>
    (refuse (r.leaf != l.leaf || (imgKind b == 2 && l.leaf != imgLeaf b)) (o + 8))
    |>.or <| refuse (r.unit != l.root && !below us l.root r.unit) (o + 2)

/-- R290: the root of a leaf image stands, with its parent. -/
def checkRoot (s : State) (b : Bytes) : Option Nat :=
  if imgKind b = 2 then
    match s.folio.leaves.find? fun l => l.leaf == imgLeaf b with
    | none => none
    | some l =>
      match findRec (imageUnits b) l.root with
      | none => some (((sectionOf b 1).map (·.off)).getD 0)
      | some r =>
        match findRec (s.folio.units.map (·.rec_)) l.root with
        | some old => if r.parent = old.parent then none
          else ((recordsOf b 1).find? fun o => u16 b o == l.root).map (· + 2)
        | none => none
  else none

/-- R289, R290, R295 code 0x0B. -/
def checkLeaves (s : State) (b : Bytes) : Option Nat :=
  (checkRanges b (fun x y => x.leaf == y.leaf) 0 [] (recordsOf b 2))
  |>.or <| firstOf (recordsOf b 2) (checkLeafDecl b)
  |>.or <| checkRanges b (fun x y => overlap x.unitFirst x.unitCount y.unitFirst y.unitCount) 4 [] (recordsOf b 2)
  |>.or <| firstOf (recordsOf b 1) (checkMember s b)
  |>.or <| checkRoot s b

end Sys2Proof.Machine
end

