-- ==== Sys2Proof/Machine/ImageChecks.lean ====
section
/-! DEFINITION. The checks of R295 from code 0x0C on, and what an image holds (R276 to R291). -/
namespace Sys2Proof.Machine

/-! Registers as an image names them (R277, R281, R282). -/

/-- The offset of a block is a register of it. DEDUCED (log entry 73). -/
def isRegister (x : Place) : Bool :=
  match x.block with
  | .track => x.off ≤ 0xBC
  | .adc => x.off ≤ 0x2C || 0x40 ≤ x.off
  | .chan => x.off ≤ 0x38
  | _ => true

/-- The type of unit whose resource a block belongs to. -/
def blockType : Block → Option UnitType
  | .nib => some .nib
  | .link => some .reflex
  | .ce => some .counter
  | .track => some .tracker
  | .fb => some .feedback
  | .comp => some .comparator
  | .adc => some .converter
  | .chan => some .dmaChannel
  | .stream => some .captureStream
  | .quill => some .quill
  | _ => none

/-- R281: a register that a unit record sets, or a block that CONFIG does not reach. -/
def notConfigured (x : Place) : Bool :=
  (x.block == .nib && (x.off == 0x08 || x.off == 0x0C)) || x.block == .quill

/-- R281: the unit that binds the resource of a register that CONFIG may name. -/
def registerUnit (us : List UnitRec) (addr : Nat) : Option UnitRec :=
  match placeOf addr with
  | none => none
  | some x =>
    if !isRegister x || notConfigured x then none
    else (blockType x.block).bind fun k => binder us k x.inst

/-- R271, R281: a write of the value sets an enable field. -/
def setsEnable (x : Place) (v : Nat) : Bool :=
  v % 2 == 1 && ((x.block == .fb && x.off == 0x6C) || (x.off == 0 && x.block != .chan))

/-- R281: device-wide registers that their chapters mark as set by the folio. -/
def deviceWide (addr : Nat) : Bool :=
  [0x2040, 0x2060, 0x2068, 0x4000, 0x4008, 0x400C].contains addr
    || (0x11004 ≤ addr && addr ≤ 0x11FF8 && addr % 4 == 0)
    || (0x10400 ≤ addr && addr < 0x10600 && addr % 8 == 0)

/-- R281: the CONFIG record at an offset. -/
def configAt (b : Bytes) (o : Nat) : ConfigRec :=
  { offset := u32 b o, value := BitVec.ofNat 32 (u32 b (o + 4)), unit := u16 b (o + 8) }

/-- R281, R290: one CONFIG record. -/
def configOk (b : Bytes) (c : ConfigRec) : Bool :=
  if c.unit = 0xFFFF then imgKind b = 1 && deviceWide c.offset
  else
    match findRec (imageUnits b) c.unit, placeOf c.offset with
    | some r, some x =>
      (match registerUnit (imageUnits b) c.offset with
        | some y => y.unit == r.unit
        | none => false)
        && !setsEnable x c.value.toNat
        && !(x.block == .track && x.off == 0x28 && 4096 < c.value.toNat)
    | _, _ => false

/-- R295 code 0x0F. -/
def checkConfig (b : Bytes) : Option Nat :=
  firstOf (recordsOf b 4) fun o => refuse (!configOk b (configAt b o)) o

/-! Programs (R284, R285). -/

/-- R285: the bound declaration at an offset. -/
def boundAt (b : Bytes) (o : Nat) : Bound :=
  { word := u16 b o, kind := u8 b (o + 2), lo := u16 b (o + 4), hi := u16 b (o + 6) }

/-- R284: the program record at an offset. -/
def programAt (b : Bytes) (o : Nat) : Program :=
  let n := u16 b (o + 0x12)
  { quill := Fin.ofNat 16 (u8 b o), halfmode := tst (b.getD (o + 1) 0) 0, half := tst (b.getD (o + 1) 0) 1
    entry := u16 b (o + 2), program := u16 b (o + 4), patch := u16 b (o + 6), proved := u16 b (o + 8)
    maxRecords := u16 b (o + 0xA), maxWrites := u16 b (o + 0xC), base := u16 b (o + 0x10)
    words := (List.range n).map fun i => BitVec.ofNat 160 (uN 20 b (o + 32 + 20 * i))
    bounds := (List.range (u16 b (o + 0xE))).map fun j => boundAt b (o + 32 + 20 * n + 8 * j) }

/-- R217: SEQ evaluates COND, and the code is reserved. -/
def reservedCond (m : Micro) : Bool :=
  [2, 3, 5, 7, 12].contains m.seq.toNat && [0x10, 0x2D, 0x2E, 0x2F].contains m.cond.toNat

/-- R285: a declaration qualifies its word. DEDUCED (log entry 75). -/
def boundOk (p : Program) (d : Bound) : Bool :=
  p.base ≤ d.word &&
    match p.words[d.word - p.base]? with
    | none => false
    | some w =>
      let sq := (microOf w).seq.toNat
      (d.kind == 1 && sq == 0xE && d.lo == 0) || (d.kind == 2 && sq == 0xA && d.lo ≤ d.hi && d.hi ≤ 255)

/-- R284, R285, R295 code 0x0C: one record, with the quills before it. -/
def checkProgram (b : Bytes) (before : List Nat) (o : Nat) : Option Nat :=
  let p := programAt b o
  let n := p.words.length
  (refuse ((binder (imageUnits b) .quill (u8 b o)).isNone || before.contains (u8 b o)) o)
  |>.or <| refuse (n == 0) (o + 0x12)
  |>.or <| refuse ((if p.halfmode then 4096 else 8192) < p.base + n) (o + 0x10)
  |>.or <| refuse (p.entry < p.base || p.base + n ≤ p.entry) (o + 2)
  |>.or <| (firstOf p.words.zipIdx fun (w, i) =>
      refuse (illegalWord (microOf w) || reservedCond (microOf w)) (o + 32 + 20 * i))
  |>.or <| (firstOf p.bounds.zipIdx fun (d, j) => refuse (!boundOk p d) (o + 32 + 20 * n + 8 * j))
  |>.or <| (firstOf p.words.zipIdx fun (w, i) =>
      refuse ((microOf w).seq.toNat == 0xE && !p.bounds.any fun d => d.kind == 1 && d.word == p.base + i)
        (o + 32 + 20 * i))
  |>.or <| refuse (128 < p.maxRecords) (o + 0xA)
  |>.or <| refuse (256 < p.maxWrites) (o + 0xC)

/-- Program records in order. -/
def checkProgramList (b : Bytes) : List Nat → List Nat → Option Nat
  | _, [] => none
  | before, o :: rest => (checkProgram b before o).or (checkProgramList b (u8 b o :: before) rest)

/-- R295 code 0x0C. -/
def checkPrograms (b : Bytes) : Option Nat := checkProgramList b [] (recordsOf b 5)

/-- The ruling period in force after the load or the commit (R258). Of leaves staged together, the first that brings
one decides. -/
def comingPeriod (s : State) (b : Bytes) : Nat :=
  (((besideImages s b).map (·.rulingNs) ++ [imgRuling b]).find? (· != 0)).getD
    (if s.folio.started then s.time.period else s.folio.rulingNs)

/-- R257, R258: PROVED exceeds B for a ruling period. -/
def overBudget (period proved : Nat) : Bool := period < proved + 96

/-- R258: what the quills beside an image declare: those in force that stay, and those of staged leaves. -/
def besideProved (s : State) (b : Bytes) : List Nat :=
  let inForce (r : UnitRec) : List Nat :=
    if r.kind = .quill then [s.quills[Fin.ofNat 16 r.resource].proved.toNat] else []
  (lastingUnits s b).flatMap (fun x => inForce x.rec_)
    ++ (besideImages s b).flatMap fun im => im.programs.map (·.proved)

/-- R258, R295 code 0x0D. -/
def checkBudget (s : State) (b : Bytes) : Option Nat :=
  let period := comingPeriod s b
  (firstOf (recordsOf b 5) fun o => refuse (overBudget period (u16 b (o + 8))) (o + 8))
  |>.or <| refuse ((besideProved s b).any (overBudget period)) 0x18

/-! Inkwell contents (R286). -/

/-- R286: the record at an offset. -/
def fillAt (b : Bytes) (o : Nat) : InkFill :=
  { bank := u8 b o, first := u16 b (o + 2)
    words := (List.range (u16 b (o + 4))).map fun i => BitVec.ofNat 128 (uN 16 b (o + 16 + 16 * i)) }

/-- R295 code 0x0E. -/
def checkFills (b : Bytes) : Option Nat :=
  firstOf (recordsOf b 6) fun o =>
    (refuse (binder (imageUnits b) .inkwell (u8 b o)).isNone o)
    |>.or <| refuse (4096 < u16 b (o + 2) + u16 b (o + 4)) (o + 2)
    |>.or <| refuse (u16 b (o + 4) == 0) (o + 4)

/-! Parameters and grants (R276, R277, R282). -/

/-- The parameter that a BAR0 address names as PARAMk, among units (R275). -/
def recParamAt (us : List UnitRec) (addr : Nat) : Option (Nat × Nat) :=
  if 0x1800000 ≤ addr ∧ addr < 0x2000000 ∧ addr % 4 = 0 then
    let off := (addr - 0x1800000) % 4096
    let w := (addr - 0x1800000) / 4096
    match us.find? fun r => r.kind == .glyph && r.window == w with
    | some r =>
      let k := (off - 0x100) / 4
      if 0x100 ≤ off ∧ off < 0x200 ∧ k < r.paramCount then some (r.unit, k) else none
    | none => none
  else none

/-- R282: one register of a grant of a quill whose unit has the given parent. -/
def grantOk (us own : List UnitRec) (parent addr : Nat) : Bool :=
  match recParamAt own addr with
  | some (u, _) => below us parent u
  | none =>
    match registerUnit own addr with
    | some r => below us parent r.unit
    | none => false

/-- R282, R290, R295 code 0x10. -/
def checkGrants (s : State) (b : Bytes) : Option Nat :=
  firstOf (recordsOf b 10) fun o =>
    match binder (imageUnits b) .quill (u8 b o) with
    | none => some o
    | some q =>
      (refuse (u16 b (o + 2) == 0) (o + 2))
      |>.or <| refuse (!(List.range (u16 b (o + 2))).all fun i =>
          grantOk (comingUnits s b) (imageUnits b) q.parent (u32 b (o + 4) + 4 * i)) (o + 4)

/-- R282: the grant at an offset. -/
def grantAt (b : Bytes) (leaf o : Nat) : Grant :=
  { quill := Fin.ofNat 16 (u8 b o), count := u16 b (o + 2), offset := u32 b (o + 4), leaf := leaf }

/-- R276: the parameter record at an offset. -/
def paramRecAt (b : Bytes) (o : Nat) : ParamRec :=
  let t := u32 b (o + 8)
  { glyph := u16 b o, param := u8 b (o + 2), reset := BitVec.ofNat 32 (u32 b (o + 4))
    target := if u8 b (o + 3) = 2 then
        .ink (Fin.ofNat 64 (t / 4096)) (Fin.ofNat 4096 t) (Fin.ofNat 4 (u8 b (o + 0xC)))
      else .reg t }

/-- R277: a register target of a glyph's parameter lies in its subtree. -/
def regTargetOk (us own : List UnitRec) (g addr : Nat) : Bool :=
  match recParamAt own addr with
  | some (u, _) => below us g u
  | none =>
    match placeOf addr with
    | none => false
    | some x =>
      if x.block = .quill then
        0x68 ≤ x.off && x.off < 0xA8 &&
          match binder own .quill x.inst with
          | some r => below us g r.unit
          | none => false
      else
        match registerUnit own addr with
        | some r => below us g r.unit
        | none => false

/-- The parameters that stand beside an image after the commit. -/
def besideParams (s : State) (b : Bytes) : List ParamRec :=
  ((lastingUnits s b).flatMap fun x => (x.params.zipIdx.filter fun (p, _) => p.target != .none).map fun (p, k) =>
      { glyph := x.rec_.unit, param := k, reset := 0, target := p.target })
    ++ (besideImages s b).flatMap (·.params)

/-- R277: the parameters that a target passes through, and where it ends. -/
def endTarget (us : List UnitRec) (ps : List ParamRec) : Nat → ParamTarget → List (Nat × Nat) × ParamTarget
  | 0, t => ([], t)
  | n + 1, t =>
    match t with
    | .reg addr =>
      match recParamAt us addr with
      | some (u, k) =>
        match ps.find? fun p => p.glyph == u && p.param == k with
        | some p =>
          let (l, e) := endTarget us ps n p.target
          ((u, k) :: l, e)
        | none => ([(u, k)], t)
      | none => ([], t)
    | _ => ([], t)

/-- R277: two parameters end at one target, and neither passes through the other. -/
def paramsMeet (us : List UnitRec) (ps : List ParamRec) (p q : ParamRec) : Bool :=
  let (lp, tp) := endTarget us ps (us.length + 1) p.target
  let (lq, tq) := endTarget us ps (us.length + 1) q.target
  tp == tq && tp != .none && !lp.contains (q.glyph, q.param) && !lq.contains (p.glyph, p.param)

/-- R278: the parameter has the high word of a 64-bit value, and another of its glyph, of a higher index, the low
word. -/
def wordsSwapped (ps : List ParamRec) (p : ParamRec) : Bool :=
  match p.target with
  | .reg addr =>
    match placeOf addr with
    | none => false
    | some x =>
      match wideAt x with
      | none => false
      | some lo => x.off == lo + 4 &&
          ps.any fun q => q.glyph == p.glyph && p.param < q.param && q.target == .reg (addr - 4)
  | _ => false

/-- R276 to R278, R290, R295 code 0x13: one record, with those before it. DEDUCED (log entry 74). -/
def checkParam (s : State) (b : Bytes) (before : List ParamRec) (o : Nat) : Option Nat :=
  let p := paramRecAt b o
  let us := comingUnits s b
  let own := imageUnits b
  let all := besideParams s b ++ (recordsOf b 9).map (paramRecAt b)
  match findRec own p.glyph with
  | none => some o
  | some g =>
    (refuse (g.kind != .glyph) o)
    |>.or <| refuse (g.paramCount ≤ p.param || before.any fun q => q.glyph == p.glyph && q.param == p.param
        || wordsSwapped all p) (o + 2)
    |>.or <| refuse (u8 b (o + 3) != 1 && u8 b (o + 3) != 2) (o + 3)
    |>.or <| refuse (if u8 b (o + 3) = 2 then 3 < u8 b (o + 0xC) else u8 b (o + 0xC) != 0) (o + 0xC)
    |>.or <| refuse (!(match p.target with
        | .ink k _ _ => u32 b (o + 8) < 2 ^ 18 && (match binder own .inkwell k.val with
            | some r => below us p.glyph r.unit
            | none => false)
        | .reg addr => regTargetOk us own p.glyph addr
        | .none => true)) (o + 8)
    |>.or <| refuse ((besideParams s b ++ before).any (paramsMeet us all p)) (o + 8)

/-- Parameter records in order. -/
def checkParamList (s : State) (b : Bytes) : List ParamRec → List Nat → Option Nat
  | _, [] => none
  | before, o :: rest => (checkParam s b before o).or (checkParamList s b (before ++ [paramRecAt b o]) rest)

/-- R295 code 0x13. -/
def checkParams (s : State) (b : Bytes) : Option Nat := checkParamList s b [] (recordsOf b 9)

/-! Routes and guard levels (R287, R288). -/

/-- R287: the source kind of a code. -/
def srcKindOfCode (c : Nat) : Option SrcKind := SrcKind.all.find? fun k => k.code == c

/-- R287: the type of unit that binds a source, if a resource is the source. -/
def srcUnitType : SrcKind → Option UnitType
  | .nib => some .nib | .tracker => some .tracker | .feedback => some .feedback | .comparator => some .comparator
  | .converter => some .converter | .counter => some .counter | .quillEvent => some .quill | .reflex => some .reflex
  | .stream => some .captureStream | .quillBlock => some .quill | .glyph => none | .pps => none

/-- R287: an event bit of a source kind. -/
def srcBit (k : SrcKind) (bit : Nat) : Bool :=
  match k with
  | .nib => bit ≤ 8 || (16 ≤ bit && bit ≤ 20)
  | .tracker => bit ≤ 14
  | .feedback => bit ≤ 12
  | .comparator => bit ≤ 5
  | .converter => bit ≤ 3
  | .counter => bit ≤ 3
  | .quillEvent => bit ≤ 63
  | .glyph => bit ≤ 2
  | .quillBlock => bit ≤ 5
  | .reflex | .stream | .pps => bit = 0

/-- R287: the unit that a source belongs to. -/
def srcUnit (us : List UnitRec) (k : SrcKind) (i : Nat) : Option UnitRec :=
  match k with
  | .glyph => (findRec us i).filter fun r => r.kind == .glyph
  | .pps => none
  | _ => (srcUnitType k).bind fun t => binder us t i

/-- R287: INDEX lies in range, and in a leaf names one of its own units (R290). -/
def srcIndexOk (b : Bytes) (k : SrcKind) (i : Nat) : Bool :=
  (match k with
    | .glyph => (srcUnit (imageUnits b) k i).isSome
    | .pps => i == 0
    | _ => match srcUnitType k with | some t => decide (i < t.count) | none => false)
    && (imgKind b == 1 || (srcUnit (imageUnits b) k i).isSome)

/-- R393: a source that routes may name. -/
def routable (t : Nat) : Bool := (64 ≤ t && t ≤ 127) || (128 ≤ t && t ≤ 255 && 5 ≤ t % 8)

/-- R287: a queue route is one that may be. DEDUCED (log entry 76). -/
def queueRouteOk (b : Bytes) (k : SrcKind) (bit i q : Nat) : Bool :=
  q < 16 && k != .quillEvent && k != .quillBlock && !(k == .nib && bit < 16)
    && (match (srcUnit (imageUnits b) k i).bind recOwner with
      | some o => o.val == q
      | none => (binder (imageUnits b) .quill q).isSome)

/-- R287, R359, R394, R295 code 0x11: one record. -/
def checkRoute (b : Bytes) (o : Nat) : Option Nat :=
  match srcKindOfCode (u8 b o) with
  | none => some o
  | some k =>
    let bit := u8 b (o + 1)
    let i := u16 b (o + 2)
    let t := u16 b (o + 6)
    let single := k == .reflex || k == .stream || k == .pps
    (refuse (if single then bit != 0 else bit != 0xFF && !srcBit k bit) (o + 1))
    |>.or <| refuse (!srcIndexOk b k i) (o + 2)
    |>.or <| refuse (u8 b (o + 4) == 0 || 3 < u8 b (o + 4)) (o + 4)
    |>.or <| refuse (!(match u8 b (o + 4) with
        | 1 => 64 ≤ t && t ≤ 1022
        | 2 => queueRouteOk b k bit i t
        | _ => routable t)) (o + 6)

/-- R295 code 0x11. -/
def checkRoutes (b : Bytes) : Option Nat := firstOf (recordsOf b 7) (checkRoute b)

/-- R287: the route at an offset. -/
def routeAt (b : Bytes) (leaf o : Nat) : Route :=
  let t := u16 b (o + 6)
  { kind := (srcKindOfCode (u8 b o)).getD .pps
    bit := if u8 b (o + 1) = 0xFF then none else some (u8 b (o + 1))
    index := u16 b (o + 2)
    dest := match u8 b (o + 4) with | 1 => .eic t | 2 => .queue (Fin.ofNat 16 t) | _ => .blotter t
    leaf := leaf }

/-- R288, R393: the resource types that raise a blotter source, with the resource where one alone does. -/
def raisedBy (src : Nat) : List (UnitType × Option Nat) :=
  if 128 ≤ src then (if src % 8 ≤ 4 then [(.quill, some ((src - 128) / 8))] else [])
  else if src = 28 then [(.quill, none)]
  else if src = 27 ∨ (48 ≤ src ∧ src ≤ 51) then [(.nib, none)]
  else if 56 ≤ src ∧ src ≤ 59 then [(.feedback, none)]
  else if src = 33 then [(.comparator, none)]
  else if src = 25 ∨ src = 32 then [(.converter, none)]
  else if 40 ≤ src ∧ src ≤ 43 then [(.inkwell, none)]
  else if src = 26 then [(.counter, none)]
  else []

/-- R288: a leaf may set the level of a source. -/
def leafGuardOk (b : Bytes) (src : Nat) : Bool :=
  ((raisedBy src).any fun (k, i) =>
    (imageUnits b).any fun r => r.kind == k && (match i with | some j => r.resource == j | none => true))
  || (recordsOf b 7).any fun o => u8 b (o + 4) == 3 && u16 b (o + 6) == src

/-- R288, R394, R295 code 0x12. -/
def checkGuards (b : Bytes) : Option Nat :=
  firstOf (recordsOf b 8) fun o =>
    (refuse (255 < u16 b o || u16 b o == 24 || (imgKind b == 2 && !leafGuardOk b (u16 b o))) o)
    |>.or <| refuse (u8 b (o + 2) == 0 || 4 < u8 b (o + 2)) (o + 2)

/-- R288: the guard level at an offset. -/
def guardAt (b : Bytes) (leaf o : Nat) : Guard := { source := u16 b o, level := u8 b (o + 2), leaf := leaf }

/-! Spares (R283) and carry records (R291). -/

/-- R283: the spare division of an image. -/
def sparesOf (b : Bytes) : SpareDiv :=
  match recordsOf b 11 with
  | o :: _ =>
    { proofreaders := u8 b o, standbys := u8 b (o + 1)
      pairs := ([u8 b (o + 2), u8 b (o + 3)].filter (· != 0xFF)).map (Fin.ofNat 16) }
  | [] => {}

/-- R269: PAIRED of a quill's record. -/
def recPaired (r : UnitRec) : Bool := r.kind == .quill && tst r.typeData 0

/-- R283: one entry of the pairs names a quill whose unit has PAIRED = 1. -/
def pairOk (b : Bytes) (q : Nat) : Bool := q == 0xFF || (imageUnits b).any fun r => recPaired r && r.resource == q

/-- R283: one SPARES record. -/
def checkSpareRec (b : Bytes) (o : Nat) : Option Nat :=
  let a := u8 b (o + 2)
  let c := u8 b (o + 3)
  (refuse (u8 b o + u8 b (o + 1) != 4) o)
  |>.or <| refuse (u8 b o < (if a = 0xFF then 0 else 1) + (if c = 0xFF then 0 else 1) || !pairOk b a) (o + 2)
  |>.or <| refuse (!pairOk b c || (c != 0xFF && c == a)) (o + 3)

/-- R283, R295 code 0x14. A leaf keeps the pairs of the folio in force. -/
def checkSpares (s : State) (b : Bytes) : Option Nat :=
  let pairs := if imgKind b = 2 then s.folio.spares.pairs else (sparesOf b).pairs
  (match sectionOf b 11 with
    | some k => refuse (k.count != 1) (k.entry + 12)
    | none => none)
  |>.or <| firstOf (recordsOf b 11) (checkSpareRec b)
  |>.or <| firstOf (recordsOf b 1) fun o =>
      let r := unitRecAt b o
      refuse (r.kind == UnitType.quill && (recPaired r != pairs.any fun q => q.val == r.resource)) (o + 0x18)

/-- R291: the unit type that a carry kind implies. -/
def carryType : Nat → Option UnitType
  | 1 => some .inkwell | 2 => some .tracker | 3 => some .counter | 4 => some .feedback | 5 => some UnitType.quill
  | 6 => some .glyph | _ => none

/-- R291: the carry record at an offset. -/
def carryAt (b : Bytes) (o : Nat) : CarryRec :=
  { kind := u8 b o, carry := u8 b (o + 1) == 1, fromUnit := u16 b (o + 2), toUnit := u16 b (o + 4)
    first := u32 b (o + 8), count := u32 b (o + 0xC) }

/-- R291, R295 code 0x15: one record. -/
def checkCarryRec (s : State) (b : Bytes) (o : Nat) : Option Nat :=
  let c := carryAt b o
  let old := (s.folio.units.map (·.rec_)).filter fun r => r.leaf == imgLeaf b
  match carryType c.kind, findRec old c.fromUnit, findRec (imageUnits b) c.toUnit with
  | none, _, _ => some o
  | some k, f, t =>
    (refuse (1 < u8 b (o + 1)) (o + 1))
    |>.or <| refuse (!f.any fun r => r.kind == k) (o + 2)
    |>.or <| refuse (!(t.any fun r => r.kind == k) || (2 ≤ c.kind && c.kind ≤ 5
        && f.map (·.resource) != t.map (·.resource))) (o + 4)
    |>.or <| refuse (if c.kind = 1 then 4096 < c.first + c.count else c.first != 0) (o + 8)
    |>.or <| refuse (if c.kind = 1 then c.count == 0 else c.count != 0) (o + 0xC)

/-- R295 code 0x15. -/
def checkCarry (s : State) (b : Bytes) : Option Nat := firstOf (recordsOf b 3) (checkCarryRec s b)

/-! The whole check (R295). -/

/-- R295: the checks in the order of the table, each with its code; `folio` and `leaf` say which kinds the command
takes, `sealed_` the enrolled key hash. -/
def checksOf (s : State) (b : Bytes) (folio leaf : Bool) (sealed_ : Option (BitVec 256)) :
    List (Nat × (Unit → Option Nat)) :=
  [(0x01, fun _ => checkHeader b folio leaf), (0x02, fun _ => checkDigest b),
   (0x03, fun _ => checkSignature b sealed_), (0x04, fun _ => checkSections b),
   (0x05, fun _ => checkRuling b), (0x06, fun _ => checkGeneration s b), (0x07, fun _ => checkTree s b),
   (0x08, fun _ => checkBindings s b), (0x09, fun _ => checkOwners s b), (0x0A, fun _ => checkWindows s b),
   (0x0B, fun _ => checkLeaves s b), (0x0C, fun _ => checkPrograms b), (0x0D, fun _ => checkBudget s b),
   (0x0E, fun _ => checkFills b), (0x0F, fun _ => checkConfig b), (0x10, fun _ => checkGrants s b),
   (0x11, fun _ => checkRoutes b), (0x12, fun _ => checkGuards b), (0x13, fun _ => checkParams s b),
   (0x14, fun _ => checkSpares s b), (0x15, fun _ => checkCarry s b)]

/-- The first failure of a list of checks: its code and offset. -/
def firstFailure : List (Nat × (Unit → Option Nat)) → Option (Nat × Nat)
  | [] => none
  | (code, f) :: rest =>
    match f () with
    | some o => some (code, o)
    | none => firstFailure rest

/-- R295: an image judged; none where it passes. -/
def checkImage (s : State) (b : Bytes) (folio leaf : Bool) : Option (Nat × Nat) :=
  firstFailure (checksOf s b folio leaf s.scribe.keyHash)

/-- What an image that has passed the checks holds. -/
def imageOf (b : Bytes) : Image :=
  let leaf := imgLeaf b
  { isLeaf := imgKind b == 2, generation := imgGeneration b, baseGeneration := imgBase b, rulingNs := imgRuling b
    leaf := leaf, units := imageUnits b, leaves := (recordsOf b 2).map (leafAt b)
    carry := (recordsOf b 3).map (carryAt b), config := (recordsOf b 4).map fun o => (o, configAt b o)
    programs := (recordsOf b 5).map (programAt b), fills := (recordsOf b 6).map (fillAt b)
    routes := (recordsOf b 7).map (routeAt b leaf), guards := (recordsOf b 8).map (guardAt b leaf)
    params := (recordsOf b 9).map (paramRecAt b), grants := (recordsOf b 10).map (grantAt b leaf)
    spares := sparesOf b, unitsAt := ((sectionOf b 1).map (·.off)).getD 0 }

end Sys2Proof.Machine
end

