-- ==== Sys2Proof/Machine/Folio.lean ====
section
/-! DEFINITION. Loading a folio (R293), the settings of an image (R281), and what START does at its tick (R279, R283,
R294). -/
namespace Sys2Proof.Machine

/-! The reset state of resources (R293 step 1). -/

/-- A nib in its reset state; its cell, its verniers and its converter are as they are. -/
def freshNib (s : State) (n : NibIx) : Nib :=
  let old := s.nibs[n]
  let x := resetNib n old.cell
  { x with
    vernB := old.vernB, vernAOk := old.vernAOk, vernBOk := old.vernBOk, moveWanted := old.moveWanted
    inp := retake { x.inp with ball := tst s.balls n && pinPowered s n, tdcFail := old.inp.tdcFail } }

/-- A quill in its reset state, on the physical quill that serves it. -/
def freshQuill (x : Quill) : Quill := { resetQuill x.phys with store := x.phys }

/-- A counter element in its reset state; a takeover that waits still waits. -/
def freshCounter (x : Counter) : Counter := { resetCounter with takeover := x.takeover }

/-- The converter in its reset state. -/
def freshAdc (s : State) : State :=
  adcReview { s with adc := { resetAdc s.time.tb with
    began := none, run := false, spareActive := s.adc.spareActive, spareGone := s.adc.spareGone } }

/-- A bank in its reset state: what serves it, and its generation, stand (R321). -/
def freshBank (x : Inkwell) : Inkwell :=
  { gen := x.gen, phys := x.phys, redirect := x.redirect, failed := x.failed, destroying := x.destroying
    owner := if x.destroying then x.owner else {} }

/-- R412: a physical quill whose store held a word beyond correction is retired as its program leaves it, and its
logical quill takes a standby. -/
def retireBadStore (s : State) (p : PhysIx) : State :=
  if !tst s.pool.badStores p then s
  else
    let s := modPool s fun k => { k with badStores := k.badStores &&& ~~~(1#20 <<< p.val) }
    match s.pool.roles[p], freeStandby s.pool with
    | .logical q, some t =>
      let s := setRole (modQuill s q fun x => { x with phys := t, store := t }) t (.logical q)
      retirePhys s p 5 0xFFF
    | .logical _, none => s
    | .retired, _ => s
    | _, _ => retirePhys s p 5 0xFFF

/-- R293 step 1: every resource in its reset state, no unit in force, nothing staged. DEDUCED (log entry 77). -/
def resetResources (s : State) : State :=
  let s := forAll s.pool.moves (endCopies s) moveEnds
  let s := modPool s fun k => { k with
    roles := k.roles.map fun r => if isSpare r then .standby else r
    audits := Vector.replicate 16 none
    votes := [] }
  let s := forAll (indices 20) s retireBadStore
  let s := { s with
    folio := {}
    co := { s.co with staged := [], copies := [] }
    quills := s.quills.map freshQuill
    stores := Vector.replicate 20 []
    nibs := Vector.ofFn (freshNib s)
    links := Vector.replicate 64 {}
    streams := Vector.replicate 8 {}
    trackers := Vector.replicate 16 { near := Vector.replicate 3 0 }
    tickTrackers := Vector.replicate 16 { near := Vector.replicate 3 0 }
    channels := Vector.replicate 16 {}
    comparators := Vector.replicate 32 {}
    counters := s.counters.map freshCounter
    ink := { s.ink with cells := [], errors := [], banks := s.ink.banks.map freshBank }
    dma := { s.dma with chans := Vector.replicate 32 {} }
    scribe := { s.scribe with stoppedSafe := false }
    reflexDue := [] }
  freshAdc s

/-! Units, programs and contents (R293 steps 2, 3 and 5). -/

/-- R276: the parameters of a unit, with the values of its records. -/
def paramsOf (r : UnitRec) (ps : List ParamRec) : List Param :=
  (List.range r.paramCount).map fun k =>
    match ps.find? fun p => p.glyph == r.unit && p.param == k with
    | some p => { target := p.target, shadow := p.reset, closing := p.reset, force := p.reset }
    | none => {}

/-- A unit that an image brings. -/
def unitOfRec (im : Image) (r : UnitRec) : UnitSt :=
  { rec_ := r, generation := im.generation, params := paramsOf r im.params }

/-- R269: what the record of a unit gives its resource. -/
def bindUnit (s : State) (r : UnitRec) : State :=
  match r.kind with
  | .nib =>
    let n : NibIx := Fin.ofNat 256 r.resource
    let safe : Word := BitVec.ofNat 32 (fld r.typeData 63 32) &&& 0x3F
    let s := modNib s n fun x => { x with
      owner := recOwner r, slewSlow := tst r.typeData 8, safe := safe, safeN := s.safeLow && tst safe 5 }
    if s.nibs[n].pin = recPin r then s else movePin s n (recPin r)
  | .tracker => modTrack s (Fin.ofNat 16 r.resource) fun t => { t with owner := recOwner r }
  | .comparator => modComp s (Fin.ofNat 32 r.resource) fun x => { x with owner := recOwner r }
  | .converter => modAdc s fun a => { a with owner := recOwner r }
  | _ => s

/-- R319: the owner that the record of an INKWELL unit gives. -/
def inkOwnerOf (r : UnitRec) : InkOwner :=
  match fld r.typeData 7 0 with
  | 1 => { kind := .quill, quill := Fin.ofNat 16 (fld r.typeData 15 8) }
  | 2 => { kind := .scribe }
  | 3 => { kind := .dma }
  | 4 => { kind := .host }
  | _ => {}

/-- R321: a bank taken by an INKWELL unit: its owner, and its generation one on. -/
def takeBank (s : State) (r : UnitRec) : State :=
  if r.kind = .inkwell then
    modBank s (Fin.ofNat 64 r.resource) fun x => { x with owner := inkOwnerOf r, gen := x.gen + 1 }
  else s

/-- R237, R239: the words of a program as a store holds them. -/
def programWords (p : Program) (half : Bool) : List (Nat × BitVec 176) :=
  let base := p.base + (if p.halfmode && half then 4096 else 0)
  (p.words.zipIdx.map fun (w, i) => (base + i, bchEncode w)).filter fun (_, w) => w != 0

/-- R240: UCODE_VERSION. -/
def versionWord (program patch : Nat) : Word := at_ 0 patch ||| at_ 16 program

/-- R284: the program of a quill is loaded into its physical quill. -/
def loadProgram (s : State) (p : Program) : State :=
  let s := { s with stores := s.stores.set s.quills[p.quill].phys (programWords p p.half) }
  modQuill s p.quill fun x => { x with
    halfmode := p.halfmode
    activeHalf := p.halfmode && p.half
    entry := BitVec.ofNat 13 p.entry
    version := versionWord p.program p.patch
    proved := BitVec.ofNat 16 p.proved }

/-- R286: the contents of a bank, word by word. -/
def fillBank (s : State) (f : InkFill) : State :=
  let b : InkIx := Fin.ofNat 64 f.bank
  forAll f.words.zipIdx s fun s (v, i) =>
    let w : Fin 4096 := Fin.ofNat 4096 (f.first + i)
    forAll ((servingWord s b w).toList ++ shadowWords s b w) s fun s p => putWhole s p v

/-- R288: the levels of the blotter's sources: the defaults, the folio's records over them, and those of the leaves in
force over both. -/
def loadLevels (s : State) : State :=
  let put (levels : Vector (Fin 4) 256) (g : Guard) : Vector (Fin 4) 256 :=
    levels.set (Fin.ofNat 256 g.source) (Fin.ofNat 4 (g.level - 1))
  let gs := s.folio.guards
  modBlotter s fun b => { b with
    levels := (gs.filter (·.leaf == 0) ++ gs.filter (·.leaf != 0)).foldl put
      (Vector.ofFn fun (i : Fin 256) => defaultLevel i) }

/-! CONFIG (R281, R293 step 4). -/

/-- STATUS.CFG_ERR of the resource of a register. -/
def cfgErrAt (s : State) (x : Place) : Bool :=
  match x.block with
  | .track => s.trackers[Fin.ofNat 16 x.inst].cfg.cfgErr
  | .fb => s.channels[Fin.ofNat 16 x.inst].cfgErr
  | .comp => s.comparators[Fin.ofNat 32 x.inst].cfgErr
  | _ => false

/-- The resource that a register belongs to has not changed. -/
def samePlace (s t : State) (x : Place) : Bool :=
  match x.block with
  | .track => s.trackers[Fin.ofNat 16 x.inst] == t.trackers[Fin.ofNat 16 x.inst]
  | .fb => s.channels[Fin.ofNat 16 x.inst] == t.channels[Fin.ofNat 16 x.inst]
  | .comp => s.comparators[Fin.ofNat 32 x.inst] == t.comparators[Fin.ofNat 32 x.inst]
  | .nib => s.nibs[Fin.ofNat 256 x.inst] == t.nibs[Fin.ofNat 256 x.inst]
  | .link => s.links[Fin.ofNat 64 x.inst] == t.links[Fin.ofNat 64 x.inst]
  | .ce => s.counters[Fin.ofNat 512 x.inst] == t.counters[Fin.ofNat 512 x.inst]
  | .chan => s.dma.chans[Fin.ofNat 32 x.inst] == t.dma.chans[Fin.ofNat 32 x.inst]
  | .stream => s.streams[Fin.ofNat 8 x.inst] == t.streams[Fin.ofNat 8 x.inst]
  | .adc => s.adc == t.adc
  | .time => s.time == t.time
  | .eic => s.eic == t.eic
  | _ => s.blotter == t.blotter

/-- R56: the write of a period of a counter element was refused; all it changes is STATUS.PER_INVALID. -/
def periodRefused (s t : State) (x : Place) : Bool :=
  x.block == .ce && tst t.counters[Fin.ofNat 512 x.inst].flags 11 && !tst s.counters[Fin.ofNat 512 x.inst].flags 11

/-- R281: a register setting made through the scribe's access path; true where the register ignored it or found it in
error (R293). A write that is held is neither. DEDUCED (log entry 78). -/
def configWrite (s : State) (addr : Nat) (v : Word) : State × Bool :=
  match placeOf addr with
  | none => (s, true)
  | some x =>
    let t := if x.block = .blotter then blotterConfig s x.off v else busWrite s .scribe addr v
    let held := wideAt x == some x.off
    let bad := (cfgErrAt t x && !cfgErrAt s x) || periodRefused s t x || (!held && samePlace s t x && placePeek t .scribe x != v)
    (t, bad)

/-- The settings of an image in order; the offset of the record that a register refused. -/
def configAll : State → List (Nat × ConfigRec) → State × Option Nat
  | s, [] => (s, none)
  | s, (o, c) :: rest =>
    let (t, bad) := configWrite s c.offset c.value
    if bad then (t, some o) else configAll t rest

/-! LOAD_FOLIO (R293). -/

/-- R293: the load of an image that has passed its checks. A setting that a register refuses ends it in the state of
step 1, and the offset of its record is answered. -/
def loadImage (s : State) (im : Image) : State × Option Nat :=
  let fresh := resetResources s
  let s := forAll im.programs fresh loadProgram
  let s := forAll im.fills s fillBank
  let s := forAll im.units s takeBank
  let s := modFolio s fun k => { k with
    units := im.units.map (unitOfRec im), rulingNs := im.rulingNs, unitsAt := im.unitsAt }
  let s := forAll im.units s bindUnit
  match configAll s im.config with
  | (_, some o) => (fresh, some o)
  | (t, none) =>
    let t := modFolio t fun k => { k with
      loaded := true, generation := im.generation, routes := im.routes, guards := im.guards, grants := im.grants
      leaves := im.leaves, spares := im.spares }
    (loadLevels t, none)

/-! START (R279, R283, R294). -/

/-- R283, R294: the roles of the spare physical quills: proofreaders first, the lowest of them held by the pairs, and
the rest standbys. DEDUCED (log entry 81). -/
def divideSpares (s : State) : State :=
  let spares := (indices 20).filter fun (p : PhysIx) => isSpare s.pool.roles[p]
  let d := s.folio.spares
  let n := min d.proofreaders spares.length
  let s := forAll spares.zipIdx s fun s (p, i) =>
    if i < n then setRole s p (.proofreader d.pairs[i]?) else setRole s p .standby
  let s := forAll (d.pairs.take n) s fun s q => modQuill s q fun x => { x with paired := true }
  if d.standbys = 0 then s else reviewRoles s

/-- R431, R479: every nib that a unit binds stands at its SAFE_LEVEL. -/
def boundSafe (s : State) (n : NibIx) : State :=
  if (unitOf s .nib n).isSome then setDrive s n (safeLevel s.nibs[n]) else s

/-- R279: the parameters of the glyphs of a leaf, or of every glyph, are applied once. DEDUCED (log entry 79). -/
def applyGlyphs (s : State) (glyphs : List UnitRec) : State :=
  forAll (glyphs.filter fun r => r.kind == .glyph) s fun s r => applyGlyph s r.unit

/-- R294: units with ENABLE_AT_START become enabled. The converter alone is enabled in its reset state (R205): without
ENABLE_AT_START it is disabled. -/
def enableAtStart (s : State) (units : List UnitRec) : State :=
  forAll (units.filter fun r => r.uflags % 2 == 1 || r.kind == .converter) s fun s r =>
    setOwnEnable s r.unit (r.uflags % 2 == 1)

/-- R294: what START does at its tick; R249: every mailbox parameter that is not zero counts as changed. -/
def startFolio (s : State) : State :=
  let s := modFolio s fun k => { k with started := true, startAt := none }
  let s := modTime (setPeriod s s.folio.rulingNs) fun t => { t with cycle := s.folio.rulingNs }
  let s := modHost s fun h => { h with scan := if [0, 3, 4].contains h.scan.toNat then 0xFF else h.scan }
  let s := forAll (indices 16) s fun s q => modQuill s q fun x => { x with
    mbx := { x.mbx with committed := Vector.replicate 16 0 } }
  let s := forAll (indices 256) (divideSpares s) boundSafe
  let units := s.folio.units.map (·.rec_)
  enableAtStart (applyGlyphs s units) units

/-- R295: the deferred check of code 0x09: a tracker with an owner has a VIRTUAL source; the offset of the first record
that fails. -/
def startOwners (s : State) : Option Nat :=
  (s.folio.units.zipIdx.find? fun (x, _) =>
    x.rec_.kind == .tracker && (recOwner x.rec_).isSome && srcKind s.trackers[resTrack x] != .virtual_).map
    fun (_, i) => s.folio.unitsAt + 32 * i + 0x18

end Sys2Proof.Machine
end

