-- ==== Sys2Proof/Machine/Frames.lean ====
section
/-! DEFINITION. The frame (R16 to R23): the fates of the frames at a tick, the steps of the commit (R253), the gather
(R209, R246, R247), proofreading, disputes and votes (R405 to R409). -/
namespace Sys2Proof.Machine

/-! Fates (R252, R254). -/

/-- R252, R306: what becomes of a quill's frame at a tick. -/
inductive Fate | none | commits | withheld | superseded
  deriving DecidableEq, Repr

/-- R241, R252, R255: the fate that the close of the frame has left. -/
def frameFate (x : Quill) : Fate :=
  if x.withheld then .withheld
  else match x.engine.phase with
    | .idle => .none
    | .yielded => .commits
    | .computing | .stopped _ => .withheld

/-- What a frame leaves for its commit. -/
structure FrameOut where
  quill : QuillIx
  records : List CommitRec
  writes : List InkWrite

/-- The frames that commit, in ascending logical order (R21). -/
def committing (s : State) (fates : Vector Fate 16) : List FrameOut :=
  ((indices 16).filter fun (q : QuillIx) => fates[q] == .commits).map fun q =>
    { quill := q, records := s.quills[q].engine.records, writes := s.quills[q].engine.writes }

/-- R244: COMMIT_USE of a frame that has reached its YIELD. -/
def commitUseOf (x : Quill) : Word :=
  if x.engine.phase = .yielded ∧ x.halted = false then
    at_ 0 x.engine.records.length ||| at_ 16 x.engine.writes.length
  else x.commitUse

/-- R249, R251: a frame that commits: the slots of its popped events are released, and the next frame compares with
its context. -/
def frameCommits (x : Quill) : Quill :=
  { x with
    commitUse := commitUseOf x
    queue := { x.queue with
      entries := x.queue.entries.drop x.queue.popped, popped := 0, refusedBefore := 0
      early := x.queue.early.map fun e => (e.1 - x.queue.popped, e.2) }
    mbx := { x.mbx with committed := x.mbx.frame }
    skip := false, skipped := 0, overrunLast := false, prevCause := 0, appliedBefore := false }

/-- R251, R254, R255: a frame that is withheld: its popped events return. A halted quill keeps its frozen frame. -/
def frameWithheld (x : Quill) : Quill :=
  let stop : Option StopCause := match x.engine.phase with
    | .stopped c => if x.halted then Option.none else some c
    | _ => Option.none
  { x with
    commitUse := commitUseOf x
    queue := { x.queue with popped := if x.halted then x.queue.popped else 0 }
    skip := true
    skipped := satAdd x.skipped 1
    overrunLast := stop.isSome
    prevCause := match stop with | some c => BitVec.ofNat 4 c.code | Option.none => 0 }

/-- R253 step 1, R127, R254: the fates of the frames take effect. DEDUCED (log entry 88). -/
def settleFates (s : State) (fates : Vector Fate 16) : State :=
  forAll (indices 16) s fun s q =>
    match fates[q] with
    | .none => s
    | .commits => modQuill s q frameCommits
    | .withheld => holdOwned (modQuill s q frameWithheld) q
    | .superseded => modQuill s q frameWithheld

/-! The start of a tick. -/

/-- R36, R47: TB steps by `d`: whatever lasts a time that is counted in TB lasts as long as before. -/
def tbSteps (s : State) (d : W64) : State :=
  let s := inputSteps s d
  let move (t : Option W64) : Option W64 := t.map (· + d)
  let s := { s with comparators := s.comparators.map fun x => { x with settle := move x.settle, blank := move x.blank } }
  let s := modAdc s fun a => { a with began := move a.began, arbBegan := move a.arbBegan }
  let s := modMarch s fun m => { m with since := m.since + d, destroySince := m.destroySince + d }
  let s := modInk s fun k => { k with migration := k.migration.map fun m => { m with since := m.since + d } }
  let s := modPower (modCo s fun k => { k with copySince := k.copySince + d }) fun p => { p with
    releaseTb := p.releaseTb + d }
  modTime s fun t => { t with trimFinal := t.trimFinal.map fun f => (f.1 + d, f.2) }

/-- R42, R47: TB and the frame number of the tick. -/
def tickTime (s : State) : State :=
  let s := match syncStep s with
    | some (tb, f) =>
      modSync (modTime (tbSteps s (tb - s.time.tb)) fun t => { t with tb := tb, nextFrame := f, aclkWait := aclkAfter tb t.aclkWait }) fun y =>
        { y with stepDue := false }
    | none => s
  modTime s fun t => { t with cycle := 0, closed := false, frame := t.nextFrame, nextFrame := t.nextFrame + 1, tickTb := t.tb }

/-- R22, R249: the values that a gather takes from the mailbox. -/
def mailboxNow (m : Mailbox) : Vector Word 16 := if m.hold then m.gathered else m.regs

/-- R18, R23: the mailbox and the event queue as they stand before cycle 0. -/
def keepEarly (x : Quill) : Quill :=
  { x with
    mbx := { x.mbx with early := some (mailboxNow x.mbx) }
    queue := { x.queue with early := some (x.queue.entries.length, x.queue.refusedSince) } }

/-- R18, R22, R23, R249: what the gather takes as it stood before cycle 0, once the fates of the frames are settled. -/
def gatherBefore (x : Quill) : Quill :=
  let (count, refused) := x.queue.early.getD (x.queue.entries.length, x.queue.refusedSince)
  let vals := x.mbx.early.getD (mailboxNow x.mbx)
  let x := { x with mbx := { x.mbx with early := none }, queue := { x.queue with early := none } }
  if x.halted then x
  else { x with
    mbx := { x.mbx with gathered := vals, frame := vals }
    queue := { x.queue with
      gathered := count
      refusedBefore := satAdd x.queue.refusedBefore refused.toNat
      refusedSince := x.queue.refusedSince - refused } }

/-- R242: a frozen frame keeps the tick that it belongs to. -/
def keepTick (s : State) (q : QuillIx) : State :=
  modQuill s q fun x => if x.halted && x.frozen && x.frozenTick.isNone then
      { x with frozenTick := some (s.time.tickTb, s.tickTrackers, banksHeld s q) }
    else x

/-- R242: the ticks of the frozen frames. -/
def keepTicks (s : State) : State := forAll (indices 16) s keepTick

/-- R113: no stroke has been taken at this commit yet. -/
def clearTaken (s : State) : State := { s with nibs := s.nibs.map fun x => { x with taken := 0 } }

/-- R41, R42, R403, R184, R187, R157, R54: what every tick does before the commit. -/
def tickBegin (s : State) (newPeriod : Bool) : State :=
  let s := tickTime (keepTicks s)
  let s := modBlotter s fun b => { b with classes := b.classes.map fun c => { c with changed := false } }
  let s := syncTick (toggleAlive s)
  let s := emuOffsetTick (forAll (indices 16) s fbTick)
  clearTaken (ceTick (gatesTick s newPeriod))

/-! The commit (R253). -/

/-- R253 step 2: the buffered inkwell writes of the committing quills. -/
def commitInk (s : State) (outs : List FrameOut) : State :=
  forAll outs s fun s o => forAll o.writes s fun s w => inkWriteWord s w.bank w.word w.enables w.data true

/-- R20: the header actions due at this tick; those that still wait are one tick nearer. -/
def takeCtrl (s : State) : List CtrlPend × State :=
  let due := s.folio.ctrlPend.filter fun c => c.ticks ≤ 1
  (due, modFolio s fun k => { k with
    ctrlPend := (k.ctrlPend.filter fun c => 1 < c.ticks).map fun c => { c with ticks := c.ticks - 1 } })

/-- R253 step 3, R274: the glyphs with an APPLY due, in ascending unit index. -/
def applyDue (s : State) (due : List CtrlPend) : State :=
  let glyphs := (due.filter fun c => c.act == .apply).map (·.unit)
  forAll (glyphs.mergeSort (· ≤ ·)) s fun s u => raiseGlyphEvent (applyGlyph s u) u 0

/-- R229, R282: a quill may write the register at an address. -/
def granted (s : State) (q : QuillIx) (addr : Nat) : Bool :=
  addr % 4 == 0 && s.folio.grants.any fun g => g.quill == q && g.offset ≤ addr && addr < g.offset + 4 * g.count

/-- R229: one register-write record. -/
def commitRegw (s : State) (q : QuillIx) (r : W128) : State :=
  let addr := fld r 88 64
  let wide := tst r 96
  if granted s q addr then regwRecord s addr (word64 r 0) wide
  else advise (modQuill s q fun x => { x with regwDenied := satAdd x.regwDenied 1 }) q 3

/-- R253 step 4. -/
def commitRegws (s : State) (outs : List FrameOut) : State :=
  forAll outs s fun s o => forAll o.records s fun s r =>
    match r with
    | .regw w => commitRegw s o.quill w
    | _ => s

/-- R230: the update that a pair of records holds, and its tracker; none where the pair is dropped. -/
def virtualOf (s : State) (q : QuillIx) (p d : W128) : Option (TrackIx × VirtualUpd) :=
  let i : TrackIx := Fin.ofNat 16 (fld p 83 80)
  let st : Option TrackState := match fld p 85 84 with
    | 0 => some .unsynced | 1 => some .synced | 2 => some .stalled | _ => none
  if srcKind s.trackers[i] = .virtual_ ∧ s.trackers[i].owner = some q then
    st.map fun st =>
      (i, { tick := nowTime s, pos := p.truncate 80, rate := word64 d 0, accel := word64 d 1, state := st })
  else none

/-- R230: the VIRTUAL updates of one quill's records. -/
def commitVirtual (q : QuillIx) : List CommitRec → State → State
  | [], s => s
  | .vpos p :: .vdyn d :: rest, s =>
    commitVirtual q rest (match virtualOf s q p d with
      | some (i, u) => virtualUpdate s i u
      | none => advise s q 4)
  | .vpos _ :: rest, s => commitVirtual q rest (advise s q 4)
  | .vdyn _ :: rest, s => commitVirtual q rest (advise s q 4)
  | _ :: rest, s => commitVirtual q rest s

/-- R253 step 6. -/
def commitVirtuals (s : State) (outs : List FrameOut) : State :=
  forAll outs s fun s o => commitVirtual o.quill o.records s

/-- R21: the place of a record in commit order. -/
def commitOrder (s : State) (q : QuillIx) (i : Nat) : Nat := (s.time.frame.toNat * 16 + q.val) * 128 + i

/-- R253 step 7: the strokes of the committing quills, then their first prediction. -/
def commitStrokes (s : State) (outs : List FrameOut) : State :=
  predictAll (forAll outs s fun s o => forAll o.records.zipIdx s fun s (r, i) =>
    match r with
    | .stroke w => commitStroke s o.quill w (commitOrder s o.quill i)
    | _ => s)

/-- R231, R253 step 8: the quill events. -/
def commitSignals (s : State) (outs : List FrameOut) : State :=
  forAll outs s fun s o => forAll o.records s fun s r =>
    match r with
    | .signal e => deliverEvent s .quillEvent o.quill e (unitNo s .quill o.quill)
    | _ => s

/-! Proofreading (R405, R406). -/

/-- R406: the proofreaders that no pair holds, ascending. -/
def rotating (k : PoolSt) : List PhysIx := (indices 20).filter fun (p : PhysIx) => k.roles[p] == .proofreader none

/-- R406: the active quills that no pair holds, ascending. -/
def rotation (s : State) : List QuillIx :=
  (indices 16).filter fun (q : QuillIx) => s.quills[q].active && !s.quills[q].paired

/-- R406: the quill that a proofreader audits in the present frame. -/
def auditOf (s : State) (p : PhysIx) : Option QuillIx :=
  match s.pool.roles[p] with
  | .proofreader (some q) => if s.quills[q].active then some q else none
  | .proofreader none =>
    let l := rotation s
    let rs := rotating s.pool
    let j := (rs.takeWhile (· != p)).length
    if l.isEmpty then none else l[(s.time.frame.toNat * rs.length + j) % l.length]?
  | _ => none

/-- R406: the audits of the present frame; a halted quill, and one whose frame does not run, is not audited. -/
def assignAudits (s : State) : State :=
  let runs (q : QuillIx) : Bool := s.quills[q].engine.phase == .computing && !s.quills[q].halted
  let audits := (indices 20).foldl (fun (v : Vector (Option PhysIx) 16) (p : PhysIx) =>
    match auditOf s p with
    | some q => if runs q && !inVote s.pool p then v.set q (some p) else v
    | none => v) (Vector.replicate 16 none)
  forAll (indices 16) (modPool s fun k => { k with audits := audits }) fun s q =>
    modQuill s q fun x => { x with audited := audits[q].isSome }

/-! The gather (R209, R246 to R249). -/

/-- R246: word 0x01. -/
def controlWord (s : State) (q : QuillIx) (x : Quill) (applied : Bool) (changed : Nat) : W128 :=
  let refused := x.queue.refusedBefore.toNat
  let late := [SyncState.holdover, .relock, .mismatch].contains s.time.sync.state
  BitVec.ofNat 128 (packFields
    [(7, x.queue.gathered), (1, b2n (x.skip || x.skipped != 0)), (1, b2n x.overrunLast), (1, b2n (changed != 0)),
     (1, b2n applied), (1, b2n (refused != 0)), (1, b2n late), (3, 0), (16, x.skipped.toNat),
     (4, x.prevCause.toNat), (12, 0), (16, refused), (32, s.time.period), (16, s.time.period - 96), (4, q.val)])

/-- R249: MBX_CHANGED. -/
def mbxChanged (m : Mailbox) : Nat :=
  (indices 16).foldl (fun n (i : Fin 16) => if m.frame[i] = m.committed[i] then n else n + 2 ^ i.val) 0

/-- R247: the three words of a tracker. DEDUCED (log entry 38). -/
def trackWords (s : State) (i : TrackIx) : List W128 :=
  let t := s.tickTrackers[i]
  if !t.cfg.run then [0, 0, 0]
  else
    let s := { s with trackers := s.tickTrackers }
    let (rate, accel) := rateNow s i
    let pred := readPredPeriod t
    [BitVec.ofNat 128 (packFields [(80, (posNow s i).toNat), (3, t.state.code),
       (1, b2n (runsBack s.trackers (nowTime s) 17 i)), (1, b2n (!t.hist.isEmpty)), (1, b2n t.suspect.isSome)]),
     BitVec.ofNat 128 (packFields [(64, rate.toNat), (64, accel.toNat)]),
     BitVec.ofNat 128 (packFields [(64, t.toothTime.toNat), (12, t.entry), (1, b2n t.synth), (1, b2n t.toothRev),
       (1, b2n t.early), (17, 0), (32, pred.toNat)])]

/-- R247: the words of every tracker, by their place in the context. -/
def allTrackWords (s : State) : List (Nat × W128) :=
  (indices 16).flatMap fun i => (trackWords s i).zipIdx.map fun (w, j) => (0x10 + 3 * i.val + j, w)

/-- R246: the context of a frame. -/
def contextOf (s : State) (tracks : List (Nat × W128)) (q : QuillIx) (x : Quill) (applied : Bool) :
    List (Nat × W128) :=
  let changed := mbxChanged x.mbx
  let mbx (k : Nat) : W128 := BitVec.ofNat 128 (packFields ((List.range 4).map fun j =>
    (32, (x.mbx.frame.toList.getD (4 * k + j) 0).toNat)))
  ([(0x00, BitVec.ofNat 128 (packFields [(64, s.time.frame.toNat), (64, (nowTime s).toNat)])),
    (0x01, controlWord s q x applied changed),
    (0x02, BitVec.ofNat 128 (packFields [(32, s.folio.generation.toNat), (32, x.version.toNat)])),
    (0x04, mbx 0), (0x05, mbx 1), (0x06, mbx 2), (0x07, mbx 3), (0x08, BitVec.ofNat 128 changed)] ++ tracks).filter
      fun (_, w) => w != 0

/-- R209, R246: the gather of one active quill. A quill under a vote issues nothing (R407). -/
def gatherQuill (s : State) (tracks : List (Nat × W128)) (q : QuillIx) : State :=
  let x := s.quills[q]
  if !x.active || x.halted then s
  else
    let applied := x.appliedBefore || x.appliedSince
    let vote := underVote s q
    let s := modQuill s q fun x => { x with
      context := contextOf s tracks q x applied
      appliedBefore := applied
      appliedSince := false
      withheld := vote
      engine := { resetEngine with phase := if vote then .idle else .computing, pc := x.entry } }
    if x.haltReq && !vote then enterHalt s q else s

/-- R246: the gather of the frame. -/
def gatherAll (s : State) : State :=
  let tracks := if s.quills.toList.any (·.active) then allTrackWords s else []
  assignAudits (forAll (indices 16) s fun s q => gatherQuill s tracks q)

/-! The close and the disputes (R405 to R409). -/

/-- R256: the frame stopped on a fault of the active physical quill's own registers, which its proofreader, with
registers of its own, does not share. The two fetch one store (R405), so that they stop at an uncorrectable word
together. DEDUCED (log entry 174). DEDUCED (log entry 194). -/
def stopsAlone (x : Quill) : Bool := x.engine.phase == .stopped .parity

/-- R256, R405: a mismatch that the proofreader of an audited frame finds; R417: not for a frame that is halted. -/
def disputes (s : State) (mismatched : List QuillIx) (q : QuillIx) : Bool :=
  let x := s.quills[q]
  (mismatched.contains q || stopsAlone x) && x.audited && !x.halted && !x.withheld

/-- R252, R414: what the commit lanes carry: one transfer for each record and each buffered write of a frame that has
reached its YIELD. -/
def laneTransfers (s : State) : State :=
  forAll (indices 16) s fun s q =>
    let e := s.quills[q].engine
    if e.phase = .yielded then forAll (List.range (e.records.length + e.writes.length)) s fun s _ => busTransfer s 3
    else s

/-- R252, R278, R405, R407: what the close of a frame decides: the shadows that an APPLY will copy, the disputes, and
the comparisons of the votes. -/
def closeFrame (s : State) (mismatched : List QuillIx) (votes : List (QuillIx × Vote)) : State :=
  let s := modFolio (laneTransfers s) fun k => { k with
    units := k.units.map fun x => { x with params := x.params.map fun p => { p with closing := p.shadow } } }
  let s := forAll ((indices 16).filter (disputes s mismatched)) s fun s q => modQuill s q fun x =>
    { x with disputed := true, withheld := true }
  modPool s fun k => { k with votes := k.votes.map fun v =>
    { v with compared := true, result := (votes.lookup v.quill).getD (if v.alone then .proofreader else .none) } }

/-- R301, R314: a trigger ends, and its CHANGEOVER completes. -/
def endTrigger (s : State) (o : CoOutcome) (status : Nat) : State :=
  let s := disarm s o
  if headPhase s opChangeover = some .started ∨ headPhase s opChangeover = some .committed then
    endCmd s status (detail := o.code) else s

/-- R301: a staged leaf has lost a resource that was reserved for it; an armed trigger is disarmed at once. -/
def leafUnready (s : State) (f : StagedLeaf → Bool) : State :=
  let s := modCo s fun c => { c with staged := c.staged.map fun l => if f l then { l with unready := true } else l }
  if s.co.phase = .armed ∧ s.co.staged.any f then endTrigger s .unready stUnready else s

/-- R409: the standby that a dispute takes: a free one, or else, before the commit point of a changeover, one that is
reserved for a staged leaf. -/
def takeStandby (s : State) : Option (PhysIx × Bool) :=
  match freeStandby s.pool with
  | some p => some (p, false)
  | none =>
    if s.co.phase = .committed then none
    else ((indices 20).find? fun (p : PhysIx) => s.pool.roles[p] == .reserved && !inVote s.pool p).map fun p => (p, true)

/-- R407, R409: a disputed frame at the tick that withholds it: the dispute is counted and raised, and a vote begins
where a standby is found. DEDUCED (log entry 61). -/
def beginDispute (s : State) (q : QuillIx) : State :=
  let unit := unitNo s .quill q
  let s := modQuill s q fun x => { x with disputes := satAdd x.disputes 1, disputed := false }
  match s.pool.audits[q], takeStandby s with
  | some proof, some (p, reserved) =>
    let s := raiseFault s (129 + 8 * q) unit
    let s := modPool s fun k => { k with
      votes := k.votes ++ [{ quill := q, proof := proof, standby := p, fromLeaf := reserved, alone := stopsAlone s.quills[q] }] }
    if reserved then
      let takes (l : StagedLeaf) : Bool := l.programs.any fun x => x.2.phys == some p
      let s := leafUnready (setRole s p .standby) takes
      modCo s fun c => { c with staged := c.staged.map fun l => { l with
        programs := l.programs.filter fun x => x.2.phys != some p } }
    else s
  | _, _ => raiseAt s (129 + 8 * q) unit 3

/-- R306: an audited frame that is superseded and shows a mismatch raises and counts, and no vote is held. -/
def countDispute (s : State) (q : QuillIx) : State :=
  let s := modQuill s q fun x => { x with disputes := satAdd x.disputes 1, disputed := false }
  raiseFault s (129 + 8 * q) (unitNo s .quill q)

/-- R407, R408: the outcome of a vote, at the tick after its comparison. -/
def endVote (s : State) (v : VoteSt) : State :=
  let unit := unitNo s .quill v.quill
  let s := modPool s fun k => { k with votes := k.votes.filter fun y => y.quill != v.quill }
  match v.result with
  | .active => retirePhys s v.proof 5 unit
  | .proofreader => moveQuill s v.quill v.standby 5
  | .none => raiseFault s (129 + 8 * v.quill) unit

/-- R407 to R409: the votes that end and the disputes that begin at a tick, in ascending logical order. -/
def disputesTick (s : State) (superseded : QuillIx → Bool) : State :=
  let s := modPool s fun k => { k with votes := k.votes.filter fun v => !superseded v.quill }
  let s := forAll (s.pool.votes.filter (·.compared)) s endVote
  forAll (indices 16) s fun s q =>
    if s.quills[q].disputed then (if superseded q then countDispute s q else beginDispute s q) else s

end Sys2Proof.Machine
end

