-- ==== Sys2Proof/Machine/Staging.lean ====
section
/-! DEFINITION. Staging a leaf (R297 to R301) and the triggers of a changeover (R302 to R304). -/
namespace Sys2Proof.Machine

/-! What a leaf replaces. -/

/-- The units of a leaf in force. -/
def leafUnits (s : State) (leaf : Nat) : List UnitSt := s.folio.units.filter fun x => x.rec_.leaf == leaf

/-- The units of the leaves that staged images replace, in ascending unit index. -/
def outgoingUnits (s : State) : List UnitSt :=
  s.folio.units.filter fun x => s.co.staged.any fun l => l.image.leaf == x.rec_.leaf

/-- The records of the units that staged images bring, in ascending unit index. -/
def incomingRecs (ims : List Image) : List UnitRec :=
  (ims.flatMap (·.units)).mergeSort fun a b => a.unit ≤ b.unit

/-- R305: a quill that an outgoing unit binds. -/
def quillLeaves (s : State) (q : QuillIx) : Bool :=
  (outgoingUnits s).any fun x => x.rec_.kind == .quill && x.rec_.resource == q.val

/-! The staging shadows (R297). -/

/-- R307, R310: a resource in its reset state. -/
def freshResource (s : State) (r : UnitRec) : State :=
  match r.kind with
  | .nib => { s with nibs := s.nibs.set (Fin.ofNat 256 r.resource) (freshNib s (Fin.ofNat 256 r.resource)) }
  | .tracker => modTrack s (Fin.ofNat 16 r.resource) fun _ => { near := Vector.replicate 3 0 }
  | .feedback => modFb s (Fin.ofNat 16 r.resource) fun _ => {}
  | .comparator => modComp s (Fin.ofNat 32 r.resource) fun _ => {}
  | .converter => freshAdc s
  | .counter => modCe s (Fin.ofNat 512 r.resource) freshCounter
  | .dmaChannel => modChan s (Fin.ofNat 32 r.resource) fun _ => {}
  | .captureStream => modStream s (Fin.ofNat 8 r.resource) fun _ => {}
  | .reflex => modLink s (Fin.ofNat 64 r.resource) fun _ => {}
  | .glyph | .quill | .inkwell => s

/-- The units in force with those of leaves replaced by the units of their images. -/
def installUnits (s : State) (ims : List Image) : State :=
  let kept := s.folio.units.filter fun x => !ims.any fun im => im.leaf == x.rec_.leaf
  let new := ims.flatMap fun im => im.units.map (unitOfRec im)
  modFolio s fun k => { k with units := (kept ++ new).mergeSort fun a b => a.rec_.unit ≤ b.rec_.unit }

/-- R297: the shadows of the resources that images bind, before their CONFIG: the reset state, with what the unit
records give. -/
def shadowUnits (s : State) (ims : List Image) : State :=
  let recs := incomingRecs ims
  forAll recs (forAll recs (installUnits s ims) freshResource) bindUnit

/-! Physical banks (R300). -/

/-- A bank with nothing under way on its physical bank. -/
def bankQuiet (s : State) (b : InkIx) : Bool :=
  let x := s.ink.banks[b]
  let m := s.ink.march
  x.redirect.isNone && !x.destroying && x.pend.isNone && !(s.ink.waiting.any fun w => w.1 == b)
    && !(s.ink.migration.any fun g => g.bank == b)
    && !(m.bank == b.val && [MarchPhase.copy, .test, .restore, .lift].contains m.phase)

/-- R300: a physical bank that a staged leaf may take: one that serves nothing, or one of a logical bank that no unit
in force binds. -/
def stageable (s : State) (p : Nat) : Bool :=
  match mappedTo s p with
  | none => bankFree s p
  | some b =>
    (unitOf s .inkwell b).isNone && bankQuiet s b && !tst s.ink.retired p
      && !(s.co.staged.any fun l => l.banks.any fun x => x.2 == p)
      && !(s.co.copies.any fun c => c.source == p && !c.words.isEmpty)

/-- R300: the banks that can take the load state of a logical bank, the spare ones first, then its own, then those of
other logical banks. DEDUCED (log entry 83). -/
def stageChoices (s : State) (b : InkIx) : List Nat :=
  let all := (List.range 68).filter (stageable s)
  (all.filter fun p => (mappedTo s p).isNone) ++ (all.filter fun p => mappedTo s p == some b)
    ++ (all.filter fun p => (mappedTo s p).isSome && mappedTo s p != some b)

/-- R300: physical banks for the banks of a leaf, in order; the number of the first that finds none. -/
def chooseBanks (s : State) : List InkIx → List (InkIx × Nat) → Except Nat (List (InkIx × Nat))
  | [], taken => .ok taken
  | b :: rest, taken =>
    match (stageChoices s b).find? fun p => !taken.any fun x => x.2 == p with
    | some p => chooseBanks s rest (taken ++ [(b, p)])
    | none => .error taken.length

/-- R286, R300: the load state of a bank in its staged physical bank; a test of that bank as a free one ends. -/
def fillStaged (s : State) (im : Image) (x : InkIx × Nat) : State :=
  let s := endFreeTest s x.2
  forAll (im.fills.filter fun f => f.bank == x.1.val) (zeroBank s x.2) fun s f =>
    forAll f.words.zipIdx s fun s (v, i) => putWhole s (4096 * x.2 + (f.first + i) % 4096) v

/-! Programs (R299). -/

/-- What is kept of a staged program. -/
def stagedOf (p : Program) (half : Bool) (phys : Option PhysIx) : StagedProgram :=
  { program := p.program, patch := p.patch, entry := BitVec.ofNat 13 p.entry, halfmode := p.halfmode, half := half
    proved := p.proved, phys := phys }

/-- R299: how a program is prepared. -/
inductive Preparation | idle | shadow | standby
  deriving DecidableEq, Repr

/-- R299. -/
def preparationOf (s : State) (p : Program) : Preparation :=
  match unitOf s .quill p.quill with
  | none => .idle
  | some _ => if s.quills[p.quill].halfmode && p.halfmode then .shadow else .standby

/-- R239: a store whose half takes a program. DEDUCED (log entry 117). -/
def putHalf (old : List (Nat × BitVec 176)) (p : Program) (half : Bool) : List (Nat × BitVec 176) :=
  let words := programWords p half
  if half then (old.filter fun x => x.1 < 4096) ++ words.filter fun x => 4096 ≤ x.1
  else (words.filter fun x => x.1 < 4096) ++ old.filter fun x => 4096 ≤ x.1

/-- R299: one program prepared; a standby is given where it needs one. -/
def prepare (s : State) (p : Program) (standby : Option PhysIx) : State × StagedProgram :=
  let x := s.quills[p.quill]
  match preparationOf s p, standby with
  | .idle, _ => ({ s with stores := s.stores.set x.phys (programWords p p.half) }, stagedOf p p.half (some x.phys))
  | .shadow, _ =>
    let half := !x.activeHalf
    let g := stagedOf p half none
    let s := { s with stores := s.stores.set x.store (putHalf s.stores[x.store] p half) }
    (raiseQuillEvent (modQuill s p.quill fun y => { y with staged := some g }) p.quill 5, g)
  | .standby, some t =>
    (setRole { s with stores := s.stores.set t (programWords p p.half) } t .reserved, stagedOf p p.half (some t))
  | .standby, none => (s, stagedOf p p.half none)

/-- R299: the programs of a leaf prepared in order, with the standbys they take. -/
def prepareAll : State → List Program → List PhysIx → State × List (QuillIx × StagedProgram)
  | s, [], _ => (s, [])
  | s, p :: rest, free =>
    let takes := preparationOf s p == .standby
    let (s, g) := prepare s p (if takes then free.head? else none)
    let (s, l) := prepareAll s rest (if takes then free.tail else free)
    (s, (p.quill, g) :: l)

/-- R409: the standbys that are free, ascending. -/
def freeStandbys (k : PoolSt) : List PhysIx :=
  (indices 20).filter fun (p : PhysIx) => k.roles[p] == .standby && !inVote k p

/-! Releasing (R298). -/

/-- R298: what a staged leaf has reserved is released. -/
def releaseLeaf (s : State) (l : StagedLeaf) : State :=
  forAll l.programs s fun s (q, g) =>
    match g.phys with
    | none => modQuill s q fun x => { x with staged := none }
    | some p => if s.pool.roles[p] = .reserved then setRole s p .standby else s

/-- R298: staged leaves are released. -/
def releaseStaged (s : State) (f : StagedLeaf → Bool) : State :=
  let s := forAll (s.co.staged.filter f) s releaseLeaf
  modCo s fun c => { c with staged := c.staged.filter fun l => !f l }

/-! The checks (R298, R308). -/

/-- R308: offsets of the registers of a tracker or a channel that are locked, or hold a locked field, while it is
enabled (R70, R171). -/
def lockedOffsets : UnitType → List Nat
  | .tracker => [0x00, 0x08, 0x0C, 0x10, 0x18, 0x1C, 0x28, 0x2C, 0x60, 0x64, 0x7C, 0x84, 0x88, 0x8C, 0x98]
  | .feedback => [0x00, 0x08, 0x0C, 0x10, 0x28, 0x48, 0x4C]
  | .counter => [0x08, 0x0C]
  | _ => []

/-- R308: a CARRY record of kind 2, 3 or 4 that may not be. DEDUCED (log entry 85). -/
def carryRefused (im : Image) (c : CarryRec) : Bool :=
  match carryType c.kind, findRec im.units c.toUnit with
  | some k, some r =>
    2 ≤ c.kind && c.kind ≤ 4 && (r.uflags % 2 == 0 || im.config.any fun (_, g) =>
      g.unit == c.toUnit && match placeOf g.offset with
        | some x => (lockedOffsets k).contains x.off
        | none => false)
  | _, _ => false

/-- R308: two records with the same TO and overlapping words. -/
def carryOverlap (c d : CarryRec) : Bool :=
  c.kind == 1 && d.kind == 1 && c.toUnit == d.toUnit && c.first < d.first + d.count && d.first < c.first + c.count

/-- R308, R298 code 0x1C: the CARRY records in order, each against those before it. -/
def checkCarries (b : Bytes) (im : Image) : List CarryRec → List Nat → Option Nat
  | _, [] => none
  | before, o :: rest =>
    let c := carryAt b o
    if carryRefused im c || before.any (carryOverlap c) then some o else checkCarries b im (c :: before) rest

/-- R298: a CHANGEOVER trigger is armed or committed, or a carry copy is in progress (R309). -/
def stagingBusy (s : State) : Bool := s.co.phase != .none || copyWords s.co != 0

/-- The banks that an image binds, in the order of its records. -/
def imageBanks (im : Image) : List InkIx :=
  (im.units.filter fun r => r.kind == .inkwell).map fun r => Fin.ofNat 64 r.resource

/-- R298 codes 0x16 to 0x1C, and the CONFIG of the image judged in its shadows (R297): code 0x0F. `earlier` says
whether what is staged for the same leaf still stands. DEDUCED (log entry 82). -/
def stageChecks (s : State) (b : Bytes) (im : Image) : List (Nat × (Unit → Option Nat)) :=
  let others := s.co.staged.filter fun l => l.image.leaf != im.leaf
  let unitAt (f : UnitRec → Bool) (off : Nat) : Option Nat :=
    (im.units.zipIdx.find? fun (r, _) => f r).map fun (_, i) => im.unitsAt + 32 * i + off
  [(0x16, fun _ => refuse (8 ≤ others.length) 0x26),
   (0x17, fun _ => unitAt (fun r => r.kind != .glyph && others.any fun l =>
      l.image.units.any fun y => y.kind == r.kind && y.resource == r.resource) 6),
   (0x18, fun _ => refuse (others.any fun l => l.image.generation != im.generation) 0x10),
   (0x19, fun _ => match chooseBanks s (imageBanks im) [] with
      | .ok _ => none
      | .error n => (((im.units.zipIdx.filter fun (r, _) => r.kind == .inkwell)[n]?).map fun (_, i) =>
          im.unitsAt + 32 * i)),
   (0x1A, fun _ =>
      let need := (im.programs.zip (recordsOf b 5)).filter fun (p, _) => preparationOf s p == .standby
      (need[(freeStandbys s.pool).length]?).map (·.2)),
   (0x1B, fun _ => refuse (stagingBusy s) 0),
   (0x1C, fun _ => checkCarries b im [] (recordsOf b 3)),
   (0x0F, fun _ => (configAll (shadowUnits s [im]) im.config).2)]

/-- R297 to R300: an image that has passed R295 is staged; the code and the offset where it is refused. A leaf staged
before for the same identifier is released first, unless staging is busy. -/
def stageLeaf (s : State) (b : Bytes) : State × Option (Nat × Nat) :=
  let im := imageOf b
  let s := if stagingBusy s then s else releaseStaged s fun l => l.image.leaf == im.leaf
  match firstFailure (stageChecks s b im) with
  | some f => (s, some f)
  | none =>
    let banks := match chooseBanks s (imageBanks im) [] with | .ok l => l | .error _ => []
    let (s, programs) := prepareAll s im.programs (freeStandbys s.pool)
    let s := forAll banks s fun s x => fillStaged s im x
    (modCo s fun c => { c with
      staged := c.staged ++ [{ image := im, banks := banks, programs := programs }] }, none)

/-! What is lost before the commit (R301). -/

/-- R301: a staged leaf whose bank has been retired has lost it. -/
def reviewStaged (s : State) : State :=
  let lost (l : StagedLeaf) : Bool := !l.unready && l.banks.any fun x => tst s.ink.retired x.2
  if s.co.phase != .committed && s.co.staged.any lost then leafUnready s lost else s

/-- R301: a bank that waits for its migration takes a spare bank that a staged leaf has reserved, where none is
free. DEDUCED (log entry 84). -/
def spareFromLeaf (s : State) : State :=
  match s.ink.migration, s.ink.waiting with
  | none, (b, _) :: _ =>
    if s.ink.banks[b].failed || !(freeBanks s).isEmpty || s.co.phase == .committed then s
    else match (s.co.staged.flatMap (·.banks)).find? fun x => (mappedTo s x.2).isNone && !tst s.ink.retired x.2 with
      | some (_, p) =>
        let s := leafUnready s fun l => l.banks.any fun x => x.2 == p
        modCo s fun c => { c with staged := c.staged.map fun l => { l with
          banks := l.banks.filter fun x => x.2 != p } }
      | none => s
  | _, _ => s

/-! Triggers (R302 to R304). -/

/-- The folio generation that the staged leaves bring. -/
def stagedGeneration (s : State) : Word := ((s.co.staged.head?).map (·.image.generation)).getD 0

/-- The ruling period that the staged leaves bring, where they bring one (R40). DESIGN CHOICE (log entry 176). -/
def stagedPeriod (s : State) : Option Nat := ((s.co.staged.map (·.image.rulingNs)).find? fun p => p != 0)

/-- R304: the trigger becomes irrevocable. DEDUCED (log entry 91). -/
def commitTrigger (s : State) (due : W64) : State :=
  let s := modCo s fun c => { c with phase := .committed, dueFrame := due, last := none }
  if headPhase s opChangeover = some .started then setHeadPhase s .committed else s

/-- R304: the commit point of a FRAME trigger, cycle P - 32 of the frame before it. -/
def frameTriggerClose (s : State) : State :=
  match s.co.phase, s.co.trigger with
  | .armed, some (.frame f) => if comingFrame s = f then commitTrigger s f else s
  | _, _ => s

/-- R304: what the gather snapshot shows of a tracker. -/
def angleSnap (s : State) (i : TrackIx) : AngleSnap :=
  { angle := (posNow s i).truncate 32, synced := s.trackers[i].state == .synced
    reverse := runsBack s.trackers (nowTime s) 17 i }

/-- R304: the angle lies in the half-open span (a, b] of a forward step. -/
def stepPasses (a b angle : Word) : Bool :=
  (b - a).toNat < 2 ^ 31 && (angle - a - 1).toNat < (b - a).toNat

/-- R304: the two snapshots meet the trigger. -/
def snapsMeet (dir : BitVec 2) (angle : Word) (p q : AngleSnap) : Bool :=
  p.synced && q.synced
    && ((dir != 1 && !p.reverse && !q.reverse && stepPasses p.angle q.angle angle)
      || (dir != 0 && p.reverse && q.reverse && stepPasses q.angle p.angle angle))

/-- R304: the ANGLE trigger in force is met at the present tick. -/
def angleMet (s : State) (i : TrackIx) (angle : Word) : Bool :=
  let c := s.co
  match c.last with
  | some (f, before) =>
    f + 1 == s.time.frame && !precedes f c.earliest && precedes c.armedIn f
      && snapsMeet c.dir angle before (angleSnap s i)
  | none => false

/-- R304: the trigger at a tick. A FRAME trigger whose frame number has been passed over is late. -/
def triggerTick (s : State) : State :=
  let k := s.time.frame
  match s.co.phase, s.co.trigger with
  | .armed, some (.angle i angle) =>
    if angleMet s i angle then commitTrigger s (k + 1) else modCo s fun c => { c with last := some (k, angleSnap s i) }
  | .armed, some (.frame f) => if precedes k f then s else endTrigger s .late stLate
  | _, _ => s

/-- R304, R312: no trigger has been met at tick X. -/
def expiryDue (s : State) : Bool :=
  s.co.phase == .armed && s.time.rulings && s.time.cycle == 0 && !precedes s.time.frame s.co.expire

/-- R304. -/
def execTriggerExpiry (s : State) : Host.Outcome State Fault Refusal :=
  finish (if expiryDue s then endTrigger s .expired stExpired else s)

end Sys2Proof.Machine
end

