-- ==== Sys2Proof/Machine/Changeover.lean ====
section
/-! DEFINITION. The changeover tick (R305 to R311): superseded commits, resources that leave, stay or arrive, state
carry, and the carry copies. -/
namespace Sys2Proof.Machine

/-! What the changeover knows of its units. -/

/-- What steps 3 to 7 of R305 need: the state after step 2, the images, the units that leave, and the shadows of
those that come. -/
structure Swap where
  before : State
  shadow : State
  images : List Image
  out : List UnitSt
  recs : List UnitRec

/-- The swap that the staged leaves make of a state after step 2. -/
def swapOf (s : State) : Swap :=
  let ims := s.co.staged.map (·.image)
  let shadow := forAll (ims.flatMap (·.config)) (shadowUnits s ims) fun t c => (configWrite t c.2.offset c.2.value).1
  { before := s, shadow := shadow, images := ims, out := outgoingUnits s, recs := incomingRecs ims }

/-- An outgoing unit binds a resource. -/
def Swap.leaves (w : Swap) (k : UnitType) (i : Nat) : Bool := w.out.any fun x => x.rec_.kind == k && x.rec_.resource == i

/-- The record of the incoming unit that binds a resource. -/
def Swap.comes (w : Swap) (k : UnitType) (i : Nat) : Option UnitRec := binder w.recs k i

/-- R307: the CARRY records with RULE 1, each with the records of its TO unit. -/
def Swap.carries (w : Swap) : List (CarryRec × UnitRec) :=
  w.images.flatMap fun im => (im.carry.filter (·.carry)).filterMap fun c => (findRec im.units c.toUnit).map fun r => (c, r)

/-- R307: a resource is carried over. -/
def Swap.carried (w : Swap) (k : UnitType) (i : Nat) : Bool :=
  w.carries.any fun (c, r) => carryType c.kind == some k && r.resource == i

/-- R310: a nib that an outgoing and an incoming unit bind goes on with what it places. -/
def Swap.keepsNib (w : Swap) (n : NibIx) : Bool :=
  match w.comes .nib n with
  | some r => w.leaves .nib n && w.before.nibs[n].pin == recPin r
      && nibMode w.before.nibs[n] == nibMode w.shadow.nibs[n] && w.before.nibs[n].owner == recOwner r
  | none => false

/-! Step 4: outgoing units leave (R310). -/

/-- R310: the nib stops what it places, and every stroke in a slot is cancelled. -/
def nibLeaves (s : State) (n : NibIx) : State :=
  closeWindows (stopOutput s n .cancelledChangeover) n (nowTime s)

/-- R307, R71: a tracker that is not carried acts as for EN 1 to 0; the strokes that this cancels report
CANCELLED_CHANGEOVER. -/
def trackLeaves (s : State) (i : TrackIx) : State :=
  let s := if s.trackers[i].cfg.run then trackOff (cancelUnlocked s i .cancelledChangeover) i else s
  modTrack s i fun _ => { near := Vector.replicate 3 0 }

/-- A channel that is not carried stops, and with it its emulator. -/
def fbLeaves (s : State) (b : FbIx) : State :=
  let s := if s.channels[b].run then fbOff s b else s
  let s := if s.channels[b].emu.run then emuOff s b else s
  modFb s b fun _ => {}

/-- R310: a quill that no incoming unit binds is inactive from this tick on. -/
def quillGoes (s : State) (q : QuillIx) : State :=
  modQuill s q fun x => { x with active := false, staged := none, engine := resetEngine }

/-- R310: what an outgoing unit's resource does. -/
def leaveUnit (w : Swap) (s : State) (x : UnitSt) : State :=
  let k := x.rec_.kind
  let i := x.rec_.resource
  let stays := (w.comes k i).isSome
  match k with
  | .glyph => s
  | .nib =>
    let n := resNib x
    if w.keepsNib n then s
    else if stays then nibLeaves s n
    else
      let s := nibLeaves s n
      { s with nibs := s.nibs.set n (freshNib s n) }
  | .tracker => if w.carried k i then s else trackLeaves s (resTrack x)
  | .feedback => if w.carried k i then s else fbLeaves s (resFb x)
  | .counter => if w.carried k i then s else modCe s (resCe x) freshCounter
  | .comparator => if stays then s else modComp s (resComp x) fun _ => {}
  | .converter => if stays then s else freshAdc s
  | .reflex => modLink s (resLink x) fun _ => {}
  | .dmaChannel => if stays then s else chanLeaves s (Fin.ofNat 32 i)
  | .captureStream => if stays then s else modStream s (resStream x) fun _ => {}
  | .quill => if stays then s else quillGoes s (resQuill x)
  | .inkwell => if stays then s else modBank s (Fin.ofNat 64 i) fun y => { y with owner := {}, pend := none }

/-- R310: a changed pin is taken up: the nib drives it as it stands, or at SAFE_LEVEL where nothing has driven the nib since
the tick. -/
def takePin (s : State) (n : NibIx) : State :=
  match s.nibs[n].pinNext with
  | none => s
  | some (t, pin) =>
    let x := s.nibs[n]
    let d := if precedes x.drivenFrom (t - 64) then safeLevel x else x.drive
    let s := movePin (modNib s n fun x => { x with drive := .z, pinNext := none }) n pin
    modNib s n fun x => driven x d t

/-- R310: the pin changes that are due. -/
def takePins (s : State) : State :=
  forAll (indices 256) s fun s n => if s.nibs[n].pinNext.any fun x => dueNow s x.1 then takePin s n else s

/-! Step 5: incoming units come into force. -/

/-- R305: a route belongs to a unit that leaves. -/
def routeLeaves (w : Swap) (r : Route) : Bool :=
  match srcUnit (w.out.map (·.rec_)) r.kind r.index with
  | some _ => true
  | none => w.images.any fun im => im.leaf == r.leaf

/-- R305: directory, headers, windows, ROUTES, GUARD and GRANTS, and the generation in force (R311). -/
def installLeaves (w : Swap) (s : State) : State :=
  let gone (leaf : Nat) : Bool := w.images.any fun im => im.leaf == leaf
  let outUnit (u : Nat) : Bool := w.out.any fun x => x.rec_.unit == u
  let s := installUnits s w.images
  let s := modFolio s fun k => { k with
    routes := (k.routes.filter fun r => !routeLeaves w r) ++ w.images.flatMap (·.routes)
    guards := (k.guards.filter fun g => !gone g.leaf) ++ w.images.flatMap (·.guards)
    grants := (k.grants.filter fun g => !gone g.leaf && !w.leaves .quill g.quill) ++ w.images.flatMap (·.grants)
    ctrlPend := k.ctrlPend.filter fun c => !outUnit c.unit
    generation := stagedGeneration w.before
    rulingNs := (stagedPeriod w.before).getD k.rulingNs }
  let s := match stagedPeriod w.before with
    | some p => setPeriod s p
    | none => s
  loadLevels s

/-- A control register of its shadow, with the enable field as it stands. -/
def keepEn (new old : Word) : Word := setBit new 0 (tst old 0)

/-- R310: a stopped nib stands at the incoming SAFE_LEVEL, with HELD set (R127): on its pin at once, or, where its pin
changes, on the new one from tick + 64 eighths, until which the old one stays as it stood. DEDUCED (log entry 178). -/
def standsSafe (w : Swap) (s : State) (n : NibIx) (pin : Nat) : State :=
  modNib s n fun x =>
    let x := if x.pin = pin then driven x (safeLevel x) (nowTime s)
      else
        let old := w.before.nibs[n]
        { x with drive := old.drive, drivenFrom := old.drivenFrom, seen := old.seen, pinNext := some (nowTime s + 64, pin) }
    { x with run := false, held := true }

/-- R310: a nib that goes on, or is stopped, takes the registers of its shadow. One that is stopped is disabled until
step 7. DEDUCED (log entry 87). -/
def nibStays (w : Swap) (s : State) (n : NibIx) (r : UnitRec) : State :=
  let y := w.shadow.nibs[n]
  let keeps := w.keepsNib n
  let s := modNib s n fun x => { x with
    ctrl := if keeps then keepEn y.ctrl x.ctrl else y.ctrl
    owner := recOwner r, slewSlow := y.slewSlow, lateWin := y.lateWin, param0 := y.param0, param1 := y.param1
    evtEnable := y.evtEnable }
  let s := writeInCtrl (writeNibSafe s n y.safe) n y.inp.ctrl
  if keeps then
    if s.nibs[n].run && nibMode s.nibs[n] == 4 && !s.nibs[n].inSafe then driveDirect s n else s
  else standsSafe w s n (recPin r)

/-- R307: a nib that no outgoing unit bound takes its load state, at SAFE_LEVEL (R479). -/
def nibArrives (w : Swap) (s : State) (n : NibIx) : State :=
  let x := s.nibs[n]
  let y := w.shadow.nibs[n]
  { s with nibs := s.nibs.set n (driven { y with inSafe := x.inSafe, stopped := x.stopped } (safeLevel y) (nowTime s)) }

/-- R310: a comparator runs on; a changed SAMPLED, SDIV, HYST or INIT_STATE restarts it. -/
def compStays (w : Swap) (s : State) (c : AcIx) (r : UnitRec) : State :=
  let y := w.shadow.comparators[c]
  let restart := (s.comparators[c].ctrl &&& acLocked) != (y.ctrl &&& acLocked)
  let s := modComp s c fun x => { x with
    ctrl := if restart then y.ctrl else keepEn y.ctrl x.ctrl
    owner := recOwner r, evtEnable := y.evtEnable
    run := x.run && !restart, settle := if restart then none else x.settle
    blank := if restart then none else x.blank }
  if s.comparators[c].thr = y.thr then s else writeThr s c y.thr

/-- R310: the converter runs on. -/
def adcStays (w : Swap) (s : State) (r : UnitRec) : State :=
  let y := w.shadow.adc
  modAdc s fun a => { a with
    ctrl := keepEn y.ctrl a.ctrl, owner := recOwner r, scan := y.scan, rbCtrl := y.rbCtrl, evtEnable := y.evtEnable }

/-- R307, R310: the resource of an incoming unit. -/
def arriveUnit (w : Swap) (s : State) (r : UnitRec) : State :=
  let k := r.kind
  let i := r.resource
  let stays := w.leaves k i
  match k with
  | .glyph | .quill | .inkwell => s
  | .nib => if stays then nibStays w s (Fin.ofNat 256 i) r else nibArrives w s (Fin.ofNat 256 i)
  | .tracker =>
    let t : TrackIx := Fin.ofNat 16 i
    if w.carried k i then modTrack s t fun x => { x with owner := recOwner r }
    else modTrack s t fun _ => w.shadow.trackers[t]
  | .feedback => if w.carried k i then s else modFb s (Fin.ofNat 16 i) fun _ => w.shadow.channels[Fin.ofNat 16 i]
  | .counter => if w.carried k i then s else modCe s (Fin.ofNat 512 i) fun _ => w.shadow.counters[Fin.ofNat 512 i]
  | .comparator =>
    let c : AcIx := Fin.ofNat 32 i
    if stays then compStays w s c r else modComp s c fun _ => w.shadow.comparators[c]
  | .converter => if stays then adcStays w s r else modAdc s fun _ => w.shadow.adc
  | .reflex => modLink s (Fin.ofNat 64 i) fun _ => w.shadow.links[Fin.ofNat 64 i]
  | .dmaChannel => if stays then s else modChan s (Fin.ofNat 32 i) fun _ => w.shadow.dma.chans[Fin.ofNat 32 i]
  | .captureStream =>
    let g : StreamIx := Fin.ofNat 8 i
    if stays then modStream s g fun x => { x with ctrl := keepEn w.shadow.streams[g].ctrl x.ctrl }
    else modStream s g fun _ => w.shadow.streams[g]

/-- R307, R310: CONFIG reaches a resource that is carried over, and a DMA channel that runs on, as it runs; the enable
fields, which CONFIG may not set (R281), stay. DEDUCED (log entry 86). -/
def liveConfig (w : Swap) (s : State) (c : ConfigRec) : State :=
  match placeOf c.offset with
  | none => s
  | some x =>
    match blockType x.block with
    | some k =>
      if w.carried k x.inst || (k == .dmaChannel && w.leaves k x.inst) then
        let v := if setsEnable x 1 then keepEn c.value (placePeek s .scribe x) else c.value
        busWrite s .scribe c.offset v
      else s
    | none => s

/-- R300: a logical bank maps to its staged physical bank. A logical bank that had it, which no unit binds, takes what
the other leaves; where none had it, a bank that was failing or about to migrate is retired as it is left. -/
def mapStaged (s : State) (b : InkIx) (p : Nat) : State :=
  let x := s.ink.banks[b]
  let wait := s.ink.waiting.find? fun y => y.1 == b
  let move := s.ink.migration.filter fun g => g.bank == b
  let other := (mappedTo s p).filter fun c => c != b
  let s := if s.ink.march.bank = b.val ∧ [MarchPhase.copy, .test, .restore, .lift].contains s.ink.march.phase then
      modMarch s fun m => { m with phase := .idle }
    else s
  if mappedTo s p = some b then s
  else
    let s := modBank s b fun y => { y with phys := some p, redirect := none, failed := false }
    let s := modInk s fun k => { k with
      waiting := k.waiting.filter fun y => y.1 != b
      migration := if move.isSome then none else k.migration }
    match other with
    | some c =>
      let s := modBank s c fun y => { y with
        phys := x.phys, redirect := if x.failed then x.redirect else none, failed := x.failed }
      (match wait, move with
        | some (_, cause), _ => wantMigration s c cause
        | none, some g => wantMigration s c g.cause
        | none, none => s)
    | none =>
      match x.phys, wait, move with
      | some old, some (_, cause), _ => retireBank s old cause 0
      | some old, none, some g => retireBank s old g.cause 0
      | _, _, _ => s

/-- R300, R310, R321: the bank of an INKWELL unit: its staged physical bank, its owner and its next generation; a
handover that waits is discarded. -/
def bankArrives (w : Swap) (s : State) (r : UnitRec) : State :=
  if r.kind != .inkwell then s
  else
    let b : InkIx := Fin.ofNat 64 r.resource
    let s := match (w.before.co.staged.flatMap (·.banks)).find? fun x => x.1 == b with
      | some (_, p) => mapStaged s b p
      | none => s
    takeBank (modBank s b fun x => { x with pend := none }) r

/-- R411: a move of a quill that has not completed ends as the quill leaves both physical quills. -/
def endMoves (s : State) (q : QuillIx) : State :=
  let ms := s.pool.moves.filter fun m => m.quill == q
  let s := modPool s fun k => { k with moves := k.moves.filter fun m => m.quill != q }
  forAll ms s fun s m => retirePhys s m.source m.cause (unitNo s .quill q)

/-- R299: the quill leaves its physical quill, which becomes a standby, for its reserved standby. -/
def takeReserved (s : State) (q : QuillIx) (p : PhysIx) : State :=
  let old := s.quills[q].phys
  let s := modQuill s q fun x => { x with phys := p, store := p, moves := x.moves + 1 }
  reviewRoles (leaveStore (setRole (endMoves s q) p (.logical q)) old)

/-- R299, R240: a program comes into force. -/
def programArrives (s : State) (q : QuillIx) (g : StagedProgram) : State :=
  let s := match g.phys with
    | some p => if s.pool.roles[p] = .reserved then takeReserved s q p else s
    | none => s
  modQuill s q fun x => { x with
    halfmode := g.halfmode, activeHalf := g.halfmode && g.half, entry := g.entry
    version := versionWord g.program g.patch, proved := BitVec.ofNat 16 g.proved, staged := none }

/-- R249, R306, R307: the quill of an incoming unit: its mailbox, and what its first frame shows. A debug halt holds the
incoming program at its first gather. -/
def quillArrives (w : Swap) (fates : Vector Fate 16) (s : State) (r : UnitRec) : State :=
  if r.kind != .quill then s
  else
    let q : QuillIx := Fin.ofNat 16 r.resource
    let carried := w.carried .quill r.resource
    let superseded := fates[q] == .superseded
    let zero : Vector Word 16 := Vector.replicate 16 0
    modQuill s q fun x => { x with
      paired := recPaired r
      mbx := if carried then { x.mbx with committed := zero }
        else { hold := false, regs := zero, gathered := zero, frame := zero, committed := zero }
      skip := superseded, skipped := if superseded then 1 else 0, overrunLast := false, prevCause := 0
      haltReq := x.haltReq || x.halted, halted := false, frozen := false, frozenTick := none }

/-! Step 6: what is carried (R307, R309). -/

/-- R307, R309: the words of a carry record of kind 1. Until they are copied, they are served from where the FROM bank
had them: its physical bank, or the understudy for a slice of it that is redirected. -/
def carryWords (w : Swap) (s : State) (c : CarryRec) (r : UnitRec) : State :=
  match findUnit w.before.folio.units c.fromUnit with
  | none => s
  | some x =>
    let from_ : InkIx := Fin.ofNat 64 x.rec_.resource
    let onto : InkIx := Fin.ofNat 64 r.resource
    let words : List (Fin 4096) := (List.range c.count).map fun i => Fin.ofNat 4096 (c.first + i)
    let sources := (words.filterMap fun a => (servingWord w.before from_ a).map (· / 4096)).eraseDups
    modCo s fun k => { k with copies := k.copies ++ sources.map fun p =>
      { bank := onto, source := p, words := words.filter fun a => servingWord w.before from_ a == some (4096 * p + a) } }

/-- R307: the parameters of a carry record of kind 6. -/
def carryParams (w : Swap) (s : State) (c : CarryRec) : State :=
  match findUnit w.before.folio.units c.fromUnit with
  | none => s
  | some x => modUnit s c.toUnit fun y => { y with params := y.params.zipIdx.map fun (p, k) =>
      match x.params[k]? with
      | some f => { p with shadow := f.force, closing := f.force, force := f.force }
      | none => p }

/-- R307, R305 step 6. -/
def carryAll (w : Swap) (s : State) : State :=
  let s := modCo s fun k => { k with copySince := s.time.tb }
  forAll w.carries s fun s (c, r) =>
    if c.kind = 1 then carryWords w s c r else if c.kind = 6 then carryParams w s c else s

/-- The next word that the carry copies take to a bank. -/
def nextCarry (k : CoSt) : Option (InkIx × Fin 4096) := k.copies.findSome? fun c => c.words.head?.map fun w => (c.bank, w)

/-- R309, R325: a word of a carry copy takes 8 ns, and is read through the decoder. DEDUCED (log entry 89). -/
def carryCopy (s : State) : State :=
  match nextCarry s.co with
  | some (b, w) =>
    if wordDue s s.co.copySince then
      modCo (carryWord s b w true) fun k => { k with copySince := k.copySince + 8 }
    else s
  | none => s

/-- R309: every word of the carry copies has been copied. -/
def carryCopied (s : State) : Bool := !s.co.copies.isEmpty && copyWords s.co == 0

/-- R309: CO_COPY has reached zero; the banks that the words came from are free. -/
def execCarryCopyDone (s : State) : Host.Outcome State Fault Refusal :=
  finish (if carryCopied s then endCopies s else s)

/-! Step 7: enables (R271, R305). -/

/-- R308: the ENABLE of every incoming glyph is in place before CONFIG and parameters reach a resource that is carried or
runs on, so that it never passes through a disabled state. DEDUCED (log entry 179). -/
def enableGlyphs (w : Swap) (s : State) : State :=
  forAll (w.recs.filter fun r => r.kind == .glyph) s fun s r =>
    modUnit s r.unit fun x => { x with enable := r.uflags % 2 == 1 }

/-- R305 step 7: the incoming primitives with ENABLE_AT_START become enabled, and the others are disabled; a converter
runs on (R310). -/
def enableIncoming (w : Swap) (s : State) : State :=
  let on (r : UnitRec) : Bool := r.uflags % 2 == 1
  forAll (w.recs.filter fun r => r.kind != .glyph) s fun s r =>
    let s := if r.kind == .converter && !on r && w.leaves r.kind r.resource then s else setOwnEnable s r.unit (on r)
    match findUnit s.folio.units r.unit with
    | some x => reviewUnit s x
    | none => s

/-! The whole swap. -/

/-- R305 step 2: header actions and handovers bound to an outgoing unit are discarded. DEDUCED (log entry 90). -/
def dropOutgoing (s : State) (due : List CtrlPend) : List CtrlPend × State :=
  let out := outgoingUnits s
  let s := forAll (out.filter fun x => x.rec_.kind == .inkwell) s fun s x =>
    modBank s (Fin.ofNat 64 x.rec_.resource) fun y => { y with pend := none }
  (due.filter fun c => !out.any fun x => x.rec_.unit == c.unit, s)

/-- R305 steps 3 to 7. -/
def swapLeaves (fates : Vector Fate 16) (s : State) : State :=
  let w := swapOf s
  let s := forAll w.out s (leaveUnit w)
  let s := installLeaves w s
  let s := forAll w.recs s (arriveUnit w)
  let s := forAll ((w.images.flatMap (·.config)).map (·.2)) (enableGlyphs w s) (liveConfig w)
  let s := forAll w.recs s (bankArrives w)
  let s := forAll (w.before.co.staged.flatMap (·.programs)) s fun s (q, g) => programArrives s q g
  let s := forAll w.recs s (quillArrives w fates)
  let s := modCo s fun k => { k with staged := [] }
  let s := applyGlyphs (carryAll w s) w.recs
  let s := enableIncoming w s
  reviewSafe (reviewBanks s)

/-- R311, R313: the trigger has been taken. -/
def noteTaken (s : State) : State :=
  modCo s fun c => { c with
    trigger := none, phase := .none, expire := 0, last := none, outcome := .done, lastFrame := s.time.frame, taken := c.taken + 1 }

/-- R311, R383: the CHANGEOVER completes. -/
def changeoverCompletes (s : State) : State :=
  if headPhase s opChangeover = some .committed then
    endCmd s stSuccess (detail := CoOutcome.done.code) (r0 := s.time.frame) (r1 := s.folio.generation.zeroExtend 64)
  else s

end Sys2Proof.Machine
end

