-- ==== Sys2Proof/Machine/Tick.lean ====
section
/-! DEFINITION. The tick (R16, R41, R253), the changeover tick (R305), the START tick (R294), the tick that TB_SET waits
for (R36), what STOP_TO_SAFE and SNAPSHOT do at their tick (R384), and the close (R252). -/
namespace Sys2Proof.Machine

/-- R16, R41: the ruling period has ended; the present cycle is cycle 0 of the next frame. -/
def tickDue (s : State) : Bool := s.time.rulings && !s.time.stopped && s.time.cycle == s.time.period

/-- R304: the coming tick is the changeover tick. -/
def swapDue (s : State) : Bool := tickDue s && s.co.phase == .committed

/-! STOP_TO_SAFE and SNAPSHOT (R384, R385). -/

/-- R384: STOP_TO_SAFE at its tick. DEDUCED (log entry 97). -/
def stopToSafe (s : State) : State :=
  let s := modScribe s fun c => { c with stopDue := false, stoppedSafe := true }
  let s := if s.co.phase = .none then s else disarm s .aborted
  let s := releaseStaged s fun _ => true
  let s := modFolio s fun k => { k with started := false, startAt := none }
  let s := { s with nibs := s.nibs.map fun x => { x with stopped := true } }
  let s := forAll (indices 16) (reviewSafe s) quillReview
  endCmd s stSuccess (r0 := s.time.frame)

/-- R385: the SNAPSHOT report. -/
def snapshotReport (s : State) : List Byte :=
  let words (l : List Word) : List Byte := l.flatMap fun w => leBytes 4 w.toNat
  words [timePeek s 0x10, timePeek s 0x14, timePeek s 0x18, timePeek s 0x1C]
    ++ ((indices 16).flatMap fun i => (trackWords s i).flatMap fun w => leBytes 16 w.toNat)
    ++ ((indices 16).flatMap fun (q : QuillIx) =>
      words [quillPeek s q 0x1C, quillPeek s q 0x40, quillPeek s q 0x3C, quillPeek s q 0x2C])

/-- R380, R383: a report is written before the response of its command; with an address of 0 the command returns its
results alone, and with no way to the host it ends with BUS_ERROR. -/
def endReport (s : State) (addr : W64) (bytes : List Byte) (r0 : W64 := 0) (r1 : W64 := 0) : State :=
  if addr = 0 then endCmd s stSuccess (r0 := r0) (r1 := r1)
  else if (noRequest s).isSome then endCmd s stBusError (r0 := addr)
  else endCmd (post s (.write addr bytes)) stSuccess (r0 := r0) (r1 := r1)

/-- The argument of the command in progress. -/
def headArg (s : State) (i : Nat) : W64 := match s.scribe.queue with | e :: _ => cmdArg (e.bytes.getD 0) i | [] => 0

/-- R384, R385: SNAPSHOT at its tick. -/
def takeSnapshot (s : State) : State :=
  let s := modScribe s fun c => { c with snapDue := false }
  endReport s (headArg s 0) (snapshotReport s) (r0 := s.time.frame)

/-- R384: TB_TRIM completes once its trim has been applied. -/
def trimCompletes (s : State) : State :=
  if headPhase s opTbTrim = some .committed then endCmd s stSuccess else s

/-! The tick. -/

/-- R18, R23: what the gathers take as it stood before cycle 0. -/
def gatherEarly (s : State) : State := { s with quills := s.quills.map gatherBefore }

/-- R247: the trackers as the tick leaves them. -/
def keepTrackers (s : State) : State := { s with tickTrackers := s.trackers }

/-- R253, R305: everything bound to a tick takes effect; `swap` says that the staged leaves come into force. -/
def runTick (swap : Bool) (s : State) : State :=
  let gone : Vector Bool 16 := Vector.ofFn fun (q : QuillIx) => swap && quillLeaves s q
  let fates : Vector Fate 16 := Vector.ofFn fun (q : QuillIx) =>
    let f := frameFate s.quills[q]
    if gone[q] && f != .none then .superseded else f
  let outs := committing s fates
  let newPeriod := swap && (stagedPeriod s).any fun p => p != s.time.period
  let s := gatherEarly (settleFates s fates)
  let s := applyGearing (commitInk (tickBegin s newPeriod) outs)
  let s := sliceLift (reviewStaged (bankSwitch s))
  let (due, s) := takeCtrl s
  let (due, s) := if swap then dropOutgoing s due else (due, s)
  let s := commitRegws (applyDue s due) outs
  let s := handoversTick (ctrlActs s due)
  let s := commitVirtuals s outs
  let s := if swap then noteTaken (settleInputs s (swapLeaves fates s)) else s
  let s := emuStart (leaveSafe s)
  let s := keepTrackers (commitStrokes s outs)
  let s := disputesTick (commitSignals s outs) fun q => gone[q]
  let s := movesTick (marchTick s)
  let s := if s.scribe.stopDue then stopToSafe s else s
  let s := gatherAll s
  let s := trimCompletes (if s.scribe.snapDue then takeSnapshot s else s)
  if swap then changeoverCompletes s else triggerTick s

/-- R16, R253: a tick at which no changeover takes effect. -/
def execTick (s : State) : Host.Outcome State Fault Refusal :=
  finish (if tickDue s && !swapDue s then runTick false s else s)

/-- R305: the changeover tick. -/
def execChangeoverTick (s : State) : Host.Outcome State Fault Refusal :=
  finish (if swapDue s then runTick true s else s)

/-- R252, R304, R384: the close of a frame begins; a FRAME trigger and a START for the next tick become irrevocable. -/
def closeOnce (s : State) (mismatched : List QuillIx) (votes : List (QuillIx × Vote)) : State :=
  let s := modTime (frameTriggerClose (closeFrame s mismatched votes)) fun t => { t with closed := true }
  if s.folio.startAt = some (comingFrame s) ∧ headPhase s opStart = some .started then
    if startRefused s then
      let s := modFolio s fun k => { k with startAt := none }
      endCmd s stSync (detail := s.time.sync.state.code)
    else setHeadPhase s .committed
  else s

/-- R252. -/
def execClose (mismatched : List QuillIx) (votes : List (QuillIx × Vote)) (s : State) :
    Host.Outcome State Fault Refusal :=
  finish (if closeDue s then closeOnce s mismatched votes else s)

/-! START and TB_SET at their tick. -/

/-- R294: the tick that START waits for. -/
def startDue (s : State) : Bool :=
  tickDue s && !s.folio.started && s.folio.loaded && s.folio.startAt == some (comingFrame s)

/-- R294, R384: the folio starts, and its START completes. -/
def startNow (s : State) : State :=
  let frame := comingFrame s
  let s := startFolio s
  if (headPhase s opStart).isSome then endCmd s stSuccess (r0 := frame) else s

/-- R294. -/
def execStartTick (s : State) : Host.Outcome State Fault Refusal := finish (if startDue s then startNow s else s)

/-- R36: TB_SET waits for the present tick. -/
def tbSetDue (s : State) : Bool := tickDue s && s.time.tbSet.isSome

/-- R36: TB and the frame number of the tick are set, and TB_SET completes. -/
def setTb (s : State) : State :=
  match s.time.tbSet with
  | some (t, f) =>
    let d := t - s.time.tb
    let s := modTime s fun y => { y with tb := t, nextFrame := f, tbSet := none, aclkWait := aclkAfter t y.aclkWait }
    let s := tbSteps s d
    if (headPhase s opTbSet).isSome then endCmd s stSuccess (r0 := f) else s
  | none => s

/-- R36. -/
def execTbSetApply (s : State) : Host.Outcome State Fault Refusal := finish (if tickDue s then setTb s else s)

/-! What comes in cycle 0. -/

/-- R23, R253, R262: what is accepted in cycle 0 of a tick finds the commit of that tick made: the tick that is due in
the present cycle, with all that it brings, unless the device enters Sleep or Standby in its place (R434, R435).
DEDUCED (log entry 148). -/
def afterTick (s : State) : State :=
  if !tickDue s || s.scribe.entry.isSome then s
  else
    let s := settle (setTb s)
    let s := settle (if startDue s then startNow s else s)
    settle (runTick (swapDue s) s)

end Sys2Proof.Machine
end

