-- ==== Sys2Proof/Machine/Access.lean ====
section
/-! DEFINITION. The accesses that are commands of their own: writes and reads of single registers by an access path. An
access takes effect only where its path reaches the device (R432, R446, R451); one that finds the device asleep wakes it
(R436), and one that comes before READY is ignored and reads zero (R432). -/
namespace Sys2Proof.Machine

/-- The path reaches the device: PCIe needs its link and D0, the scribe runs. DEDUCED (log entry 107). -/
def pathOpen (s : State) : Path → Bool
  | .pcie => s.host.linkUp && !s.host.d3hot && !s.host.perst
  | .sp => true
  | .scribe => s.power.mode == .up

/-- R432, R436: an access, where the device takes it. One that comes in cycle 0 of a tick comes after the commit of that
tick (R23, R253, R262). -/
def reach (s : State) (p : Path) (f : State → State) : State :=
  if !pathOpen s p then s
  else match s.power.mode with
    | .up => f (afterTick s)
    | .sleep => f (wakeSleep s 0x10)
    | .reset | .boot | .standby => s

/-- R414: a register access of a path is a transfer on its bus; a read is one of the fixed register blocks.
DESIGN CHOICE (log entry 116). -/
def regTransfer (p : Path) (read : Bool) (s : State) : State :=
  let s := busTransfer s (match p with | .pcie => 0 | .sp => 4 | .scribe => 5)
  if read then regBlockRead s else s

/-- R432, R436: a register access, where the device takes it. -/
def access (s : State) (p : Path) (f : State → State) : State := reach s p fun s => f (regTransfer p false s)

/-- R432, R436: a register read, and what it returns. DEDUCED (log entry 121). -/
def accessRead (s : State) (p : Path) (f : State → Word × State) : State :=
  if s.power.mode = .boot then (if pathOpen s p then setRead s p 0 else s)
  else reach s p fun s =>
    let (v, s) := f (regTransfer p true s)
    setRead s p v

/-- R25: a register access to a resource that a unit may bind. -/
def accessUnit (s : State) (p : Path) (k : UnitType) (i : Nat) (g : State → State) : State :=
  access s p fun s => ifBound s k i g

/-! Nibs and reflex links. -/

/-- R139. -/
def execRlCtrlWrite (p : Path) (l : LinkIx) (v : Word) (s : State) : Host.Outcome State Fault Refusal :=
  finish (accessUnit s p .reflex l fun s => writeRlCtrl s l v)

/-- R139: CTRL.ARM written with 1, every other field at its present value. -/
def execReflexArm (p : Path) (l : LinkIx) (s : State) : Host.Outcome State Fault Refusal :=
  finish (accessUnit s p .reflex l fun s => writeRlCtrl s l (readRlCtrl s.links[l] ||| 8))

/-- R130. -/
def execNibCtrlWrite (p : Path) (n : NibIx) (v : Word) (s : State) : Host.Outcome State Fault Refusal :=
  finish (accessUnit s p .nib n fun s => nibRanked s p n 0x00 fun s => writeNibCtrl s n v)

/-! Inputs and capture streams. -/

/-- R156. -/
def execInCtrlWrite (p : Path) (n : NibIx) (v : Word) (s : State) : Host.Outcome State Fault Refusal :=
  finish (accessUnit s p .nib n fun s => nibRanked s p n 0x28 fun s => writeInCtrl s n v)

/-- R137. -/
def execRouteWrite (p : Path) (n : NibIx) (v : Word) (s : State) : Host.Outcome State Fault Refusal :=
  finish (accessUnit s p .nib n fun s => writeRoute s n v)

/-- R160. -/
def execCap0Read (p : Path) (n : NibIx) (s : State) : Host.Outcome State Fault Refusal :=
  finish (accessRead s p fun s => readCap0 s p n)

/-- R162. -/
def execCsCtrlWrite (p : Path) (g : StreamIx) (v : Word) (s : State) : Host.Outcome State Fault Refusal :=
  finish (accessUnit s p .captureStream g fun s => writeCsCtrl s g v)

/-! Trackers. -/

/-- R71. -/
def execTrackerEnable (p : Path) (i : TrackIx) (v : Word) (s : State) : Host.Outcome State Fault Refusal :=
  finish (accessUnit s p .tracker i fun s => writeTrackCtrl s i v)

/-- R87: CTRL.RESYNC written with 1, every other field at its present value. -/
def execTrackerResync (p : Path) (i : TrackIx) (s : State) : Host.Outcome State Fault Refusal :=
  finish (accessUnit s p .tracker i fun s => writeTrackCtrl s i (readTrackCtrl s.trackers[i] ||| 4))

/-- R98. -/
def execTrackerApply (p : Path) (i : TrackIx) (s : State) : Host.Outcome State Fault Refusal :=
  finish (accessUnit s p .tracker i fun s => writeSlaveCtrl s i (readSlaveCtrl s.trackers[i] ||| 0x100))

/-- R102. -/
def execLearnCtrlWrite (p : Path) (i : TrackIx) (v : Word) (s : State) : Host.Outcome State Fault Refusal :=
  finish (accessUnit s p .tracker i fun s => writeLearnCtrl s i v)

/-- R107: an access to TMAP_FLAGS, a write where a value is given. -/
def execTmapFlagsAccess (p : Path) (i : TrackIx) (v : Option Word) (s : State) : Host.Outcome State Fault Refusal :=
  finish (match v with
    | some v => accessUnit s p .tracker i fun s => writeMapFlags s i v
    | none => accessRead s p fun s => readMapFlags s i)

/-! Feedback channels. -/

/-- R171. -/
def execFbCtrlWrite (p : Path) (b : FbIx) (v : Word) (s : State) : Host.Outcome State Fault Refusal :=
  finish (accessUnit s p .feedback b fun s => writeFbCtrl s b v)

/-- R177: CTRL.IDX_ARM written with 1, every other field at its present value. -/
def execIdxArm (p : Path) (b : FbIx) (s : State) : Host.Outcome State Fault Refusal :=
  finish (accessUnit s p .feedback b fun s => writeFbCtrl s b (s.channels[b].ctrl ||| 0x80))

/-! Emulators. -/

/-- R188, R190. -/
def execEmuCtrlWrite (p : Path) (b : FbIx) (v : Word) (s : State) : Host.Outcome State Fault Refusal :=
  finish (accessUnit s p .feedback b fun s => writeEmuCtrl s b v)

/-! Comparators and the converter. -/

/-- R198. -/
def execThrWrite (p : Path) (c : AcIx) (v : Word) (s : State) : Host.Outcome State Fault Refusal :=
  finish (accessUnit s p .comparator c fun s => writeThr s c v)

/-- R197. -/
def execAcCtrlWrite (p : Path) (c : AcIx) (v : Word) (s : State) : Host.Outcome State Fault Refusal :=
  finish (accessUnit s p .comparator c fun s => writeAcCtrl s c v)

/-- R206. -/
def execAdcCtrlWrite (p : Path) (v : Word) (s : State) : Host.Outcome State Fault Refusal :=
  finish (accessUnit s p .converter 0 fun s => writeAdcCtrl s v)

/-! Counter elements. -/

/-- R54. -/
def execCeCtrlWrite (p : Path) (e : CeIx) (v : Word) (s : State) : Host.Outcome State Fault Refusal :=
  finish (accessUnit s p .counter e fun s => writeCeCtrl s e v (ceRank p))

/-- R55, R57. -/
def execCeWinWrite (p : Path) (e : CeIx) (v : Word) (s : State) : Host.Outcome State Fault Refusal :=
  finish (accessUnit s p .counter e fun s => writeCeWin s p e v)

/-- R53, R54: COUNT_HI written by a path. -/
def execCeCountWrite (p : Path) (e : CeIx) (v : Word) (s : State) : Host.Outcome State Fault Refusal :=
  finish (accessUnit s p .counter e fun s => writeCeCount s e (cat64 v (heldLow s p (ceAddr e + 0x08))) (ceRank p))

/-! Time. -/

/-- R37. -/
def execTrimWrite (p : Path) (v : Word) (s : State) : Host.Outcome State Fault Refusal :=
  finish (access s p fun s => writeTrim s v)

/-- R38. -/
def execPpsStampRead (p : Path) (s : State) : Host.Outcome State Fault Refusal :=
  finish (accessRead s p fun s => readPps s p)

/-- R44. -/
def execSyncCtrlWrite (p : Path) (v : Word) (s : State) : Host.Outcome State Fault Refusal :=
  finish (access s p fun s => writeSyncCtrl s v)

/-! Units. -/

/-- R271. -/
def execUnitEnable (p : Path) (u : UnitIx) (on : Bool) (s : State) : Host.Outcome State Fault Refusal :=
  finish (access s p fun s => askEnable s u on)

/-- R26. -/
def execUnitSafeSet (p : Path) (u : UnitIx) (s : State) : Host.Outcome State Fault Refusal :=
  finish (access s p fun s => setSafe s u)

/-- R26. -/
def execUnitSafeRelease (p : Path) (u : UnitIx) (s : State) : Host.Outcome State Fault Refusal :=
  finish (access s p fun s => askRelease s u)

/-- R278. -/
def execGlyphApply (p : Path) (u : UnitIx) (s : State) : Host.Outcome State Fault Refusal :=
  finish (access s p fun s => askApply s u)

/-! Mailboxes of quills. -/

/-- R22: a write of a mailbox register. -/
def execMbxWrite (p : Path) (q : QuillIx) (reg : Fin 17) (v : Word) (s : State) : Host.Outcome State Fault Refusal :=
  finish (access s p fun s => writeMbx s q reg v)

/-! The DMA engine. -/

/-- R347, R348: DOORBELL. -/
def execDmaDoorbell (p : Path) (c : DmaIx) (s : State) : Host.Outcome State Fault Refusal :=
  finish (access s p fun s => doorbell s c)

/-- R350: RESUME written to a channel. -/
def execDmaResume (p : Path) (c : DmaIx) (s : State) : Host.Outcome State Fault Refusal :=
  finish (access s p fun s => if chanBound s c then dmaResumeAt s c else s)

/-- R350: SKIP written to a channel. -/
def execDmaSkip (p : Path) (c : DmaIx) (s : State) : Host.Outcome State Fault Refusal :=
  finish (access s p fun s => if chanBound s c then dmaSkipAt s c else s)

/-- R351: ABORT written to a channel. -/
def execDmaAbort (p : Path) (c : DmaIx) (s : State) : Host.Outcome State Fault Refusal :=
  finish (access s p fun s => if chanBound s c then dmaAbortAt s c else s)

/-- R345: the host consumes records of a ring. -/
def execCqConsWrite (p : Path) (k : RingIx) (v : Word) (s : State) : Host.Outcome State Fault Refusal :=
  finish (access s p fun s => writeCons s k v)

/-- R345, R53: a write of BASE_HI, which applies the base with the low word the path wrote before. -/
def execCqBaseWrite (p : Path) (k : RingIx) (v : Word) (s : State) : Host.Outcome State Fault Refusal :=
  finish (access s p fun s => writeCqBase s k (cat64 v (heldLow s p (cqAddr k))))

/-- R347, R53: a write of HEAD_HI, which applies HEAD. -/
def execDmaHeadWrite (p : Path) (c : DmaIx) (v : Word) (s : State) : Host.Outcome State Fault Refusal :=
  finish (access s p fun s => writeHead s c (cat64 v (heldLow s p (headAddr c))))

/-! The EIC. -/

/-- R363: a claim read. -/
def execEicClaim (p : Path) (k : Fin 9) (fast : Bool) (s : State) : Host.Outcome State Fault Refusal :=
  finish (accessRead s p fun s => claimBy s p k fast)

/-- R364. -/
def execEicComplete (p : Path) (k : Fin 9) (fast : Bool) (v : Word) (s : State) : Host.Outcome State Fault Refusal :=
  finish (access s p fun s => completeBy s p k fast v)

/-- R361, R376: PENDING written with 1 acts as an arrival. -/
def execSrcPendingWrite (p : Path) (x : SrcIx) (s : State) : Host.Outcome State Fault Refusal :=
  finish (access s p fun s => arrive s x true)

/-- R366. -/
def execGrpCfgWrite (p : Path) (g : Fin 64) (v : Word) (s : State) : Host.Outcome State Fault Refusal :=
  finish (access s p fun s => writeGrpCfg s g v)

/-- R370. -/
def execTargetAwake (p : Path) (v : Word) (s : State) : Host.Outcome State Fault Refusal :=
  finish (access s p fun s => writeAwake s v)

/-- R369. -/
def execSrcCfgWrite (p : Path) (x : SrcIx) (v : Word) (s : State) : Host.Outcome State Fault Refusal :=
  finish (access s p fun s => putSrcCfg s x v)

/-! The blotter. -/

/-- R400: a write of BLOTTER.ACK. -/
def execBlotterAck (p : Path) (v : Word) (s : State) : Host.Outcome State Fault Refusal :=
  finish (access s p fun s => writeAck s v)

/-! The scribe. -/

/-- R379. -/
def execCmdTail (p : Path) (v : Word) (s : State) : Host.Outcome State Fault Refusal :=
  finish (access s p fun s => writeCmdTail s v)
/-- R380. -/
def execMailboxGo (p : Path) (s : State) : Host.Outcome State Fault Refusal := finish (access s p submitMailbox)
/-- R379. -/
def execRspCons (p : Path) (v : Word) (s : State) : Host.Outcome State Fault Refusal :=
  finish (access s p fun s => writeRspCons s v)
/-- R379. -/
def execRingCtrlWrite (p : Path) (rsp : Bool) (v : Word) (s : State) : Host.Outcome State Fault Refusal :=
  finish (access s p fun s => writeRingCtrl s rsp v)

/-! The commands of the access paths. -/

/-- R432: what an access reaches between link-up and READY. -/
def bootReach (addr : Nat) : Bool := addr < 0x100 || addr == 0x1000

/-- R432, R436, R450: a read of a 32-bit register by a path, at a BAR0 offset, or at 0x8000_0000 plus a BAR2 offset. -/
def pathRead (s : State) (p : Path) (addr : Nat) : State :=
  if s.power.mode = .boot ∧ pathOpen s p ∧ bootReach addr then
    let (v, s) := busRead s p addr
    setRead s p v
  else accessRead s p fun s => busRead s p addr

/-- R432, R436, R450: a write of a 32-bit register by a path. -/
def pathWrite (s : State) (p : Path) (addr : Nat) (v : Word) : State :=
  if s.power.mode = .boot ∧ pathOpen s p ∧ bootReach addr then busWrite s p addr v
  else access s p fun s => busWrite s p addr v

/-- R52: a read that latches the value of an RL register; a read of any other register is as it is. -/
def execRlLowRead (p : Path) (addr : Word) (s : State) : Host.Outcome State Fault Refusal :=
  finish (pathRead s p addr.toNat)

/-- R9: a read that clears an RC register. -/
def execRcRead (p : Path) (addr : Word) (s : State) : Host.Outcome State Fault Refusal :=
  finish (pathRead s p addr.toNat)

/-- R53: a write of the low word of a 64-bit value is held. -/
def execWideLowWrite (p : Path) (addr v : Word) (s : State) : Host.Outcome State Fault Refusal :=
  finish (pathWrite s p addr.toNat v)

/-- R53: a write of the high word applies the value whole. -/
def execWideHighWrite (p : Path) (addr v : Word) (s : State) : Host.Outcome State Fault Refusal :=
  finish (pathWrite s p addr.toNat v)

/-- R450: a write of a register. DEDUCED (log entry 118). -/
def execRegisterWrite (p : Path) (addr v : Word) (s : State) : Host.Outcome State Fault Refusal :=
  finish (pathWrite s p addr.toNat v)

/-- R445: an access to KEEP_DATA. -/
def execKeepDataAccess (p : Path) (v : Option Word) (s : State) : Host.Outcome State Fault Refusal :=
  finish (match v with
    | some v => pathWrite s p 0xDC v
    | none => pathRead s p 0xDC)

/-- R321: a write of IKn.OWNER. -/
def execHandoverRequest (p : Path) (b : InkIx) (v : Word) (s : State) : Host.Outcome State Fault Refusal :=
  finish (access s p fun s => writeOwner s b v)

/-- R414: an access of the service port is a transfer on it. -/
def spTransfer (p : Path) (s : State) : State := if p = .sp then busTransfer s 4 else s

/-- R318, R456: a read of BAR4 begins; for a READ frame of the service port, which names its address, the frame's access
is then pending. DEDUCED (log entry 111). -/
def bar4Begin (s : State) (p : Path) (addr len : Nat) (frame : Option Word) : State :=
  reach s p fun s =>
    let s := modHost (spTransfer p s) fun h => { h with
      spAccess := match frame with | some a => some { addr := a } | none => h.spAccess }
    startJob s
      { path := p, addr := addr, len := len, data := none, left := bar4Words addr len, frame := frame.isSome }

/-- R318: a read of BAR4 of up to 512 bytes. -/
def bar4Get (s : State) (p : Path) (addr len : Nat) : State :=
  if 512 < len then s
  else if s.power.mode = .boot then (if pathOpen s p then { s with readBytes := List.replicate len 0 } else s)
  else bar4Begin s p addr len none

/-- R317, R318: a write of BAR4 of up to 256 bytes; it begins at its lowest enabled byte. -/
def bar4Put (s : State) (p : Path) (addr : Nat) (data : List (Option Byte)) : State :=
  if 256 < data.length then s
  else
    let skip := (data.takeWhile (·.isNone)).length
    let d := data.drop skip
    let a := addr + skip
    reach s p fun s => startJob (spTransfer p s)
      { path := p, addr := a, len := d.length, data := some d
        left := (bar4Words a d.length).filter fun (b, w) => (bar4Lane a d b w).1 != 0 }

/-- R318. -/
def execBar4Read (p : Path) (addr : Word) (len : Nat) (s : State) : Host.Outcome State Fault Refusal :=
  finish (bar4Get s p addr.toNat len)

/-- R318. -/
def execBar4Write (p : Path) (addr : Word) (data : List (Option Byte)) (s : State) : Host.Outcome State Fault Refusal :=
  finish (bar4Put s p addr.toNat data)


end Sys2Proof.Machine
end

