-- ==== Sys2Proof/Machine/HostPort.lean ====
section
/-! DEFINITION. Refused BAR0 requests (R450), the frames of the service port (R453 to R456) and the JTAG instructions
(R457, R458). -/
namespace Sys2Proof.Machine

/-! Refused requests. -/

/-- R450, R472: an error bit of ACCESS_ERR, counted. -/
def noteAccessErr (s : State) (bit : Nat) : State :=
  modHost s fun h => { h with
    accessErr := setBit h.accessErr bit true
    accessCount := satAdd h.accessCount 1 }

/-- R450: the bit of ACCESS_ERR for a refused BAR0 request; a read of at most 16 DW is not refused. -/
def bar0Refusal (write : Bool) (dws : Nat) : Option Nat :=
  if write then some (if 16 < dws then 2 else 0) else if 16 < dws then some 1 else none

/-- R450: a BAR0 request that is refused. -/
def refuseBar0 (s : State) (addr : Word) (write : Bool) (dws : Nat) : State :=
  match bar0Refusal write dws with
  | none => s
  | some bit => modHost (noteAccessErr s bit) fun h => { h with accessAddr := addr }

/-- R450: an over-long request, or a write of a DW without all its byte enables. -/
def execBar0AccessError (addr : Word) (write : Bool) (dws : Nat) (s : State) : Host.Outcome State Fault Refusal :=
  finish (
    if s.power.mode = .boot ∧ pathOpen s .pcie then refuseBar0 s addr write dws
    else access s .pcie fun s => refuseBar0 s addr write dws)

/-! The service port. -/

/-- R454: where a service-port address leads. -/
inductive SpTarget
  | reg (addr : Nat)
  | bar4 (offset : Nat)
  deriving DecidableEq, Repr

/-- R454. -/
def spTarget (addr : Word) : Option SpTarget :=
  let a := addr.toNat
  if a % 4 ≠ 0 then none
  else if a < 0x2000000 then some (.reg a)
  else if 0x40000000 ≤ a ∧ a < 0x40800000 then some (.bar4 (a - 0x40000000))
  else if 0x80000000 ≤ a ∧ a < 0x80008000 then some (.reg a)
  else none

/-- The port runs: the device is not held in reset and not in Standby. -/
def spRuns (s : State) : Bool := s.power.mode == .up || s.power.mode == .sleep || s.power.mode == .boot

/-- R456: the status byte of a frame; `asleep` is how the device was when the frame began. DEDUCED (log entry 110). -/
def spStatus (s : State) (asleep done busy err : Bool) : Byte :=
  BitVec.ofNat 8 (b2n done + 2 * b2n busy + 4 * b2n err + 8 * b2n (tst (scribePeek s 0) 0) + 16 * b2n asleep)

/-- R456, R472: the status byte and the data that a frame ends with. -/
def spEnd (s : State) (asleep done busy err : Bool) (data : Word) : State :=
  modHost s fun h => { h with spLast := spStatus s asleep done busy err, spData := data }

/-- R454, R472: a frame that returns ERR. -/
def spError (s : State) (asleep : Bool) (addr : Option Word) : State :=
  let s := modHost (noteAccessErr s 3) fun h => { h with accessAddr := addr.getD h.accessAddr }
  spEnd s asleep false false true 0

/-- R472: a frame with an access. -/
def countFrame (s : State) : State := modHost s fun h => { h with spFrames := h.spFrames + 1 }

/-- R456: the read at an address has its data. -/
def spHold (s : State) (addr v : Word) : State :=
  modHost s fun h => { h with spAccess := some { addr := addr, data := v, done := true } }

/-- R454: the read of a 32-bit value at its target. One of an inkwell may have to wait for port B (R323). -/
def spGet (s : State) (addr : Word) (t : SpTarget) : State :=
  match t with
  | .reg a => let s := pathRead s .sp a; spHold s addr s.readSp
  | .bar4 o =>
    if s.power.mode = .boot then spHold s addr 0
    else if s.host.bar4.any (·.frame) then s
    else bar4Begin s .sp o 4 (some addr)

/-- R456: a pending read that has its data ends, and the frame returns them; otherwise the frame answers BUSY. -/
def spAnswer (s : State) (asleep : Bool) : State :=
  match s.host.spAccess with
  | some a =>
    if a.done then
      spEnd (setRead (modHost s fun h => { h with spAccess := none }) .sp a.data) asleep true false false a.data
    else spEnd s asleep false true false 0
  | none => spEnd s asleep false true false 0

/-- R454: the write of a 32-bit value to its target. -/
def spPut (s : State) (t : SpTarget) (v : Word) : State :=
  match t with
  | .reg a => pathWrite s .sp a v
  | .bar4 o => bar4Put s .sp o ((leBytes 4 v.toNat).map some)

/-- R453 to R456: a WRITE or QWRITE frame. -/
def spWriteFrame (s : State) (addr v : Word) : State :=
  let asleep := s.power.mode == .sleep
  if !spRuns s then s
  else if spPending s then spEnd s asleep false true false 0
  else
    match spTarget addr with
    | none => spError s asleep (some addr)
    | some t => spEnd (countFrame (spPut s t v)) asleep true false false 0

/-- R453 to R456: a READ or QREAD frame. Outside Sleep the read completes within the wait clocks; in Sleep it wakes the
device and is pending. -/
def spReadFrame (s : State) (addr : Word) : State :=
  let asleep := s.power.mode == .sleep
  if !spRuns s then s
  else if spPending s then spEnd s asleep false true false 0
  else
    match spTarget addr with
    | none => spError s asleep (some addr)
    | some t =>
      if asleep then
        spAnswer (modHost (countFrame (wakeSleep s 0x10)) fun h => { h with spAccess := some { addr := addr } }) asleep
      else spAnswer (countFrame (spGet s addr t)) asleep

/-- R456: a FETCH or QFETCH frame. -/
def spFetchFrame (s : State) : State :=
  let asleep := s.power.mode == .sleep
  if !spRuns s then s
  else
    match s.host.spAccess with
    | none => spError s asleep none
    | some _ => spAnswer s asleep

/-- R455: WRITE. -/
def execSpWrite (addr v : Word) (s : State) : Host.Outcome State Fault Refusal := finish (spWriteFrame s addr v)
/-- R455: READ. -/
def execSpRead (addr : Word) (s : State) : Host.Outcome State Fault Refusal := finish (spReadFrame s addr)
/-- R455: FETCH. -/
def execSpFetch (s : State) : Host.Outcome State Fault Refusal := finish (spFetchFrame s)
/-- R455: QWRITE. -/
def execSpQwrite (addr v : Word) (s : State) : Host.Outcome State Fault Refusal := finish (spWriteFrame s addr v)
/-- R455: QREAD. -/
def execSpQread (addr : Word) (s : State) : Host.Outcome State Fault Refusal := finish (spReadFrame s addr)
/-- R455: QFETCH. -/
def execSpQfetch (s : State) : Host.Outcome State Fault Refusal := finish (spFetchFrame s)

/-- R456: the pending read is made, and its data are held for FETCH, once port B has them. -/
def execServicePortAccessDone (s : State) : Host.Outcome State Fault Refusal :=
  finish (match s.host.spAccess with
    | some a =>
      if a.done || !spRuns s then s
      else match spTarget a.addr with
        | some t => spGet s a.addr t
        | none => s
    | none => s)

/-! JTAG (R457, R458). -/

/-- R457: the IDCODE. -/
def idcodeValue : Word := 0x173164F3

/-- The port answers: only Standby leaves it without its supply. -/
def tapRuns (s : State) : Bool := s.power.mode != .standby

/-- An instruction is in force. -/
def setScan (s : State) (code : Byte) : State := modHost s fun h => { h with scan := code }

/-- R458: EXTEST, HIGHZ and CLAMP act as BYPASS while a folio is started. DESIGN CHOICE (log entry 113). -/
def boundaryScan (s : State) (code : Byte) : State :=
  if !tapRuns s then s
  else if s.folio.started then modHost (setScan s 0xFF) fun h => { h with bscanRefused := true }
  else setScan s code

/-- R458: in a sealed device the private instructions act as BYPASS. -/
def privateScan (s : State) (code : Byte) (f : State → State) : State :=
  if !tapRuns s then s
  else if s.scribe.keyHash.isSome then modHost (setScan s 0xFF) fun h => { h with privRefused := true }
  else f (setScan s code)

/-- R457: EXTEST. -/
def execJtagExtest (s : State) : Host.Outcome State Fault Refusal := finish (boundaryScan s 0x00)
/-- R457: HIGHZ. -/
def execJtagHighz (s : State) : Host.Outcome State Fault Refusal := finish (boundaryScan s 0x03)
/-- R457: CLAMP. -/
def execJtagClamp (s : State) : Host.Outcome State Fault Refusal := finish (boundaryScan s 0x04)

/-- R457: IDCODE selects the register that holds it. -/
def execJtagIdcode (s : State) : Host.Outcome State Fault Refusal :=
  finish (if tapRuns s then modHost (setScan s 0x01) fun h => { h with idcode := idcodeValue } else s)

/-- R457: SAMPLE/PRELOAD. -/
def execJtagSamplePreload (s : State) : Host.Outcome State Fault Refusal :=
  finish (if tapRuns s then setScan s 0x02 else s)

/-- R457: BYPASS. -/
def execJtagBypass (s : State) : Host.Outcome State Fault Refusal :=
  finish (if tapRuns s then setScan s 0xFF else s)

/-- R457: QSEL. -/
def execJtagQsel (v : BitVec 4) (s : State) : Host.Outcome State Fault Refusal :=
  finish (privateScan s 0x20 fun s => modHost s fun h => { h with jtagSel := v.toFin })

/-- R241: QHALT. -/
def execQhalt (s : State) : Host.Outcome State Fault Refusal :=
  finish (privateScan s 0x21 fun s => haltQuill s s.host.jtagSel)

/-- R242: QSTEP with 1. -/
def execQstep (s : State) : Host.Outcome State Fault Refusal :=
  finish (privateScan s 0x22 fun s => stepFrozen s s.host.jtagSel)

/-- R243: QRESUME. -/
def execQresume (s : State) : Host.Outcome State Fault Refusal :=
  finish (privateScan s 0x23 fun s => resumeQuill s s.host.jtagSel)

/-- R241: QBRK writes DBG_CTRL.BRK_EN. -/
def execQbrk (on : Bool) (s : State) : Host.Outcome State Fault Refusal :=
  finish (privateScan s 0x24 fun s => modQuill s s.host.jtagSel fun x => { x with brkEn := on })

/-- R61: the device-wide debug halt stops the core clock. DEDUCED (log entry 112). -/
def haltDevice (s : State) : State :=
  if (s.power.mode = .up ∨ s.power.mode = .sleep) ∧ !s.host.dhalt then
    let s := modHost s fun h => { h with dhalt := true }
    modTime s fun t => { t with
      rulings := false, resume := false, stopped := true
      coarseStep := if t.stopped then t.coarseStep else 0 }
  else s

/-- R42, R64: the device-wide halt ends; fine counting, and with it the rulings, resumes. -/
def resumeDevice (s : State) : State :=
  if s.host.dhalt then
    let s := modHost s fun h => { h with dhalt := false }
    if s.power.mode = .up then modTime s fun t => { t with resume := true } else s
  else s

/-- R457: DHALT. -/
def execDhalt (s : State) : Host.Outcome State Fault Refusal := finish (privateScan s 0x28 haltDevice)
/-- R457: DRESUME. -/
def execDresume (s : State) : Host.Outcome State Fault Refusal := finish (privateScan s 0x29 resumeDevice)

/-- R426: TRST_N low resets the test access port: IDCODE is in force, and no quill has been selected. -/
def execTrstN (s : State) : Host.Outcome State Fault Refusal :=
  finish (modHost s fun h => { h with scan := 0x01, jtagSel := 0 })

end Sys2Proof.Machine
end

