-- ==== Sys2Proof/Machine/Scribe.lean ====
section
/-! DEFINITION. The commands of the scribe (R383 to R387) and its restart (R388). -/
namespace Sys2Proof.Machine

/-! How commands end. -/

/-- R387: BAD_FIELD, with the offset of the field. -/
def badField (s : State) (off : Nat) : State := endCmd s stBadField (detail := off)
/-- R387: BAD_STATE, with a check code. -/
def badState (s : State) (code : Nat := 0) : State := endCmd s stBadState (detail := code)
/-- R387: IMAGE, with the check code and the offset. -/
def badImage (s : State) (code off : Nat) : State := endCmd s stImage (detail := code) (r0 := BitVec.ofNat 64 off)
/-- R387: SUCCESS with a number as RESULT0. -/
def endWith (s : State) (r0 : Nat) (r1 : Nat := 0) : State :=
  endCmd s stSuccess (r0 := BitVec.ofNat 64 r0) (r1 := BitVec.ofNat 64 r1)

/-- What a command in turn does with its bytes. -/
def onHead (s : State) (op : Nat) (f : BitVec 512 → State) : Host.Outcome State Fault Refusal :=
  finish (match headFor s op with | some b => f b | none => s)

/-- The image that a command reads: as many bytes as its length names (R384). -/
def imageBytes (b : BitVec 512) (image : List Byte) : Bytes := image.take (fld (cmdArg b 1) 31 0)

/-- R387: the address at which the transfer of an image failed: it brought fewer bytes than the length names.
DEDUCED (log entry 192). -/
def imageFails (b : BitVec 512) (image : List Byte) : Option W64 :=
  if image.length < fld (cmdArg b 1) 31 0 then some (cmdArg b 0 + BitVec.ofNat 64 image.length) else none

/-- R384, R387: what a command does with the image it reads, if it can be read. -/
def withImage (s : State) (b : BitVec 512) (image : List Byte) (f : Bytes → State) : State :=
  if (noRequest s).isSome then endCmd s stNoPath
  else match imageFails b image with
    | some a => endCmd s stBusError (r0 := a)
    | none => f (imageBytes b image)

/-! Reports (R385). -/

/-- The bytes of words in order. -/
def wordBytes (l : List Word) : List Byte := l.flatMap fun w => leBytes 4 w.toNat

/-- R1, R383: RESULT0 of IDENTIFY. -/
def identity (s : State) : W64 :=
  BitVec.ofNat 64 (packFields [(16, 0x7316), (8, gradeOf s.power), (8, Config.stepping.toNat), (32, (fwVersion s).toNat)])

/-- R385: the IDENTIFY report. -/
def identifyReport (s : State) : List Byte :=
  leBytes 8 (identity s).toNat ++ leBytes 8 Config.deviceUid.toNat
    ++ wordBytes [scribeStatus s, if s.folio.loaded then s.folio.generation else 0]
    ++ leBytes 32 (s.scribe.keyHash.getD 0).toNat ++ List.replicate 8 0

/-- R383. -/
def execCmdIdentify (s : State) : Host.Outcome State Fault Refusal :=
  onHead s opIdentify fun b => endReport s (cmdArg b 0) (identifyReport s) (r0 := identity s) (r1 := Config.deviceUid)

/-- R385: the word of a spare kind: the spares provided, those no longer free, the resources retired, those free. -/
def spareWord (total retired free : Nat) : Word :=
  at_ 0 total ||| at_ 8 (total - min total free) ||| at_ 16 (min 255 retired) ||| at_ 24 free

/-- How many of the numbers below `n` fit. -/
def countBelow (n : Nat) (f : Nat → Bool) : Nat := ((List.range n).filter f).length

/-- R385: the six spare kinds. DEDUCED (log entry 98). -/
def spareWords (s : State) : List Word :=
  let k := s.pool
  let mapped : BitVec 68 := s.ink.banks.toList.foldl (fun m x => match x.phys with | some p => m ||| (1#68 <<< p) | none => m) 0
  let cells : BitVec 512 := s.nibs.toList.foldl (fun m x => m ||| (1#512 <<< x.cell)) 0
  let ces : BitVec 544 := k.ceMap.toList.foldl (fun m c => m ||| (1#544 <<< c.val)) 0
  let pop (n : Nat) {w : Nat} (v : BitVec w) : Nat := countBelow n fun i => tst v i
  [spareWord 4 (((indices 20).filter fun (p : PhysIx) => k.roles[p] == .retired).length)
      (((indices 20).filter fun (p : PhysIx) => isSpare k.roles[p]).length),
   spareWord 4 (pop 68 s.ink.retired) (countBelow 68 fun p => !tst s.ink.retired p && !tst mapped p),
   spareWord 16 (pop 272 k.retiredCells) (countBelow 272 fun c => !tst k.retiredCells c && !tst cells c),
   spareWord 32 (pop 544 k.retiredCes) (countBelow 544 fun c => !tst k.retiredCes c && !tst ces c),
   spareWord 1 (pop 2 k.retiredConverters) (b2n (!s.adc.spareActive && !s.adc.spareGone)),
   spareWord 1 (pop 2 k.retiredPlls) (b2n (!tst k.retiredPlls (1 - activePll k)))]

/-- R385: the byte of a physical quill. -/
def roleByte (s : State) (p : PhysIx) : Byte :=
  match s.pool.roles[p] with
  | .logical q => BitVec.ofNat 8 (q.val + 16 * (if s.quills[q].active then 0 else 5))
  | .proofreader (some q) => BitVec.ofNat 8 (q.val + 16)
  | .proofreader none => 0x1F
  | .standby => 0x2F
  | .reserved => 0x3F
  | .retired => 0x4F

/-- R385: the GET_HEALTH report. -/
def healthReport (s : State) : List Byte :=
  wordBytes ([healthSummary s, 0, timePeek s 0x10, timePeek s 0x14, timePeek s 0x18, timePeek s 0x1C] ++ spareWords s)
    ++ ((indices 20).map (roleByte s))
    ++ wordBytes [inkctlPeek s 0x0C, ledgerWord s.ink, readSyncStatus s.time.sync, at_ 0 s.scribe.restarts.toNat]
    ++ List.replicate 44 0

/-- R385. -/
def execCmdGetHealth (s : State) : Host.Outcome State Fault Refusal :=
  onHead s opGetHealth fun b =>
    endReport s (cmdArg b 0) (healthReport s) (r0 := (healthSummary s).zeroExtend 64) (r1 := s.time.frame)

/-- R384, R385: READ_UNIT_DIR. -/
def readUnitDir (s : State) (b : BitVec 512) : State :=
  let first := fld (cmdArg b 1) 11 0
  let count := fld (cmdArg b 1) 28 16
  if count = 0 ∨ 4096 < first + count then badField s 0x10
  else
    let us := (List.range count).map fun i => first + i
    let bytes := us.flatMap fun u => wordBytes ((List.range 8).map (directoryWord s u))
    endReport s (cmdArg b 0) bytes
      (r0 := BitVec.ofNat 64 (us.filter fun u => (findUnit s.folio.units u).isSome).length)

/-- R384. -/
def execCmdReadUnitDir (s : State) : Host.Outcome State Fault Refusal := onHead s opReadUnitDir (readUnitDir s)

/-- R385: a ledger entry. -/
def ledgerBytes (e : LedgerEntry) : List Byte :=
  leBytes 1 e.kind ++ leBytes 1 e.cause ++ leBytes 2 e.index ++ leBytes 2 e.place ++ [0, 0]

/-- R385: the REPAIR_STATUS report. -/
def repairReport (s : State) : List Byte :=
  wordBytes [ledgerWord s.ink, coldWord s.ink, 0, 0]
    ++ (List.range 128).flatMap fun i => match s.ink.ledger[i]? with
      | some e => ledgerBytes e
      | none => List.replicate 8 0

/-- R385. -/
def execCmdRepairStatus (s : State) : Host.Outcome State Fault Refusal :=
  onHead s opRepairStatus fun b => endReport s (cmdArg b 0) (repairReport s)
    (r0 := (ledgerWord s.ink).zeroExtend 64) (r1 := (coldWord s.ink).zeroExtend 64)

/-- R384: SNAPSHOT waits for the next tick. -/
def execCmdSnapshot (s : State) : Host.Outcome State Fault Refusal :=
  onHead s opSnapshot fun _ => modScribe (setHeadPhase s .started) fun c => { c with snapDue := true }

/-! Folios, START and STOP_TO_SAFE (R293, R295, R384). -/

/-- R293, R384: LOAD_FOLIO. -/
def loadFolio (s : State) (b : BitVec 512) (image : List Byte) : State :=
  if s.folio.started then badState s
  else withImage s b image fun bytes =>
    match checkImage s bytes true false with
    | some (code, off) => badImage s code off
    | none =>
      match loadImage s (imageOf bytes) with
      | (t, some off) => badImage t 0x0F off
      | (t, none) => endWith t t.folio.generation.toNat

/-- R293. -/
def execCmdLoadFolio (image : List Byte) (s : State) : Host.Outcome State Fault Refusal :=
  onHead s opLoadFolio fun b => loadFolio s b image

/-- R295, R384: VERIFY_FOLIO. -/
def verifyFolio (s : State) (b : BitVec 512) (image : List Byte) : State :=
  withImage s b image fun bytes =>
    match checkImage s bytes true true with
    | some (code, off) => badImage s code off
    | none => endCmd s stSuccess

/-- R295. -/
def execCmdVerifyFolio (image : List Byte) (s : State) : Host.Outcome State Fault Refusal :=
  onHead s opVerifyFolio fun b => verifyFolio s b image

/-- R384: the frame of the first tick whose commit point a command that starts now precedes. -/
def firstFrame (s : State) : W64 :=
  if s.time.cycle + 32 < s.time.period then comingFrame s else comingFrame s + 1

/-- R384: a frame lies within 60 s of the present one at the ruling in force. -/
def within60s (s : State) (f : W64) : Bool := (f - s.time.frame).toNat * s.time.period ≤ 60000000000

/-- R384: START. -/
def startCommand (s : State) (b : BitVec 512) : State :=
  let f := if cmdArg b 0 = 0 then firstFrame s else cmdArg b 0
  if !s.folio.loaded || s.folio.started || s.scribe.stoppedSafe then badState s
  else if isFollower s && s.time.sync.state != .locked then endCmd s stSync (detail := s.time.sync.state.code)
  else if precedes f (firstFrame s) then endCmd s stLate
  else if !within60s s f then badField s 8
  else match startOwners s with
    | some off => badImage s 0x09 off
    | none => modFolio (setHeadPhase s .started) fun k => { k with startAt := some f }

/-- R384, R434: START, which waits for the calibration after a wake. -/
def execCmdStart (s : State) : Host.Outcome State Fault Refusal :=
  onHead s opStart fun b => if s.power.calibrating = 0 then startCommand s b else s

/-- R384: STOP_TO_SAFE acts at the next tick; its commit point is its start. -/
def execCmdStopToSafe (s : State) : Host.Outcome State Fault Refusal :=
  onHead s opStopToSafe fun _ => modScribe (setHeadPhase s .committed) fun c => { c with stopDue := true }

/-! Leaves and changeovers (R297 to R304, R384). -/

/-- R297, R384: STAGE_LEAF. -/
def stageCommand (s : State) (b : BitVec 512) (image : List Byte) : State :=
  if s.scribe.stoppedSafe then badState s
  else withImage s b image fun bytes =>
    match checkImage s bytes false true with
    | some (code, off) => badImage s code off
    | none =>
      match stageLeaf s bytes with
      | (t, some (code, off)) => badImage t code off
      | (t, none) => endWith t (imgLeaf bytes + 2 ^ 32 * (imgGeneration bytes).toNat)

/-- R297. -/
def execCmdStageLeaf (image : List Byte) (s : State) : Host.Outcome State Fault Refusal :=
  onHead s opStageLeaf fun b => stageCommand s b image

/-- R298, R384: DISCARD_STAGED. -/
def discardStaged (s : State) : State :=
  if stagingBusy s then badState s 0x1B
  else endWith (releaseStaged s fun _ => true) s.co.staged.length

/-- R298. -/
def execCmdDiscardStaged (s : State) : Host.Outcome State Fault Refusal :=
  onHead s opDiscardStaged fun _ => discardStaged s

/-- The frame in which a command acts: in the cycle of a tick, that of the tick. -/
def frameNow (s : State) : W64 := if tickDue s then comingFrame s else s.time.frame

/-- R302, R384: the first field of a CHANGEOVER that is wrong. -/
def changeoverField (s : State) (b : BitVec 512) : Option Nat :=
  let trig := fld (cmdArg b 0) 1 0
  let x := cmdArg b 3
  let angleBad := fld (cmdArg b 0) 7 6 == 3
    || (syncRole s.time.sync.ctrl != 0 && (stagedPeriod s).any fun p => p != s.time.period)
  if trig = 0 ∨ trig = 3 ∨ (trig = 2 ∧ angleBad) then some 8
  else if !precedes (frameNow s) x || !within60s s x then some 0x20
  else none

/-- R302, R303: the trigger is armed. -/
def armTrigger (s : State) (b : BitVec 512) : State :=
  let a := cmdArg b 0
  let angle := fld a 1 0 == 2
  modCo (setHeadPhase s .started) fun c => { c with
    trigger := some (if angle then .angle (Fin.ofNat 16 (fld a 5 2)) (BitVec.ofNat 32 (fld (cmdArg b 1) 31 0))
      else .frame (cmdArg b 2))
    phase := .armed
    earliest := if angle then cmdArg b 2 else 0
    dir := if angle then BitVec.ofNat 2 (fld a 7 6) else 0
    expire := cmdArg b 3, armedIn := frameNow s, last := none }

/-- R301 to R303, R384: CHANGEOVER. -/
def changeoverCommand (s : State) (b : BitVec 512) : State :=
  if s.co.staged.isEmpty then badState s
  else match changeoverField s b with
    | some off => badField s off
    | none =>
      if s.co.staged.any (·.unready) then
        endCmd (disarm s .unready) stUnready (detail := CoOutcome.unready.code)
      else if fld (cmdArg b 0) 1 0 = 1 ∧ precedes (cmdArg b 2) (firstFrame s) then
        endCmd (disarm s .late) stLate (detail := CoOutcome.late.code)
      else armTrigger s b

/-- R302. -/
def execCmdChangeover (s : State) : Host.Outcome State Fault Refusal :=
  onHead s opChangeover (changeoverCommand s)

/-! MARCH (R327, R384). -/

/-- R384: MARCH OP 1. A bank that holds a staged load state is lost to its leaf (R301). -/
def marchDestroy (s : State) (b : BitVec 512) : State :=
  let bank : InkIx := Fin.ofNat 64 (fld (cmdArg b 0) 13 8)
  if s.ink.banks[bank].owner.kind != .none then badState s
  else
    let held (l : StagedLeaf) : Bool := l.banks.any fun x => s.ink.banks[bank].phys == some x.2
    let s := if s.co.staged.any held then leafUnready s held else s
    let s := forAll (s.co.copies.filter fun c => c.bank == bank || s.ink.banks[bank].phys == some c.source) s fun s c =>
      forAll c.words s fun s w => carryWord s c.bank w true
    destroyBegin (setHeadPhase s .committed) bank

/-- R383: the operation of a MARCH; one that is neither 1 nor 2 is a wrong field. -/
def marchCommand (s : State) (b : BitVec 512) (op : Nat) (f : State) : State :=
  let o := fld (cmdArg b 0) 1 0
  if o = op then f else if o = 1 ∨ o = 2 then s else badField s 8

/-- R327. -/
def execCmdMarchDestroy (s : State) : Host.Outcome State Fault Refusal :=
  onHead s opMarch fun b => marchCommand s b 1 (marchDestroy s b)

/-- R383: MARCH OP 2. -/
def execCmdMarchSetCtrl (s : State) : Host.Outcome State Fault Refusal :=
  onHead s opMarch fun b =>
    let v : Word := BitVec.ofNat 32 (fld (cmdArg b 1) 31 0)
    marchCommand s b 2 (endCmd (modMarch s fun m => { m with ctrl := v &&& 0xFFFF0007 }) stSuccess)

/-- R327, R383: a destroying test completes, and with it the MARCH that asked for it. The number of words that failed
is open. DESIGN CHOICE (log entry 16). -/
def destroyingTestDone (s : State) (pass : Bool) : State :=
  let named := s.ink.march.destroying.isSome
  let words := if pass then 0 else Config.failedWords s.free
  let s := destroyEnds (if pass then s else drawFree s) pass
  if named && headPhase s opMarch == some .committed then
    endCmd s stSuccess (r0 := words) (r1 := BitVec.ofNat 64 (b2n (!pass && !(freeBanks s).isEmpty)))
  else s

/-- R327. -/
def execDestroyingTestDone (pass : Bool) (s : State) : Host.Outcome State Fault Refusal :=
  finish (if destroyOver s then destroyingTestDone s pass else s)

/-! RETIRE_RESOURCE (R384, R410). -/

/-- What RETIRE_RESOURCE comes to: the logical index affected, no spare, or a wrong index. -/
inductive Retired | affects (i : Nat) | noSpare | badIndex
  deriving DecidableEq, Repr

/-- No logical resource is affected. -/
def noLogical : Retired := .affects 0xFFFF

/-- R410: an idle physical quill is retired without a takeover; the logical quill it was to serve has a standby from now
on, with what its store held. DEDUCED (log entry 195). -/
def retireIdleQuill (s : State) (q : QuillIx) (p target : PhysIx) : State :=
  let s := modQuill s q fun x => { x with phys := target, store := target, moves := x.moves + 1 }
  let s := setRole { s with stores := s.stores.set target s.stores[p] } target (.logical q)
  retirePhys s p 3 0xFFF

/-- R410, R411: a physical quill. One that serves an active quill goes through its move; an idle one and a spare are
retired at once, the spare out of a vote that it takes part in. -/
def retireQuill (s : State) (p : PhysIx) : State × Retired :=
  match s.pool.moves.find? fun m => m.source == p with
  | some m => (s, .affects m.quill)
  | none =>
    match s.pool.roles[p] with
    | .retired => (s, noLogical)
    | .logical q =>
      if (s.pool.moveWanted.any fun y => y.1 == q) then (s, .affects q)
      else if (freeStandbys s.pool).length ≤ s.pool.moveWanted.length then (s, .noSpare)
      else match (freeStandbys s.pool).head?.filter fun _ => !s.quills[q].active && s.quills[q].store == p with
      | some target => (retireIdleQuill s q p target, .affects q)
      | none => (modPool s fun k => { k with moveWanted := k.moveWanted ++ [(q, 3)] }, .affects q)
    | _ =>
      let s := modPool s fun k => { k with votes := k.votes.filter fun v => v.proof != p && v.standby != p }
      let s := leafUnready s fun l => l.programs.any fun x => x.2.phys == some p
      (retirePhys s p 3 0xFFF, noLogical)

/-- R330, R331: a migration to a bank that is retired waits for another target. -/
def dropTarget (s : State) (p : Nat) : State :=
  match s.ink.migration with
  | some g => if g.target = p then
      modInk s fun k => { k with migration := none, waiting := (g.bank, g.cause) :: k.waiting } else s
  | none => s

/-- R326, R330: the march test of a bank that is retired ends. -/
def dropTest (s : State) (p : Nat) : State :=
  if s.ink.march.freeTesting = some p then modMarch s fun m => { m with phase := .idle, freeTesting := none } else s

/-- R330: a physical bank that serves no logical bank is retired at once. -/
def retireIdleBank (s : State) (p : Nat) : State :=
  reviewBanks (reviewStaged (dropTest (dropTarget (retireBank s p 3 0) p) p))

/-- R330: a physical bank. One that serves a logical bank migrates. -/
def retireInkBank (s : State) (p : Nat) : State × Retired :=
  if tst s.ink.retired p then (s, noLogical)
  else match mappedTo s p with
    | some b =>
      if (freeBanks s).isEmpty && (s.co.staged.flatMap (·.banks)).isEmpty then (s, .noSpare)
      else (wantMigration s b 3, .affects b)
    | none => (retireIdleBank s p, noLogical)

/-- R413: a nib cell is marked retired, with its ledger entry. -/
def noteCell (s : State) (c : Nat) : State :=
  addLedger (modPool s fun k => { k with retiredCells := setBit k.retiredCells c true }) 3 c 3 0

/-- R136: a nib cell. -/
def retireCell (s : State) (c : Nat) : State × Retired :=
  if tst s.pool.retiredCells c then (s, noLogical)
  else
    match (indices 256).find? fun (n : NibIx) => s.nibs[n].cell == c with
    | some n =>
      if (freeCells s).length ≤ s.nibs.toList.countP (·.moveWanted) then (s, .noSpare)
      else (modNib (noteCell s c) n fun x => { x with moveWanted := true }, .affects n)
    | none =>
      let s := noteCell s c
      (noteExhausted s 2 (freeCell s).isNone, noLogical)

/-- R413: a counter element is marked retired, with its ledger entry. -/
def noteCe (s : State) (c : Fin 544) : State :=
  addLedger (modPool s fun k => { k with retiredCes := setBit k.retiredCes c true }) 4 c 3 0

/-- R410: a physical counter element. -/
def retireCe (s : State) (c : Fin 544) : State × Retired :=
  if tst s.pool.retiredCes c then (s, noLogical)
  else
    match (indices 512).find? fun (e : CeIx) => s.pool.ceMap[e] == c with
    | some e =>
      if (freeCes s).length ≤ s.counters.toList.countP (·.takeover) then (s, .noSpare)
      else (modCe (noteCe s c) e fun x => { x with takeover := true }, .affects e)
    | none =>
      let s := noteCe s c
      (noteExhausted s 3 (freeCe s).isNone, noLogical)

/-- R202, R410: a converter: 0 the main one, 1 the spare. -/
def retireConverter (s : State) (i : Nat) : State × Retired :=
  let active := b2n s.adc.spareActive
  if tst s.pool.retiredConverters i then (s, noLogical)
  else if i = active then
    if s.adc.spareActive || s.adc.spareGone then (s, .noSpare)
    else
      let s := modAdc s fun a => { a with spareActive := true }
      let s := addLedger (modPool s fun k => { k with retiredConverters := setBit k.retiredConverters i true }) 5 i 3 0
      (noteExhausted (raiseFault (raiseAdcEvent s 1) 25 (unitNo s .converter 0)) 4 true, .affects 0)
  else
    let s := modAdc s fun a => { a with spareGone := true }
    let s := addLedger (modPool s fun k => { k with retiredConverters := setBit k.retiredConverters i true }) 5 i 3 0
    (noteExhausted s 4 true, noLogical)

/-- R410, R424: a PLL. -/
def retirePll (s : State) (i : Nat) : State × Retired :=
  if tst s.pool.retiredPlls i then (s, noLogical)
  else if i = activePll s.pool then
    if sparePllLocked s.pool then (swapPll s 3, .affects 0) else (s, .noSpare)
  else
    let s := modPool s fun k => { k with
      retiredPlls := setBit k.retiredPlls i true, pllLock := setBit k.pllLock i false }
    (noteExhausted (addLedger s 6 i 3 0) 5 true, noLogical)

/-- R384: the resource of a KIND and physical index. -/
def retireResource (s : State) (kind i : Nat) : State × Retired :=
  match kind with
  | 1 => if h : i < 20 then retireQuill s ⟨i, h⟩ else (s, .badIndex)
  | 2 => if i < 68 then retireInkBank s i else (s, .badIndex)
  | 3 => if i < 272 then retireCell s i else (s, .badIndex)
  | 4 => if h : i < 544 then retireCe s ⟨i, h⟩ else (s, .badIndex)
  | 5 => if i < 2 then retireConverter s i else (s, .badIndex)
  | 6 => if i < 2 then retirePll s i else (s, .badIndex)
  | _ => (s, .badIndex)

/-- R384: RETIRE_RESOURCE. -/
def retireCommand (s : State) (b : BitVec 512) : State :=
  let kind := fld (cmdArg b 0) 7 0
  match retireResource s kind (fld (cmdArg b 0) 23 8) with
  | (t, .affects i) => endWith t i
  | (_, .noSpare) => endCmd s stNoSpare (detail := kind)
  | (_, .badIndex) => badField s 8

/-- R384. -/
def execCmdRetireResource (s : State) : Host.Outcome State Fault Refusal := onHead s opRetireResource (retireCommand s)

/-! INJECT_FAULT and ACK_FAULT (R400, R414). -/

/-- R414: how many instances a checker has. -/
def checkerInstances : Nat → Nat
  | 1 => 64 | 2 => 16 | 3 => 17 | 4 => 6 | _ => 0

/-- R414: INJECT_FAULT. -/
def injectCommand (s : State) (b : BitVec 512) : State :=
  let checker := fld (cmdArg b 0) 3 0
  let inst := fld (cmdArg b 0) 31 16
  let n : BitVec 16 := BitVec.ofNat 16 (fld (cmdArg b 1) 15 0)
  if checkerInstances checker ≤ inst then badField s 8
  else if n = 0 then badField s 0x10
  else
    let s := modBlotter s fun y => { y with inj := { y.inj with
      checker := checker, inst := inst, total := n, remaining := n, hits := 0, active := true, collide := false } }
    endCmd s stSuccess

/-- R414. -/
def execCmdInjectFault (s : State) : Host.Outcome State Fault Refusal := onHead s opInjectFault (injectCommand s)

/-- R400: ACK_FAULT; a class out of fault is not counted. -/
def ackCommand (s : State) (b : BitVec 512) : State :=
  let src := fld (cmdArg b 0) 7 0
  let all := tst (cmdArg b 0) 8
  let classes := if all then indices 32 else [classOf src]
  endWith (acknowledge s src all) (classes.filter fun (c : ClassIx) => s.blotter.classes[c].level != 0).length

/-- R400. -/
def execCmdAckFault (s : State) : Host.Outcome State Fault Refusal := onHead s opAckFault (ackCommand s)

/-! Restarts and patches (R386, R388, R404). -/

/-- R388: what the journal keeps of the command in progress: before its commit point it is undone and completes with
RESTART; after it, it is carried on. -/
def journal (s : State) : State :=
  match s.scribe.queue with
  | [] => s
  | e :: _ =>
    match e.phase with
    | .waiting => s
    | .started => modEntry (undoCmd s (cmdOpcode (e.bytes.getD 0))) e.seq fun e => { e with lost := true }
    | .committed => modEntry s e.seq fun e => { e with restarted := true }

/-- R388: the scribe restarts. -/
def restartScribe (s : State) : State := if s.scribe.restarting then s else beginRestart (journal s)

/-- R404, R429: a lockstep mismatch; during the scribe's start it stops the start. -/
def execScribeLockstepMismatch (s : State) : Host.Outcome State Fault Refusal :=
  finish (match s.power.mode with
    | .up => restartScribe (raiseFault s 8)
    | .boot => if s.power.stage = 3 ∧ s.power.error = 0 then modPower s fun p => { p with error := 5 } else s
    | _ => s)

/-- R404: the watchdog of the scribe expires. -/
def execScribeWdog (s : State) : Host.Outcome State Fault Refusal :=
  finish (if s.power.mode = .up then
      let s := modBlotter s fun b => { b with wdog := satAdd b.wdog 1, wdogExpired := true }
      restartScribe (raiseFault s 9)
    else s)

/-- R386, R388: the restarted scribe takes up its journal: a command lost before its commit point, or the LOAD_PATCH
that asked for the restart, completes. -/
def resumeJournal (s : State) : State :=
  match s.scribe.queue with
  | [] => s
  | e :: _ =>
    if e.lost then completeHead s stRestart
    else if headPhase s opLoadPatch = some .committed then
      completeHead s stSuccess (r0 := (fwVersion s).zeroExtend 64)
    else s

/-- R388: the restart is over. -/
def restartDone (s : State) : State :=
  let s := modScribe s fun c => { c with restarting := false, restarts := satAdd c.restarts 1, notice := true }
  let s := modBlotter s fun b => { b with wdogExpired := false }
  scribeTurn (releaseHeld (actAborts (resumeJournal (pushCause s 3))))

/-- R388. What it lets act in cycle 0 of a tick comes after the commit of that tick (R312, R382). -/
def execScribeRestart (s : State) : Host.Outcome State Fault Refusal :=
  finish (if s.scribe.restarting && s.power.mode == .up then restartDone (afterTick s) else s)

/-- R386: the first check of a patch that fails. -/
def patchCheck (s : State) (length : Nat) (b : Bytes) : Option Nat :=
  let n := u32 b 0x0C
  let level := u16 b 0x08
  let key := (uN 32 b 0x30, uN 32 b 0x50)
  let fields := u32 b 0 == 0x54504B53 && u16 b 4 == 1 && u16 b 6 == Config.romVersion.toNat
    && 1 ≤ level && s.scribe.patch.toNat ≤ level && u16 b 0x0A == 0
    && n % 16 == 0 && 16 ≤ n && n ≤ 32768 && 0xB0 + n == length && b.length == length
  if !fields then some 1
  else if sha256 ((b.drop 0x30).take 64) != hashBytes Config.ilyonKeyHash then some 2
  else if sha256 (b.drop 0xB0) != (b.drop 0x10).take 32 then some 3
  else if !ecdsaVerify key (beNat (sha256 (b.take 0x70))) (uN 32 b 0x70) (uN 32 b 0x90) then some 4
  else none

/-- R386: LOAD_PATCH. -/
def loadPatch (s : State) (b : BitVec 512) (image : List Byte) : State :=
  withImage s b image fun bytes =>
    match patchCheck s (fld (cmdArg b 1) 31 0) bytes with
    | some n => endCmd s stAuth (detail := n)
    | none =>
      let s := modScribe s fun c => { c with
        patch := BitVec.ofNat 16 (u16 bytes 0x08)
        patchDigest := BitVec.ofNat 64 (u64 bytes 0x10) }
      beginRestart (setHeadPhase s .committed)

/-- R386. -/
def execCmdLoadPatch (image : List Byte) (s : State) : Host.Outcome State Fault Refusal :=
  onHead s opLoadPatch fun b => loadPatch s b image

/-- R383: PATCH_STATUS. -/
def execCmdPatchStatus (s : State) : Host.Outcome State Fault Refusal :=
  onHead s opPatchStatus fun _ =>
    endCmd s stSuccess (r0 := (fwVersion s).zeroExtend 64) (r1 := s.scribe.patchDigest)

/-! TB_SET and TB_TRIM (R36, R37, R384). -/

/-- R36, R384: TB_SET. -/
def tbSetCommand (s : State) (b : BitVec 512) : State :=
  if s.folio.started then badState s
  else if isFollower s then endCmd s stSync (detail := s.time.sync.state.code)
  else modTime (setHeadPhase s .started) fun t => { t with tbSet := some (cmdArg b 0, cmdArg b 1) }

/-- R36. -/
def execCmdTbSet (s : State) : Host.Outcome State Fault Refusal := onHead s opTbSet (tbSetCommand s)

/-- R384: TB_TRIM. The trim applies at the next tick; the final one is written once the duration has passed after it.
DEDUCED (log entry 29). -/
def tbTrimCommand (s : State) (b : BitVec 512) : State :=
  let word (i : Nat) : Word := BitVec.ofNat 32 (fld (cmdArg b i) 31 0)
  let ms := (word 1).toNat
  let tick := s.time.tb + BitVec.ofNat 64 (s.time.period - s.time.cycle)
  let s := writeTrim (setHeadPhase s .committed) (word 0)
  modTime s fun t => { t with
    trimFinal := if ms = 0 then none else some (tick + BitVec.ofNat 64 (1000000 * ms), word 2) }

/-- R384. -/
def execCmdTbTrim (s : State) : Host.Outcome State Fault Refusal := onHead s opTbTrim (tbTrimCommand s)

/-! SLEEP, STANDBY and KEY_ENROLL (R384, R434 to R436). -/

/-- R384, R434: SLEEP. -/
def sleepCommand (s : State) (b : BitVec 512) : State :=
  if s.folio.started || !s.power.lfOk then badState s
  else
    let s := modScribe s fun c => { c with entry := some false, wakeSel := BitVec.ofNat 4 (fld (cmdArg b 0) 3 0) }
    endCmd s stSuccess

/-- R434. -/
def execCmdSleep (s : State) : Host.Outcome State Fault Refusal := onHead s opSleep (sleepCommand s)

/-- R435, R438: the keepsake is read from host memory; its words are open. DESIGN CHOICE (log entry 18). -/
def readKeepsake (s : State) : State :=
  let words : Vector Word 64 := Vector.ofFn fun (i : Fin 64) => Config.hostWord (s.free + i.val)
  let s := modPower s fun p => { p with island := { p.island with keep := words, keepValid := true } }
  { s with free := s.free + 64 }

/-- R384, R435: STANDBY. -/
def standbyCommand (s : State) (b : BitVec 512) : State :=
  let addr := cmdArg b 0
  if s.folio.started || !s.power.lfOk || !s.power.vbatOk then badState s
  else if addr ≠ 0 ∧ (noRequest s).isSome then endCmd s stBusError (r0 := addr)
  else
    let s := if addr = 0 then s else readKeepsake s
    let s := modScribe s fun c => { c with entry := some true, wakeSel := BitVec.ofNat 4 (fld (cmdArg b 1) 3 0) }
    endCmd s stSuccess

/-- R435. -/
def execCmdStandby (s : State) : Host.Outcome State Fault Refusal := onHead s opStandby (standbyCommand s)

/-- R384: KEY_ENROLL. DEDUCED (log entry 99). -/
def enrollCommand (s : State) (b : BitVec 512) (key : BitVec 512) : State :=
  let hash := sha256 (leBytes 64 key.toNat)
  if s.scribe.keyHash.isSome then endCmd s stDenied
  else if cmdArg b 1 ≠ 0x5345414C then badField s 0x10
  else if (noRequest s).isSome then endCmd s stBusError (r0 := cmdArg b 0)
  else if !onCurve (fld key 255 0) (fld key 511 256) then badField s 8
  else
    let s := modScribe s fun c => { c with keyHash := some (BitVec.ofNat 256 (leNat hash)) }
    endWith s (leNat (hash.take 8))

/-- R384. -/
def execCmdKeyEnroll (key : BitVec 512) (s : State) : Host.Outcome State Fault Refusal :=
  onHead s opKeyEnroll fun b => enrollCommand s b key

/-- R379, R382: in cycle 0 of a tick, an entry is fetched, and an ABORT acts, after the commit of that tick (R312). -/
def execCommandFetch (entry : BitVec 512) (s : State) : Host.Outcome State Fault Refusal :=
  finish (if s.power.mode = .up then fetchCommand (afterTick s) entry else s)

/-- R382: ABORT acts when it is fetched, and completes in its own place. -/
def execCmdAbort (s : State) : Host.Outcome State Fault Refusal :=
  finish (if s.power.mode = .up then
      let s := afterTick s
      scribeTurn (actAborts s)
    else s)

end Sys2Proof.Machine
end

