-- ==== Sys2Proof/Machine/Clock.lean ====
section
/-! DEFINITION. The device's own clock: the command that is due in the present core cycle of itself, and what a core
cycle that passes brings. A step on an empty queue runs the one, or else lets the other pass (log entry 1). -/
namespace Sys2Proof.Machine

/-! Quills (R212, R232). -/

/-- R219: the command of an ALU operation. -/
def aluCommand (q : QuillIx) (x : AluSlot) : AluOp → Option Instr
  | .nop => none
  | .mov => some (.aluMov q x) | .add => some (.aluAdd q x) | .sub => some (.aluSub q x)
  | .neg => some (.aluNeg q x) | .abs => some (.aluAbs q x) | .adds => some (.aluAdds q x)
  | .subs => some (.aluSubs q x) | .and => some (.aluAnd q x) | .or => some (.aluOr q x)
  | .xor => some (.aluXor q x) | .andn => some (.aluAndn q x) | .not => some (.aluNot q x)
  | .min => some (.aluMin q x) | .max => some (.aluMax q x) | .minu => some (.aluMinu q x)
  | .maxu => some (.aluMaxu q x) | .shl => some (.aluShl q x) | .shr => some (.aluShr q x)
  | .sar => some (.aluSar q x) | .rol => some (.aluRol q x) | .ror => some (.aluRor q x)
  | .cmp => some (.aluCmp q x) | .tst => some (.aluTst q x) | .clz => some (.aluClz q x)
  | .popc => some (.aluPopc q x) | .bfx => some (.aluBfx q x) | .bfi => some (.aluBfi q x)
  | .zext => some (.aluZext q x) | .sext => some (.aluSext q x) | .splat => some (.aluSplat q x)
  | .lrot => some (.aluLrot q x)

/-- R222: the command of an MOP field. -/
def mulCommand (q : QuillIx) : Nat → Option Instr
  | 1 => some (.mulU q) | 2 => some (.mulS q) | 3 => some (.mul2u q) | 4 => some (.mul2s q) | 5 => some (.mulQs q)
  | 8 => some (.divU q) | 9 => some (.divS q) | 10 => some (.divUf q)
  | _ => none

/-- R225: the commands of an IOP field. -/
def readCommand (q : QuillIx) : Nat → Option Instr
  | 1 => some (.inkRd q) | 2 => some (.inkRdx q) | _ => none
def writeCommand (q : QuillIx) : Nat → Option Instr
  | 1 => some (.inkWr q) | 2 => some (.inkWrx q) | 3 => some (.inkWrb q) | _ => none

/-- R227: the command of an EOP field. -/
def eventCommand (q : QuillIx) : Nat → Option Instr
  | 1 => some (.evpPop q) | 2 => some (.evpPeek q) | 3 => some (.evpCount q) | 4 => some (.evpPred q) | _ => none

/-- R228: the command of a COP field. -/
def commitCommand (q : QuillIx) : Nat → Option Instr
  | 1 => some (.cmtStroke q) | 2 => some (.cmtRegw q) | 3 => some (.cmtVpos q) | 4 => some (.cmtVdyn q)
  | 5 => some (.cmtSignal q) | _ => none

/-- R214: the command of a SEQ field. -/
def seqCommand (q : QuillIx) : Nat → Instr
  | 0x1 => .seqJmp q | 0x2 => .seqJt q | 0x3 => .seqJf q | 0x4 => .seqCall q | 0x5 => .seqCallt q | 0x6 => .seqRet q
  | 0x7 => .seqRett q | 0x8 => .seqLoop0 q | 0x9 => .seqLoop1 q | 0xA => .seqDispatch q | 0xB => .seqYield q
  | 0xC => .seqYieldt q | 0xD => .seqLdlc q | 0xE => .seqLdlcr q | 0xF => .seqBreak q
  | _ => .seqNext q

/-- R212: the commands of a word's slots, the sequencer's last. -/
def wordCommands (q : QuillIx) (m : Micro) : List (Slot × Option Instr) :=
  [(.aluA, (aluOpOf m.aop).bind (aluCommand q .a)), (.aluB, (aluOpOf m.bop).bind (aluCommand q .b)),
   (.mul, mulCommand q m.mop.toNat), (.inkRead, readCommand q (readField m)),
   (.inkWrite, writeCommand q (writeField m)), (.event, eventCommand q m.eop.toNat),
   (.commit, commitCommand q m.cop.toNat), (.seq, some (seqCommand q m.seq.toNat))]

/-- R208, R232: what a quill's word in the present cycle does next: its slots in order, then the end of the cycle. -/
def quillCommand (s : State) (q : QuillIx) : Option Instr :=
  if budgetOver s q then some (.budgetExpiry q)
  else if !computesNow s q then none
  else
    let d := s.quills[q].engine.done
    if d.contains .seq then some (.resultWriteback q)
    else match fetchedWord (fetch s q) with
      | none => some (.seqNext q)
      | some w => (wordCommands q (microOf w)).findSome? fun c => if d.contains c.1 then none else c.2

/-! Nibs. -/

/-- R111: the command of an action. -/
def actionCommand (n : NibIx) (k : SlotIx) : Action → Option Instr
  | .set => some (.strokeSet n k) | .clear => some (.strokeClear n k) | .toggle => some (.strokeToggle n k)
  | .float => some (.strokeFloat n k) | .pulse => some (.strokePulse n k) | .pulseLow => some (.strokePulseLow n k)
  | .pulseAngle => some (.strokePulseAngle n k) | .burst => some (.strokeBurst n k)
  | .pwmLoad => some (.strokePwmLoad n k) | .patternStart => some (.strokePatternStart n k)
  | .patternStop => some (.strokePatternStop n k) | .captureArm => some (.strokeCaptureArm n k)
  | .reflexArm => some (.strokeReflexArm n k) | .safe => some (.strokeSafe n k)
  | .nop | .cancel => none

/-- R118, R132, R140: what a nib places next, if its time has come. -/
def outCommand (s : State) (n : NibIx) : Option Instr :=
  let x := s.nibs[n]
  match nextOut x with
  | none => none
  | some (e, t) =>
    if !dueNow s t then none
    else match e with
      | .slot k => (getSlot x k).bind fun v =>
        if v.placed.isSome then some (if isEndEdge v then .pulseEndEdge n k else .burstEdge n k)
        else (strokeAction v.raw).bind (actionCommand n k)
      | .bit => some (.patternBit n)
      | .reflexEnd => x.reflexEnd.map fun r => .reflexPulseEnd r.2.1

/-- The output side of a nib (R118, R131, R132, R136, R140). -/
def nibCommand (s : State) (n : NibIx) : Option Instr :=
  if cellMoveDue s n then some (.nibCellMove n)
  else match outCommand s n with
    | some c => some c
    | none => if pwmDue s n then some (.pwmEdge n) else none

/-- R147, R431: the level that the nib drives has reached its ball. DESIGN CHOICE (log entry 46). -/
def showDue (s : State) (x : Nib) : Bool := pinsLive s && !x.seen && x.drive != .z && dueNow s x.drivenFrom

/-- R147: the eighth of the present cycle from which the nib drives its level. -/
def showEighth (s : State) (x : Nib) : Fin 8 :=
  if x.drivenFrom >>> 3 = s.time.tb then Fin.ofNat 8 (x.drivenFrom.toNat % 8) else 0

/-- The input side of a nib (R147, R148, R157, R158). -/
def inputCommand (s : State) (n : NibIx) : Option Instr :=
  let x := s.nibs[n]
  let i := x.inp
  if showDue s x then some (.nibInputTransition n (x.drive == .high) (showEighth s x))
  else if i.windows.any (windowDue s) then some (.windowExpiry n)
  else if i.windows.any (emptyDue s n) then some (.winEmpty n)
  else if filterDue s n then some (.glitchFilterAccept n)
  else if freqDue s n then some (.freqGateEnd n)
  else none

/-- R138: a reflex cause on its way. -/
def reflexCommand (s : State) : Option Instr := (s.reflexDue.head?).map fun d => .reflexCause d.1

/-! Trackers, channels and counter elements. -/

/-- What a tracker does of itself (R75, R80, R87, R88, R91). -/
def trackCommand (s : State) (i : TrackIx) : Option Instr :=
  if !s.trackers[i].waiting.isEmpty then some (.toothProcessed i)
  else if microDue s i then some (.microTick i)
  else if missDue s i then some (.missDeadline i)
  else if stallDue s i then some (.stallTimeout i)
  else if countingDue s i then some (.countingTimeout i)
  else none

/-- What a feedback channel does of itself (R170, R180, R182, R184, R187). -/
def channelCommand (s : State) (b : FbIx) : Option Instr :=
  let raw := s.channels[b].raw
  let seen := ssiSeen s.channels[b]
  if fbActDue s b then some (.fbChangeAccepted b (tst raw 0) (tst raw 1) (tst raw 2))
  else if ssiTimedOut s b then some (.ssiDelayTimeout b)
  else if ssiDone s b then some (.ssiFrameComplete b seen.1 seen.2)
  else if stillDue s b then some (.fbStill b)
  else if emuDue s b then some (.emuEdge b)
  else none

/-- R56: a period of a counter element ended at this ACLK edge. -/
def periodCommand (s : State) (e : CeIx) : Option Instr :=
  if s.counters[e].ends != 0 then some (.cePeriodEnd e) else none

/-- R58: a match of a counter element at this ACLK edge. -/
def matchCommand (s : State) (e : CeIx) : Option Instr :=
  ((indices 4).find? fun (k : Fin 4) => tst s.counters[e].firing k).map (.ceCompareMatch e)

/-! Interrupts and the blotter. -/

/-- R360, R361, R366, R371: what an EIC source or group does of itself. -/
def eicCommand (s : State) : Option Instr :=
  if !eicListens s then none
  else match (indices 1024).findSome? fun (x : SrcIx) =>
      if arrivalDue s x then some (.eicArrival x)
      else if fallDue s x then some (.levelInputFall x)
      else none with
  | some c => some c
  | none =>
    match (indices 64).find? fun g => groupDue s.eic.groups[g] with
    | some g => some (.groupTimerExpiry g)
    | none => ((indices 1024).find? fun x => fallbackDue s.eic s.eic.sources[x]).map .fallbackTimer

/-- R401, R414. -/
def blotterCommand (s : State) : Option Instr :=
  if injectionOver s.blotter.inj then some .injectionDone
  else ((indices 32).find? fun c => quietDue s.blotter s.blotter.classes[c]).map .quietTimerExpiry

/-! Inkwells, DMA and spares. -/

/-- R328 to R330: a copy that has run its words. -/
def inkCommand (s : State) : Option Instr :=
  let m := s.ink.march
  if marchDue s then some .marchSliceStart
  else if m.bank < 64 && m.phase == .copy && m.words == 256 then some .sliceCopyDone
  else if m.phase == .restore && m.words == 256 then some .sliceRestoreDone
  else if migrationCopied s then some .migrationCopyDone
  else if carryCopied s then some .carryCopyDone
  else none

/-- R340: a channel waits for a stream that has records for it. -/
def streamWaits (s : State) (g : StreamIx) : Bool :=
  !s.streams[g].fifo.isEmpty && !streamHeld s g && s.dma.chans.toList.any fun x =>
    x.state == .streamWait && x.desc.any fun d => srcKindOf d == 2 && descStream d == g && 16 ≤ d.len

/-- R340, R348. -/
def dmaCommand (s : State) : Option Instr :=
  match (indices 8).find? (streamWaits s) with
  | some g => some (.streamRecordArrival g)
  | none => ((indices 32).find? (pollDue s)).map .tailPoll

/-- R136, R410, R411: spares that act at a commit. -/
def spareCommand (s : State) : Option Instr :=
  if s.time.cycle != 0 || !s.time.rulings then none
  else match (indices 16).find? (moveCopied s) with
    | some q => some (.quillMigrationCopyDone q)
    | none => ((indices 512).find? fun e => s.counters[e].takeover).map .ceTakeover

/-! The scribe. -/

/-- R383: the command that the scribe starts of itself: one whose bytes say all it needs. An image or a key comes from
host memory with its command. -/
def opcodeCommand (s : State) (b : BitVec 512) : Option Instr :=
  let op := cmdOpcode b
  if op = opIdentify then some .cmdIdentify
  else if op = opGetHealth then some .cmdGetHealth
  else if op = opStart then (if s.power.calibrating = 0 then some .cmdStart else none)
  else if op = opStopToSafe then some .cmdStopToSafe
  else if op = opChangeover then some .cmdChangeover
  else if op = opDiscardStaged then some .cmdDiscardStaged
  else if op = opReadUnitDir then some .cmdReadUnitDir
  else if op = opMarch then (if fld (cmdArg b 0) 1 0 = 2 then some .cmdMarchSetCtrl else some .cmdMarchDestroy)
  else if op = opRepairStatus then some .cmdRepairStatus
  else if op = opRetireResource then some .cmdRetireResource
  else if op = opInjectFault then some .cmdInjectFault
  else if op = opAckFault then some .cmdAckFault
  else if op = opPatchStatus then some .cmdPatchStatus
  else if op = opTbSet then some .cmdTbSet
  else if op = opTbTrim then some .cmdTbTrim
  else if op = opSleep then some .cmdSleep
  else if op = opStandby then some .cmdStandby
  else if op = opSnapshot then some .cmdSnapshot
  else none

/-- R381: the command in turn, where it has not started. DEDUCED (log entry 92). -/
def scribeCommand (s : State) : Option Instr :=
  match s.scribe.queue with
  | e :: _ => e.bytes.bind fun b => if (headFor s (cmdOpcode b)).isSome then opcodeCommand s b else none
  | [] => none

/-! Time. -/

/-- R36, R294, R305: the commands of a tick that is due. -/
def tickCommand (s : State) : Option Instr :=
  if !tickDue s then none
  else if s.time.tbSet.isSome then some .tbSetApply
  else if startDue s then some .startTick
  else if swapDue s then some .changeoverTick
  else some .tick

/-- R37, R47, R49, R304: what TB and the tick number bring. -/
def timeCommand (s : State) : Option Instr :=
  if s.time.trimFinal.any fun x => notAfter x.1 s.time.tb then some .tbTrimFinal
  else if syncLossDue s then some .syncHoldoverEntry
  else if syncLockDue s then some .syncLock
  else if expiryDue s then some .triggerExpiry
  else none

/-- R252: the close of a frame; where no comparison is given from outside, no proofreader differs. -/
def closeCommand (s : State) : Option Instr := if closeDue s then some (.close [] []) else none

/-- The first command that a list of questions names. -/
def firstCommand : List (Unit → Option Instr) → Option Instr
  | [] => none
  | f :: fs => match f () with
    | some c => some c
    | none => firstCommand fs

/-- The command that is due in the present core cycle. A tick comes before everything else; the close comes after the
words of its cycle, and the events that make records come in the order of R250. DEDUCED (log entry 23). -/
def dueInCycle (s : State) : Option Instr :=
  firstCommand [
    fun _ => tickCommand s,
    fun _ => timeCommand s,
    fun _ => spareCommand s,
    fun _ => (indices 16).findSome? (quillCommand s),
    fun _ => closeCommand s,
    fun _ => (indices 512).findSome? (periodCommand s),
    fun _ => (indices 256).findSome? (inputCommand s),
    fun _ => (indices 256).findSome? (nibCommand s),
    fun _ => reflexCommand s,
    fun _ => (indices 16).findSome? (trackCommand s),
    fun _ => (indices 16).findSome? (channelCommand s),
    fun _ => (indices 512).findSome? (matchCommand s),
    fun _ => inkCommand s,
    fun _ => dmaCommand s,
    fun _ => eicCommand s,
    fun _ => blotterCommand s,
    fun _ => scribeCommand s]

/-- R61 to R63, R434: what is due while the core clock is stopped, the 32.768 kHz edge last. -/
def dueStopped (s : State) : Option Instr :=
  firstCommand [
    fun _ => (indices 512).findSome? (matchCommand s),
    fun _ => (indices 512).findSome? (periodCommand s),
    fun _ => timeCommand s,
    fun _ => eicCommand s,
    fun _ => blotterCommand s,
    fun _ => if s.power.lfOk then some .coarseStep else none]

/-- R384, R434, R435: the device is about to enter Sleep or Standby, its response being visible: the tick that is due does
not come. -/
def entryDue (s : State) : Option Bool := if tickDue s && s.scribe.held.isNone then s.scribe.entry else none

/-- The command that the device brings about of itself now. In reset nothing runs, and in Standby the coarse clock
alone (R433). -/
def dueCommand (s : State) : Option Instr :=
  match s.power.mode with
  | .reset => none
  | .standby => if s.time.stopped && s.power.lfOk then some .coarseStep else none
  | _ =>
    if s.time.stopped then (if wakeDue s then none else dueStopped s)
    else if (entryDue s).isSome then none
    else dueInCycle s

/-! A core cycle. -/

/-- R33, R54, R342, R367: an ACLK edge: the messages of the cycle that ends, the counter elements, and a beat.
DEDUCED (log entry 66). -/
def aclkEdge (s : State) : State :=
  portEdge (ceEdge (sendMessages (modTime s fun t => { t with aclkWait := 2 })) 1)

/-- R33, R54: the ACLK edges that the new core cycle brings. -/
def aclkCycle (s : State) : State :=
  if s.time.aclkWait ≤ 1 then aclkEdge s else modTime s fun t => { t with aclkWait := t.aclkWait - 1 }

/-- R94, R97: trackers that move with time, and all that follows them. -/
def virtualsMove (before s : State) : State :=
  if s.trackers.toList.any fun t => t.cfg.run && t.virt.isSome then trackChanged before s (nowTime s) false else s

/-- R328, R330, R301, R309, R411, R348: the copies and the poll timers go on. DEDUCED (log entry 65). -/
def copiesGoOn (s : State) : State :=
  let s := carryCopy (migrationCopy (sliceCopy (migrationBegin (spareFromLeaf s))))
  let s := storeCopies s
  { s with dma := dmaTime s.dma 1 }

/-- R382: the command in progress counts its time. -/
def scribeTime (s : State) : State :=
  modScribe s fun c => match c.queue with
    | e :: rest => if e.phase = .waiting then c else { c with queue := { e with ns := e.ns + 1 } :: rest }
    | [] => c

/-- R33: TB counts one core cycle on, and the ruling with it. -/
def countCycle (s : State) : State :=
  modTime s fun t => { t with tb := t.tb + 1, cycle := if t.rulings then t.cycle + 1 else t.cycle }

/-- R236, R238, R325, R393: an error in stored bits or on a bus; a second one in a word of the inkwells is beyond correction.
DESIGN CHOICE (log entry 184). -/
def takeUpset (s : State) : Config.Upset → State
  | .inkwell p single syn =>
    if 68 * 4096 ≤ p then s
    else
      let e : InkError := if single && (errorAt s.ink.errors p).isNone then .single syn else .uncorrectable syn
      modInk s fun k => { k with errors := (p, e) :: k.errors.filter fun x => x.1 != p }
  | .register q i =>
    if 16 ≤ q ∨ 64 ≤ i then s
    else modQuill s (Fin.ofNat 16 q) fun x => { x with engine := { x.engine with parity := setBit x.engine.parity i true } }
  | .store p w flips =>
    if 20 ≤ p ∨ 8192 ≤ w then s
    else putStoreWord s (Fin.ofNat 20 p) (Fin.ofNat 8192 w) (storeWord s (Fin.ofNat 20 p) (Fin.ofNat 8192 w) ^^^ flips)
  | .regBlock => modBlotter s fun b => { b with regErr := true }
  | .bus i => modBlotter s fun b => { b with busErr := setBit b.busErr i true }

/-- What a core cycle does to stored bits. -/
def upsetsCome (s : State) : State :=
  match Config.upset s.free s.time.tb with
  | some u => drawFree (takeUpset s u)
  | none => s

/-- R18, R23: in cycle 0 of a tick, what its gather takes is kept as it stood before. -/
def keepGathers (s : State) : State :=
  if tickDue s then { s with quills := s.quills.map keepEarly } else s

/-- R33: a core cycle passes in which nothing was left to do; R429: until the PLLs lock, a reference period. -/
def cyclePasses (s : State) : State :=
  if s.power.mode != .up then
    modTime s fun t =>
      if s.power.stage = 1 then { t with tb := if s.pool.refOk then t.tb + 40 else t.tb }
      else { t with tb := t.tb + 1, aclkWait := if t.aclkWait ≤ 1 then 2 else t.aclkWait - 1 }
  else
    let t := aclkCycle (passTime (keepGathers (upsetsCome (countCycle s))) 1)
    let t := takePins (virtualsMove s t)
    scribeTime (copiesGoOn (followAllBelow (handoversDue t)))

/-- What an empty queue lets happen when nothing is due: a wake from Sleep by what was seen, entry into Sleep or Standby, a
core cycle, or nothing while no clock runs. DEDUCED (log entry 28). -/
def idleCycle (s : State) : State :=
  if wakeDue s then wakeSleep s 0
  else match entryDue s with
  | some true => enterStandby s
  | some false => enterSleep s
  | none => if s.time.stopped || s.power.mode == .reset || s.power.mode == .standby then s else cyclePasses s

end Sys2Proof.Machine
end

