-- ==== Sys2Proof/Machine/Dispatch.lean ====
section
/-! DEFINITION. One arm for each command: a direct call of its meaning. -/
namespace Sys2Proof.Machine

/-- What a command does to everything but the queue. -/
def exec (i : Instr) (s : State) : Host.Outcome State Fault Refusal :=
  match i with
  | .close mismatched votes => Sys2Proof.Machine.execClose mismatched votes s
  | .budgetExpiry q => Sys2Proof.Machine.execBudgetExpiry q s
  | .resultWriteback q => Sys2Proof.Machine.execResultWriteback q s
  | .seqNext q => Sys2Proof.Machine.execSeqNext q s
  | .seqJmp q => Sys2Proof.Machine.execSeqJmp q s
  | .seqJt q => Sys2Proof.Machine.execSeqJt q s
  | .seqJf q => Sys2Proof.Machine.execSeqJf q s
  | .seqCall q => Sys2Proof.Machine.execSeqCall q s
  | .seqCallt q => Sys2Proof.Machine.execSeqCallt q s
  | .seqRet q => Sys2Proof.Machine.execSeqRet q s
  | .seqRett q => Sys2Proof.Machine.execSeqRett q s
  | .seqLoop0 q => Sys2Proof.Machine.execSeqLoop0 q s
  | .seqLoop1 q => Sys2Proof.Machine.execSeqLoop1 q s
  | .seqDispatch q => Sys2Proof.Machine.execSeqDispatch q s
  | .seqYield q => Sys2Proof.Machine.execSeqYield q s
  | .seqYieldt q => Sys2Proof.Machine.execSeqYieldt q s
  | .seqLdlc q => Sys2Proof.Machine.execSeqLdlc q s
  | .seqLdlcr q => Sys2Proof.Machine.execSeqLdlcr q s
  | .seqBreak q => Sys2Proof.Machine.execSeqBreak q s
  | .aluMov q x => Sys2Proof.Machine.execAluMov q x s
  | .aluAdd q x => Sys2Proof.Machine.execAluAdd q x s
  | .aluSub q x => Sys2Proof.Machine.execAluSub q x s
  | .aluNeg q x => Sys2Proof.Machine.execAluNeg q x s
  | .aluAbs q x => Sys2Proof.Machine.execAluAbs q x s
  | .aluAdds q x => Sys2Proof.Machine.execAluAdds q x s
  | .aluSubs q x => Sys2Proof.Machine.execAluSubs q x s
  | .aluAnd q x => Sys2Proof.Machine.execAluAnd q x s
  | .aluOr q x => Sys2Proof.Machine.execAluOr q x s
  | .aluXor q x => Sys2Proof.Machine.execAluXor q x s
  | .aluAndn q x => Sys2Proof.Machine.execAluAndn q x s
  | .aluNot q x => Sys2Proof.Machine.execAluNot q x s
  | .aluMin q x => Sys2Proof.Machine.execAluMin q x s
  | .aluMax q x => Sys2Proof.Machine.execAluMax q x s
  | .aluMinu q x => Sys2Proof.Machine.execAluMinu q x s
  | .aluMaxu q x => Sys2Proof.Machine.execAluMaxu q x s
  | .aluShl q x => Sys2Proof.Machine.execAluShl q x s
  | .aluShr q x => Sys2Proof.Machine.execAluShr q x s
  | .aluSar q x => Sys2Proof.Machine.execAluSar q x s
  | .aluRol q x => Sys2Proof.Machine.execAluRol q x s
  | .aluRor q x => Sys2Proof.Machine.execAluRor q x s
  | .aluCmp q x => Sys2Proof.Machine.execAluCmp q x s
  | .aluTst q x => Sys2Proof.Machine.execAluTst q x s
  | .aluClz q x => Sys2Proof.Machine.execAluClz q x s
  | .aluPopc q x => Sys2Proof.Machine.execAluPopc q x s
  | .aluBfx q x => Sys2Proof.Machine.execAluBfx q x s
  | .aluBfi q x => Sys2Proof.Machine.execAluBfi q x s
  | .aluZext q x => Sys2Proof.Machine.execAluZext q x s
  | .aluSext q x => Sys2Proof.Machine.execAluSext q x s
  | .aluSplat q x => Sys2Proof.Machine.execAluSplat q x s
  | .aluLrot q x => Sys2Proof.Machine.execAluLrot q x s
  | .mulU q => Sys2Proof.Machine.execMulU q s
  | .mulS q => Sys2Proof.Machine.execMulS q s
  | .mul2u q => Sys2Proof.Machine.execMul2u q s
  | .mul2s q => Sys2Proof.Machine.execMul2s q s
  | .mulQs q => Sys2Proof.Machine.execMulQs q s
  | .divU q => Sys2Proof.Machine.execDivU q s
  | .divS q => Sys2Proof.Machine.execDivS q s
  | .divUf q => Sys2Proof.Machine.execDivUf q s
  | .inkRd q => Sys2Proof.Machine.execInkRd q s
  | .inkRdx q => Sys2Proof.Machine.execInkRdx q s
  | .inkWr q => Sys2Proof.Machine.execInkWr q s
  | .inkWrx q => Sys2Proof.Machine.execInkWrx q s
  | .inkWrb q => Sys2Proof.Machine.execInkWrb q s
  | .evpPop q => Sys2Proof.Machine.execEvpPop q s
  | .evpPeek q => Sys2Proof.Machine.execEvpPeek q s
  | .evpCount q => Sys2Proof.Machine.execEvpCount q s
  | .evpPred q => Sys2Proof.Machine.execEvpPred q s
  | .cmtStroke q => Sys2Proof.Machine.execCmtStroke q s
  | .cmtRegw q => Sys2Proof.Machine.execCmtRegw q s
  | .cmtVpos q => Sys2Proof.Machine.execCmtVpos q s
  | .cmtVdyn q => Sys2Proof.Machine.execCmtVdyn q s
  | .cmtSignal q => Sys2Proof.Machine.execCmtSignal q s
  | .ucodeScrub p w => Sys2Proof.Machine.execUcodeScrub p w s
  | .strokeNop q r => Sys2Proof.Machine.execStrokeNop q r s
  | .strokeSet n k => Sys2Proof.Machine.execStrokeSet n k s
  | .strokeClear n k => Sys2Proof.Machine.execStrokeClear n k s
  | .strokeToggle n k => Sys2Proof.Machine.execStrokeToggle n k s
  | .strokeFloat n k => Sys2Proof.Machine.execStrokeFloat n k s
  | .strokePulse n k => Sys2Proof.Machine.execStrokePulse n k s
  | .strokePulseLow n k => Sys2Proof.Machine.execStrokePulseLow n k s
  | .strokePulseAngle n k => Sys2Proof.Machine.execStrokePulseAngle n k s
  | .strokeBurst n k => Sys2Proof.Machine.execStrokeBurst n k s
  | .strokePwmLoad n k => Sys2Proof.Machine.execStrokePwmLoad n k s
  | .strokePatternStart n k => Sys2Proof.Machine.execStrokePatternStart n k s
  | .strokePatternStop n k => Sys2Proof.Machine.execStrokePatternStop n k s
  | .strokeCaptureArm n k => Sys2Proof.Machine.execStrokeCaptureArm n k s
  | .strokeReflexArm n k => Sys2Proof.Machine.execStrokeReflexArm n k s
  | .strokeSafe n k => Sys2Proof.Machine.execStrokeSafe n k s
  | .strokeCancel q r => Sys2Proof.Machine.execStrokeCancel q r s
  | .pulseEndEdge n k => Sys2Proof.Machine.execPulseEndEdge n k s
  | .burstEdge n k => Sys2Proof.Machine.execBurstEdge n k s
  | .patternBit n => Sys2Proof.Machine.execPatternBit n s
  | .nibCtrlWrite p n v => Sys2Proof.Machine.execNibCtrlWrite p n v s
  | .vernFail n second => Sys2Proof.Machine.execVernFail n second s
  | .tdcFail n => Sys2Proof.Machine.execTdcFail n s
  | .nibCellMove n => Sys2Proof.Machine.execNibCellMove n s
  | .reflexCause l => Sys2Proof.Machine.execReflexCause l s
  | .reflexPulseEnd l => Sys2Proof.Machine.execReflexPulseEnd l s
  | .reflexArm p l => Sys2Proof.Machine.execReflexArm p l s
  | .nibInputTransition n level f => Sys2Proof.Machine.execNibInputTransition n level f s
  | .glitchFilterAccept n => Sys2Proof.Machine.execGlitchFilterAccept n s
  | .windowExpiry n => Sys2Proof.Machine.execWindowExpiry n s
  | .winEmpty n => Sys2Proof.Machine.execWinEmpty n s
  | .freqGateEnd n => Sys2Proof.Machine.execFreqGateEnd n s
  | .cap0Read p n => Sys2Proof.Machine.execCap0Read p n s
  | .csCtrlWrite p g v => Sys2Proof.Machine.execCsCtrlWrite p g v s
  | .toothProcessed t => Sys2Proof.Machine.execToothProcessed t s
  | .microTick t => Sys2Proof.Machine.execMicroTick t s
  | .missDeadline t => Sys2Proof.Machine.execMissDeadline t s
  | .stallTimeout t => Sys2Proof.Machine.execStallTimeout t s
  | .countingTimeout t => Sys2Proof.Machine.execCountingTimeout t s
  | .trackerEnable p t v => Sys2Proof.Machine.execTrackerEnable p t v s
  | .trackerResync p t => Sys2Proof.Machine.execTrackerResync p t s
  | .trackerApply p t => Sys2Proof.Machine.execTrackerApply p t s
  | .learnCtrlWrite p t v => Sys2Proof.Machine.execLearnCtrlWrite p t v s
  | .tmapFlagsAccess p t v => Sys2Proof.Machine.execTmapFlagsAccess p t v s
  | .fbChangeAccepted b la lb lz => Sys2Proof.Machine.execFbChangeAccepted b la lb lz s
  | .ssiFrameComplete b bits delay => Sys2Proof.Machine.execSsiFrameComplete b bits delay s
  | .ssiDelayTimeout b => Sys2Proof.Machine.execSsiDelayTimeout b s
  | .fbStill b => Sys2Proof.Machine.execFbStill b s
  | .idxArm p b => Sys2Proof.Machine.execIdxArm p b s
  | .emuEdge b => Sys2Proof.Machine.execEmuEdge b s
  | .comparatorChange c uv f => Sys2Proof.Machine.execComparatorChange c uv f s
  | .comparatorSample c uv => Sys2Proof.Machine.execComparatorSample c uv s
  | .comparatorSettled c uv => Sys2Proof.Machine.execComparatorSettled c uv s
  | .thrWrite p c v => Sys2Proof.Machine.execThrWrite p c v s
  | .blankEnd c uv => Sys2Proof.Machine.execBlankEnd c uv s
  | .adcConversion result => Sys2Proof.Machine.execAdcConversion result s
  | .adcArbitration result => Sys2Proof.Machine.execAdcArbitration result s
  | .ceCompareMatch e k => Sys2Proof.Machine.execCeCompareMatch e k s
  | .cePeriodEnd e => Sys2Proof.Machine.execCePeriodEnd e s
  | .ceCtrlWrite p e v => Sys2Proof.Machine.execCeCtrlWrite p e v s
  | .ceWinWrite p e v => Sys2Proof.Machine.execCeWinWrite p e v s
  | .ceCountWrite p e v => Sys2Proof.Machine.execCeCountWrite p e v s
  | .trimWrite p v => Sys2Proof.Machine.execTrimWrite p v s
  | .ppsStampRead p => Sys2Proof.Machine.execPpsStampRead p s
  | .syncCtrlWrite p v => Sys2Proof.Machine.execSyncCtrlWrite p v s
  | .syncFrameReceived charsOk data phase => Sys2Proof.Machine.execSyncFrameReceived charsOk data phase s
  | .rlLowRead p addr => Sys2Proof.Machine.execRlLowRead p addr s
  | .rcRead p addr => Sys2Proof.Machine.execRcRead p addr s
  | .wideLowWrite p addr v => Sys2Proof.Machine.execWideLowWrite p addr v s
  | .wideHighWrite p addr v => Sys2Proof.Machine.execWideHighWrite p addr v s
  | .registerWrite p addr v => Sys2Proof.Machine.execRegisterWrite p addr v s
  | .unitEnable p u on => Sys2Proof.Machine.execUnitEnable p u on s
  | .unitSafeSet p u => Sys2Proof.Machine.execUnitSafeSet p u s
  | .unitSafeRelease p u => Sys2Proof.Machine.execUnitSafeRelease p u s
  | .glyphApply p u => Sys2Proof.Machine.execGlyphApply p u s
  | .mbxWrite p q reg v => Sys2Proof.Machine.execMbxWrite p q reg v s
  | .quillMigrationCopyDone q => Sys2Proof.Machine.execQuillMigrationCopyDone q s
  | .cmdTail p v => Sys2Proof.Machine.execCmdTail p v s
  | .commandFetch entry => Sys2Proof.Machine.execCommandFetch entry s
  | .mailboxGo p => Sys2Proof.Machine.execMailboxGo p s
  | .rspCons p v => Sys2Proof.Machine.execRspCons p v s
  | .ringCtrlWrite p rsp v => Sys2Proof.Machine.execRingCtrlWrite p rsp v s
  | .cmdLoadFolio image => Sys2Proof.Machine.execCmdLoadFolio image s
  | .cmdVerifyFolio image => Sys2Proof.Machine.execCmdVerifyFolio image s
  | .cmdStageLeaf image => Sys2Proof.Machine.execCmdStageLeaf image s
  | .cmdLoadPatch image => Sys2Proof.Machine.execCmdLoadPatch image s
  | .cmdKeyEnroll key => Sys2Proof.Machine.execCmdKeyEnroll key s
  | .bar4Read p addr len => Sys2Proof.Machine.execBar4Read p addr len s
  | .bar4Write p addr data => Sys2Proof.Machine.execBar4Write p addr data s
  | .handoverRequest p b v => Sys2Proof.Machine.execHandoverRequest p b v s
  | .sliceTestDone pass => Sys2Proof.Machine.execSliceTestDone pass s
  | .destroyingTestDone pass => Sys2Proof.Machine.execDestroyingTestDone pass s
  | .dmaDoorbell p c => Sys2Proof.Machine.execDmaDoorbell p c s
  | .descriptorFetched c d => Sys2Proof.Machine.execDescriptorFetched c d s
  | .dmaReadCompletion c data => Sys2Proof.Machine.execDmaReadCompletion c data s
  | .streamRecordArrival g => Sys2Proof.Machine.execStreamRecordArrival g s
  | .dmaFlushDone c => Sys2Proof.Machine.execDmaFlushDone c s
  | .nextReadReturn c next => Sys2Proof.Machine.execNextReadReturn c next s
  | .tailPoll c => Sys2Proof.Machine.execTailPoll c s
  | .cqConsWrite p k v => Sys2Proof.Machine.execCqConsWrite p k v s
  | .cqBaseWrite p k v => Sys2Proof.Machine.execCqBaseWrite p k v s
  | .dmaBusError c e => Sys2Proof.Machine.execDmaBusError c e s
  | .dmaResume p c => Sys2Proof.Machine.execDmaResume p c s
  | .dmaSkip p c => Sys2Proof.Machine.execDmaSkip p c s
  | .dmaAbort p c => Sys2Proof.Machine.execDmaAbort p c s
  | .dmaHeadWrite p c v => Sys2Proof.Machine.execDmaHeadWrite p c v s
  | .eicArrival x => Sys2Proof.Machine.execEicArrival x s
  | .levelInputFall x => Sys2Proof.Machine.execLevelInputFall x s
  | .eicClaim p k fast => Sys2Proof.Machine.execEicClaim p k fast s
  | .eicComplete p k fast v => Sys2Proof.Machine.execEicComplete p k fast v s
  | .srcPendingWrite p x => Sys2Proof.Machine.execSrcPendingWrite p x s
  | .srcCfgWrite p x v => Sys2Proof.Machine.execSrcCfgWrite p x v s
  | .grpCfgWrite p g v => Sys2Proof.Machine.execGrpCfgWrite p g v s
  | .groupTimerExpiry g => Sys2Proof.Machine.execGroupTimerExpiry g s
  | .fallbackTimer x => Sys2Proof.Machine.execFallbackTimer x s
  | .targetAwake p v => Sys2Proof.Machine.execTargetAwake p v s
  | .quietTimerExpiry c => Sys2Proof.Machine.execQuietTimerExpiry c s
  | .blotterAck p v => Sys2Proof.Machine.execBlotterAck p v s
  | .ceTakeover e => Sys2Proof.Machine.execCeTakeover e s
  | .bootStageDone report => Sys2Proof.Machine.execBootStageDone report s
  | .thermalLimit above => Sys2Proof.Machine.execThermalLimit above s
  | .perstN low => Sys2Proof.Machine.execPerstN low s
  | .lpcmpWake uv => Sys2Proof.Machine.execLpcmpWake uv s
  | .keepDataAccess p v => Sys2Proof.Machine.execKeepDataAccess p v s
  | .linkTraining link sizes => Sys2Proof.Machine.execLinkTraining link sizes s
  | .bar0AccessError addr write dws => Sys2Proof.Machine.execBar0AccessError addr write dws s
  | .spWrite addr v => Sys2Proof.Machine.execSpWrite addr v s
  | .spRead addr => Sys2Proof.Machine.execSpRead addr s
  | .spQwrite addr v => Sys2Proof.Machine.execSpQwrite addr v s
  | .spQread addr => Sys2Proof.Machine.execSpQread addr s
  | .jtagQsel v => Sys2Proof.Machine.execJtagQsel v s
  | .qbrk on => Sys2Proof.Machine.execQbrk on s
  | .dmaBeat c => Sys2Proof.Machine.execDmaBeat c s
  | .msixUnmask v => Sys2Proof.Machine.execMsixUnmask v s
  | .vbatOkChange ok => Sys2Proof.Machine.execVbatOkChange ok s
  | .vioChange bank up => Sys2Proof.Machine.execVioChange bank up s
  | .lfOkChange ok => Sys2Proof.Machine.execLfOkChange ok s
  | .vernierCalibration n => Sys2Proof.Machine.execVernierCalibration n s
  | .pwmEdge n => Sys2Proof.Machine.execPwmEdge n s
  | .fbCtrlWrite p b v => Sys2Proof.Machine.execFbCtrlWrite p b v s
  | .acCtrlWrite p c v => Sys2Proof.Machine.execAcCtrlWrite p c v s
  | .emuCtrlWrite p b v => Sys2Proof.Machine.execEmuCtrlWrite p b v s
  | .inCtrlWrite p n v => Sys2Proof.Machine.execInCtrlWrite p n v s
  | .rlCtrlWrite p l v => Sys2Proof.Machine.execRlCtrlWrite p l v s
  | .adcCtrlWrite p v => Sys2Proof.Machine.execAdcCtrlWrite p v s
  | .routeWrite p n v => Sys2Proof.Machine.execRouteWrite p n v s
  | .tick => Sys2Proof.Machine.execTick s
  | .safeNAssert => Sys2Proof.Machine.execSafeNAssert s
  | .safeNRelease => Sys2Proof.Machine.execSafeNRelease s
  | .coarseStep => Sys2Proof.Machine.execCoarseStep s
  | .fineResume => Sys2Proof.Machine.execFineResume s
  | .syncHoldoverEntry => Sys2Proof.Machine.execSyncHoldoverEntry s
  | .syncLock => Sys2Proof.Machine.execSyncLock s
  | .cmdIdentify => Sys2Proof.Machine.execCmdIdentify s
  | .cmdGetHealth => Sys2Proof.Machine.execCmdGetHealth s
  | .cmdStart => Sys2Proof.Machine.execCmdStart s
  | .startTick => Sys2Proof.Machine.execStartTick s
  | .cmdStopToSafe => Sys2Proof.Machine.execCmdStopToSafe s
  | .cmdChangeover => Sys2Proof.Machine.execCmdChangeover s
  | .changeoverTick => Sys2Proof.Machine.execChangeoverTick s
  | .triggerExpiry => Sys2Proof.Machine.execTriggerExpiry s
  | .carryCopyDone => Sys2Proof.Machine.execCarryCopyDone s
  | .cmdDiscardStaged => Sys2Proof.Machine.execCmdDiscardStaged s
  | .cmdReadUnitDir => Sys2Proof.Machine.execCmdReadUnitDir s
  | .cmdMarchDestroy => Sys2Proof.Machine.execCmdMarchDestroy s
  | .cmdMarchSetCtrl => Sys2Proof.Machine.execCmdMarchSetCtrl s
  | .cmdRepairStatus => Sys2Proof.Machine.execCmdRepairStatus s
  | .cmdRetireResource => Sys2Proof.Machine.execCmdRetireResource s
  | .cmdInjectFault => Sys2Proof.Machine.execCmdInjectFault s
  | .cmdAckFault => Sys2Proof.Machine.execCmdAckFault s
  | .cmdPatchStatus => Sys2Proof.Machine.execCmdPatchStatus s
  | .cmdTbSet => Sys2Proof.Machine.execCmdTbSet s
  | .tbSetApply => Sys2Proof.Machine.execTbSetApply s
  | .cmdTbTrim => Sys2Proof.Machine.execCmdTbTrim s
  | .tbTrimFinal => Sys2Proof.Machine.execTbTrimFinal s
  | .cmdSleep => Sys2Proof.Machine.execCmdSleep s
  | .cmdStandby => Sys2Proof.Machine.execCmdStandby s
  | .cmdAbort => Sys2Proof.Machine.execCmdAbort s
  | .cmdSnapshot => Sys2Proof.Machine.execCmdSnapshot s
  | .scribeRestart => Sys2Proof.Machine.execScribeRestart s
  | .scribeLockstepMismatch => Sys2Proof.Machine.execScribeLockstepMismatch s
  | .scribeWdog => Sys2Proof.Machine.execScribeWdog s
  | .marchSliceStart => Sys2Proof.Machine.execMarchSliceStart s
  | .sliceCopyDone => Sys2Proof.Machine.execSliceCopyDone s
  | .sliceRestoreDone => Sys2Proof.Machine.execSliceRestoreDone s
  | .migrationCopyDone => Sys2Proof.Machine.execMigrationCopyDone s
  | .injectionDone => Sys2Proof.Machine.execInjectionDone s
  | .pllSwap => Sys2Proof.Machine.execPllSwap s
  | .referenceLost => Sys2Proof.Machine.execReferenceLost s
  | .referenceReturn => Sys2Proof.Machine.execReferenceReturn s
  | .porstNRelease => Sys2Proof.Machine.execPorstNRelease s
  | .brownOut => Sys2Proof.Machine.execBrownOut s
  | .islandPowerOn => Sys2Proof.Machine.execIslandPowerOn s
  | .thermalTrip => Sys2Proof.Machine.execThermalTrip s
  | .trstN => Sys2Proof.Machine.execTrstN s
  | .wake => Sys2Proof.Machine.execWake s
  | .d3hotEntry => Sys2Proof.Machine.execD3hotEntry s
  | .spFetch => Sys2Proof.Machine.execSpFetch s
  | .spQfetch => Sys2Proof.Machine.execSpQfetch s
  | .jtagExtest => Sys2Proof.Machine.execJtagExtest s
  | .jtagIdcode => Sys2Proof.Machine.execJtagIdcode s
  | .jtagSamplePreload => Sys2Proof.Machine.execJtagSamplePreload s
  | .jtagHighz => Sys2Proof.Machine.execJtagHighz s
  | .jtagClamp => Sys2Proof.Machine.execJtagClamp s
  | .jtagBypass => Sys2Proof.Machine.execJtagBypass s
  | .qhalt => Sys2Proof.Machine.execQhalt s
  | .qstep => Sys2Proof.Machine.execQstep s
  | .qresume => Sys2Proof.Machine.execQresume s
  | .dhalt => Sys2Proof.Machine.execDhalt s
  | .dresume => Sys2Proof.Machine.execDresume s
  | .d0Entry => Sys2Proof.Machine.execD0Entry s
  | .pcieLinkDown => Sys2Proof.Machine.execPcieLinkDown s
  | .porstNAssert => Sys2Proof.Machine.execPorstNAssert s
  | .brownOutEnd => Sys2Proof.Machine.execBrownOutEnd s
  | .thermalTripEnd => Sys2Proof.Machine.execThermalTripEnd s
  | .servicePortAccessDone => Sys2Proof.Machine.execServicePortAccessDone s
  | .pwrenLowTimeEnd => Sys2Proof.Machine.execPwrenLowTimeEnd s

end Sys2Proof.Machine
end

