-- ==== Sys2Proof/Safety.lean ====
section
/-! DEFINITION. The terms in which the statements speak of runs: the parts of a state and which of them a step may
change, the raises that wait to be judged, and the canonical form of the sparse stores. -/
namespace Sys2Proof.Machine

/-- The parts of a state: its fields, with TB and the ruling apart from the rest of time, the bound units and what
waits for a tick apart from what is in force of the folio, the event queues and event bits
of the quills apart from the rest of them, how a nib is set up apart from what it is doing, the power mode apart from the rest of power, the raises that wait apart from
the rest of the blotter, and the contents of the inkwells apart from the rest of them. -/
inductive Part
  | pending | clock | time | folio | units | quills | inboxes | stores | nibs | nibSetup | links | balls | safeLow | streams
  | trackers | tickTrackers | channels | comparators | adc | counters | eic | raises | blotter | cells | ink | dma | pool
  | co | scribe | mode | power | host | reflexDue | posted | latches | reads | free
  deriving DecidableEq, Repr

/-- TB, the ruling and the frame number (R33, R40, R42). -/
def clockOf (y : TimeSt) : W64 × Nat × Nat × Bool × Bool × W64 × W64 × W64 × Nat × Bool :=
  (y.tb, y.cycle, y.period, y.rulings, y.closed, y.frame, y.nextFrame, y.tickTb, y.aclkWait, y.stopped)

/-- The rest of time. -/
def restOfTime (y : TimeSt) : Word × Word × Bool × Option (W64 × Word) × Option (W64 × W64) × Bool × Bool × Nat × PpsSt
    × SyncSt :=
  (y.trim, y.trimApplied, y.trimClamp, y.trimFinal, y.tbSet, y.resume, y.coarse, y.coarseStep, y.pps, y.sync)

/-- What reaches a quill from outside: its event queue and its event bits (R244, R250). -/
def inboxOf (x : Quill) : EventQueue × Word := (x.queue, x.evtStatus)

/-- The rest of a quill. -/
def restOfQuill (x : Quill) : Quill := { x with queue := {}, evtStatus := 0 }

/-- How a nib is set up: what neither its edges, strokes and captures nor the SAFE state change. -/
def setupOf (x : Nib) : Nib :=
  { x with
    param1 := 0, late := 0, lost := 0, evtStatus := 0, drive := .z, inSafe := false, held := false, suppressed := false
    slots := Vector.replicate 16 none, judging := [], taken := 0, stsSeq := 0, lastEdge := none, lastPlan := none
    pattern := none, duty := 0, pwmOn := false, pwmOut := false, pwmBad := false, emuFrom := none, emuOn := false
    reflexEnd := none, drivenFrom := 0, seen := false
    inp := { x.inp with
      opening := none, windows := [], live := 0, fresh := false, prior := none, late := [], ovr := 0, seq := 0 } }

/-- What a nib is doing. -/
def doingOf (x : Nib) : Nib :=
  { x with
    ctrl := 0, run := false, owner := none, safe := 0, cell := 0, pin := 0, slewSlow := false, lateWin := 0, param0 := 0
    evtEnable := 0, safeN := false, stopped := false, vernB := false, vernAOk := false, vernBOk := false
    moveWanted := false, pinNext := none, wroteIn := 0, wrote := []
    inp := { x.inp with
      ctrl := 0, ball := false, sync := false, move := none, run := none, level := false, gate := none, freqDue := []
      tdcFail := false } }

/-- What is in force of a folio: all of it but the bound units, the CONTROL values that wait for their tick, and the
START that waits for its own. -/
def inForce (k : FolioSt) : FolioSt := { k with units := [], ctrlPend := [], startAt := none }

/-- The bound units, the CONTROL values that wait for their tick, and the START that waits for its own. -/
def unitsOf (k : FolioSt) : List UnitSt × List CtrlPend × Option W64 := (k.units, k.ctrlPend, k.startAt)

/-- A part of two states is the same. -/
def alike (k : Part) (s t : State) : Prop :=
  match k with
  | .pending => s.pending = t.pending
  | .clock => clockOf s.time = clockOf t.time
  | .time => restOfTime s.time = restOfTime t.time
  | .folio => inForce s.folio = inForce t.folio
  | .units => unitsOf s.folio = unitsOf t.folio
  | .quills => s.quills.map restOfQuill = t.quills.map restOfQuill
  | .inboxes => s.quills.map inboxOf = t.quills.map inboxOf
  | .stores => s.stores = t.stores
  | .nibs => s.nibs.map doingOf = t.nibs.map doingOf
  | .nibSetup => s.nibs.map setupOf = t.nibs.map setupOf
  | .links => s.links = t.links
  | .balls => s.balls = t.balls
  | .safeLow => s.safeLow = t.safeLow
  | .streams => s.streams = t.streams
  | .trackers => s.trackers = t.trackers
  | .tickTrackers => s.tickTrackers = t.tickTrackers
  | .channels => s.channels = t.channels
  | .comparators => s.comparators = t.comparators
  | .adc => s.adc = t.adc
  | .counters => s.counters = t.counters
  | .eic => s.eic = t.eic
  | .raises => s.blotter.queue = t.blotter.queue
  | .blotter => { s.blotter with queue := [] } = { t.blotter with queue := [] }
  | .cells => s.ink.cells = t.ink.cells
  | .ink => { s.ink with cells := [] } = { t.ink with cells := [] }
  | .dma => s.dma = t.dma
  | .pool => s.pool = t.pool
  | .co => s.co = t.co
  | .scribe => s.scribe = t.scribe
  | .mode => s.power.mode = t.power.mode
  | .power => { s.power with mode := .up } = { t.power with mode := .up }
  | .host => s.host = t.host
  | .reflexDue => s.reflexDue = t.reflexDue
  | .posted => s.posted = t.posted
  | .latches => s.rlatch = t.rlatch ∧ s.wlatch = t.wlatch
  | .reads => s.readPcie = t.readPcie ∧ s.readSp = t.readSp ∧ s.readScribe = t.readScribe ∧ s.readBytes = t.readBytes
  | .free => s.free = t.free

/-- Two states differ in the parts of a list at most. -/
def Within (ps : List Part) (s t : State) : Prop := ∀ k, k ∉ ps → alike k s t

/-- What an access does, it does in the present state, or, in cycle 0 of a tick, after the commit of that tick (R23,
R253, R262). -/
def Acts (ps : List Part) (s t : State) : Prop := Within ps s t ∨ Within ps (afterTick s) t

/-- The commands by which an access path, or the scribe's own mailbox and ring, reaches the device: one that comes in
cycle 0 of a tick finds the commit of that tick made (R23, R253, R262). -/
def accesses (i : Instr) : Bool :=
  match i with
  | .nibCtrlWrite .. | .reflexArm .. | .cap0Read .. | .csCtrlWrite .. | .trackerEnable .. | .trackerResync ..
  | .trackerApply .. | .learnCtrlWrite .. | .tmapFlagsAccess .. | .idxArm .. | .thrWrite .. | .ceCtrlWrite ..
  | .ceWinWrite .. | .ceCountWrite .. | .trimWrite .. | .ppsStampRead .. | .syncCtrlWrite .. | .rlLowRead ..
  | .rcRead .. | .wideLowWrite .. | .wideHighWrite .. | .registerWrite .. | .unitEnable .. | .unitSafeSet ..
  | .unitSafeRelease .. | .glyphApply .. | .mbxWrite .. | .cmdTail .. | .commandFetch .. | .mailboxGo ..
  | .rspCons .. | .ringCtrlWrite .. | .cmdAbort | .scribeRestart | .bar4Read .. | .bar4Write ..
  | .handoverRequest .. | .dmaDoorbell .. | .cqConsWrite .. | .cqBaseWrite .. | .dmaResume .. | .dmaSkip ..
  | .dmaAbort .. | .dmaHeadWrite .. | .eicClaim .. | .eicComplete .. | .srcPendingWrite .. | .srcCfgWrite ..
  | .grpCfgWrite .. | .targetAwake .. | .blotterAck .. | .keepDataAccess .. | .bar0AccessError .. | .spWrite ..
  | .spRead .. | .spQwrite .. | .spQread .. | .servicePortAccessDone | .fbCtrlWrite .. | .acCtrlWrite ..
  | .emuCtrlWrite .. | .inCtrlWrite .. | .rlCtrlWrite .. | .adcCtrlWrite .. | .routeWrite .. => true
  | _ => false

/-- What the judging of the raises of a command can change (R397 to R399). -/
def judging : List Part := [.inboxes, .nibs, .links, .streams, .eic, .raises, .blotter, .ink, .co]

/-- What a register access can change beside its register: an access in Sleep that wakes the device (R434). -/
def waking : List Part := [.time, .nibSetup, .safeLow, .scribe, .mode, .power, .host, .reflexDue]

/-- The parts of the state that a command can change, the judging of its raises apart. -/
def effects (i : Instr) : List Part :=
  match i with
  | .tick | .changeoverTick =>
    [.clock, .time, .folio, .units, .quills, .nibSetup, .trackers, .tickTrackers, .channels, .comparators, .adc,
      .counters, .cells, .dma, .pool, .scribe, .power, .host, .reflexDue, .posted, .latches, .free]
  | .close .. =>
    [.clock, .units, .quills, .pool, .scribe, .posted]
  | .budgetExpiry .. | .resultWriteback .. =>
    [.quills]
  | .seqNext .. | .seqJmp .. | .seqJt .. | .seqJf .. | .seqCall .. | .seqCallt .. | .seqRet .. | .seqRett ..
  | .seqLoop0 .. | .seqLoop1 .. | .seqDispatch .. | .seqYield .. | .seqYieldt .. | .seqLdlc .. | .seqLdlcr ..
  | .seqBreak .. | .aluMov .. | .aluAdd .. | .aluSub .. | .aluNeg .. | .aluAbs .. | .aluAdds .. | .aluSubs ..
  | .aluAnd .. | .aluOr .. | .aluXor .. | .aluAndn .. | .aluNot .. | .aluMin .. | .aluMax .. | .aluMinu ..
  | .aluMaxu .. | .aluShl .. | .aluShr .. | .aluSar .. | .aluRol .. | .aluRor .. | .aluCmp .. | .aluTst ..
  | .aluClz .. | .aluPopc .. | .aluBfx .. | .aluBfi .. | .aluZext .. | .aluSext .. | .aluSplat .. | .aluLrot ..
  | .mulU .. | .mulS .. | .mul2u .. | .mul2s .. | .mulQs .. | .divU .. | .divS .. | .divUf .. | .inkRd ..
  | .inkRdx .. | .inkWr .. | .inkWrx .. | .inkWrb .. | .evpPop .. | .evpPeek .. | .evpCount .. | .evpPred ..
  | .cmtStroke .. | .cmtRegw .. | .cmtVpos .. | .cmtVdyn .. | .cmtSignal .. =>
    [.quills, .free]
  | .ucodeScrub .. | .quillMigrationCopyDone .. =>
    [.quills, .stores, .pool]
  | .strokeNop .. | .strokeSet .. | .strokeClear .. | .strokeToggle .. | .strokeFloat .. | .strokePulse ..
  | .strokePulseLow .. | .strokePulseAngle .. | .strokeBurst .. | .strokePwmLoad .. | .strokePatternStart ..
  | .strokePatternStop .. | .strokeCaptureArm .. | .strokeReflexArm .. | .strokeSafe .. | .strokeCancel ..
  | .pulseEndEdge .. | .burstEdge .. | .patternBit .. | .reflexPulseEnd .. | .windowExpiry .. | .marchSliceStart
  | .sliceCopyDone | .sliceRestoreDone | .migrationCopyDone | .eicArrival .. | .levelInputFall ..
  | .groupTimerExpiry .. | .fallbackTimer .. | .quietTimerExpiry .. | .injectionDone | .pwmEdge .. =>
    []
  | .safeNAssert =>
    [.nibSetup, .safeLow, .power, .reflexDue]
  | .safeNRelease =>
    [.nibSetup, .safeLow, .power]
  | .nibCtrlWrite .. | .reflexArm .. | .csCtrlWrite .. | .trimWrite .. | .syncCtrlWrite .. | .cmdTail ..
  | .handoverRequest .. | .eicComplete .. | .srcPendingWrite .. | .srcCfgWrite .. | .grpCfgWrite ..
  | .targetAwake .. | .blotterAck .. | .wake | .bar0AccessError .. | .rlCtrlWrite .. | .routeWrite .. =>
    waking
  | .vernFail .. | .tdcFail .. =>
    [.nibSetup]
  | .nibCellMove .. =>
    [.nibSetup, .pool]
  | .reflexCause .. =>
    [.reflexDue]
  | .nibInputTransition .. | .vioChange .. =>
    [.time, .nibSetup, .balls, .trackers, .power, .reflexDue]
  | .glitchFilterAccept .. =>
    [.time, .nibSetup, .trackers, .power, .reflexDue]
  | .winEmpty .. | .freqGateEnd .. | .vernierCalibration .. =>
    [.nibSetup, .power]
  | .cap0Read .. | .ppsStampRead .. =>
    waking ++ [.latches, .reads]
  | .toothProcessed .. | .microTick .. | .missDeadline .. | .stallTimeout .. | .countingTimeout .. =>
    [.nibSetup, .trackers, .channels]
  | .trackerEnable .. | .trackerResync .. =>
    waking ++ [.trackers, .channels]
  | .trackerApply .. | .learnCtrlWrite .. | .inCtrlWrite .. =>
    waking ++ [.trackers]
  | .tmapFlagsAccess .. =>
    waking ++ [.trackers, .reads]
  | .fbChangeAccepted .. =>
    [.trackers, .channels, .reflexDue]
  | .ssiFrameComplete .. =>
    [.trackers, .channels]
  | .ssiDelayTimeout .. | .fbStill .. | .emuEdge .. =>
    [.channels]
  | .idxArm .. | .fbCtrlWrite .. | .emuCtrlWrite .. =>
    waking ++ [.channels]
  | .comparatorChange .. | .comparatorSample .. | .comparatorSettled .. | .blankEnd .. =>
    [.trackers, .comparators, .power, .reflexDue]
  | .thrWrite .. | .acCtrlWrite .. =>
    waking ++ [.comparators]
  | .adcConversion .. =>
    [.comparators, .adc]
  | .adcArbitration .. =>
    [.comparators, .adc, .pool]
  | .ceCompareMatch .. | .cePeriodEnd .. =>
    [.counters]
  | .ceCtrlWrite .. | .ceWinWrite .. | .ceCountWrite .. =>
    waking ++ [.counters]
  | .coarseStep =>
    [.clock, .time, .nibSetup, .trackers, .comparators, .counters, .power, .reflexDue]
  | .fineResume =>
    [.clock, .time, .nibSetup, .pool]
  | .syncFrameReceived .. | .syncHoldoverEntry | .syncLock | .tbTrimFinal =>
    [.time]
  | .rlLowRead .. | .rcRead .. =>
    waking ++ [.quills, .trackers, .channels, .comparators, .adc, .latches, .reads]
  | .wideLowWrite .. | .wideHighWrite .. | .registerWrite .. =>
    waking ++ [.units, .quills, .trackers, .channels, .comparators, .adc, .counters, .dma, .posted, .latches]
  | .unitEnable .. | .unitSafeSet .. | .unitSafeRelease .. | .glyphApply .. =>
    waking ++ [.units]
  | .mbxWrite .. =>
    waking ++ [.quills]
  | .commandFetch .. | .cmdAbort | .scribeRestart =>
    [.time, .units, .scribe, .posted]
  | .mailboxGo .. =>
    waking ++ [.units, .posted]
  | .rspCons .. | .ringCtrlWrite .. =>
    waking ++ [.posted]
  | .cmdIdentify | .cmdGetHealth | .cmdVerifyFolio .. | .cmdChangeover | .triggerExpiry | .cmdReadUnitDir
  | .cmdMarchSetCtrl | .cmdRepairStatus | .cmdInjectFault | .cmdAckFault | .cmdLoadPatch .. | .cmdPatchStatus
  | .cmdSleep | .cmdKeyEnroll .. =>
    [.scribe, .posted]
  | .cmdLoadFolio .. =>
    [.time, .folio, .units, .quills, .stores, .nibSetup, .trackers, .tickTrackers, .channels, .comparators, .adc,
      .counters, .cells, .dma, .pool, .scribe, .power, .host, .reflexDue, .posted, .latches]
  | .cmdStart =>
    [.units, .scribe, .posted]
  | .startTick =>
    [.clock, .time, .folio, .units, .quills, .nibSetup, .trackers, .channels, .comparators, .adc, .counters, .cells,
      .dma, .pool, .scribe, .power, .host, .reflexDue, .posted]
  | .cmdStopToSafe | .cmdSnapshot =>
    [.scribe]
  | .cmdStageLeaf .. =>
    [.quills, .stores, .cells, .pool, .scribe, .posted]
  | .carryCopyDone | .sliceTestDone .. | .pllSwap | .referenceLost | .referenceReturn =>
    [.pool]
  | .cmdDiscardStaged =>
    [.quills, .pool, .scribe, .posted]
  | .cmdMarchDestroy =>
    [.cells, .scribe, .posted]
  | .cmdRetireResource =>
    [.quills, .stores, .nibSetup, .adc, .counters, .pool, .scribe, .posted]
  | .cmdTbSet =>
    [.time, .scribe, .posted]
  | .tbSetApply =>
    [.clock, .time, .nibSetup, .channels, .comparators, .adc, .scribe, .power, .posted]
  | .cmdTbTrim =>
    [.time, .scribe]
  | .cmdStandby =>
    [.scribe, .power, .posted, .free]
  | .scribeLockstepMismatch =>
    [.time, .units, .scribe, .power]
  | .scribeWdog =>
    [.time, .units, .scribe]
  | .bar4Read .. | .bar4Write .. =>
    waking ++ [.cells, .reads]
  | .destroyingTestDone .. =>
    [.cells, .pool, .scribe, .posted, .free]
  | .dmaDoorbell .. | .cqBaseWrite .. | .dmaHeadWrite .. =>
    waking ++ [.dma]
  | .descriptorFetched .. | .dmaFlushDone .. =>
    [.dma, .posted]
  | .dmaReadCompletion .. | .streamRecordArrival .. | .nextReadReturn .. | .tailPoll .. | .dmaBusError .. =>
    [.dma]
  | .cqConsWrite .. | .dmaResume .. | .dmaSkip .. | .dmaAbort .. =>
    waking ++ [.dma, .posted]
  | .eicClaim .. =>
    waking ++ [.reads]
  | .ceTakeover .. =>
    [.counters, .pool]
  | .porstNRelease =>
    waking ++ [.clock, .folio, .units, .quills, .stores, .trackers, .tickTrackers, .channels, .comparators, .adc,
        .counters, .cells, .dma, .pool, .latches, .free]
  | .bootStageDone .. =>
    [.clock, .time, .quills, .nibSetup, .safeLow, .adc, .cells, .pool, .scribe, .mode, .power, .reflexDue]
  | .brownOut | .islandPowerOn | .thermalTrip | .porstNAssert =>
    waking ++ [.clock, .folio, .units, .quills, .stores, .trackers, .tickTrackers, .channels, .comparators, .adc,
        .counters, .cells, .dma, .pool, .latches]
  | .thermalLimit .. | .lpcmpWake .. | .vbatOkChange .. | .lfOkChange .. | .pwrenLowTimeEnd =>
    [.power]
  | .perstN .. | .d3hotEntry | .pcieLinkDown =>
    [.dma, .host]
  | .trstN | .jtagExtest | .jtagIdcode | .jtagSamplePreload | .jtagHighz | .jtagClamp | .jtagBypass | .jtagQsel .. =>
    [.host]
  | .keepDataAccess .. =>
    waking ++ [.units, .quills, .trackers, .channels, .comparators, .adc, .counters, .dma, .posted, .latches, .reads]
  | .linkTraining .. | .msixUnmask .. | .d0Entry =>
    [.host, .posted]
  | .spWrite .. | .spQwrite .. =>
    waking ++ [.units, .quills, .trackers, .channels, .comparators, .adc, .counters, .cells, .dma, .posted, .latches,
        .reads]
  | .spRead .. | .spQread .. | .servicePortAccessDone =>
    waking ++ [.quills, .trackers, .channels, .comparators, .adc, .cells, .latches, .reads]
  | .spFetch | .spQfetch =>
    [.host, .reads]
  | .qhalt | .qresume | .qbrk .. =>
    [.quills, .host]
  | .qstep =>
    [.quills, .host, .free]
  | .dhalt =>
    [.clock, .time, .host]
  | .dresume =>
    [.time, .host]
  | .dmaBeat .. =>
    [.cells, .dma, .posted]
  | .brownOutEnd | .thermalTripEnd =>
    [.clock, .mode, .power, .free]
  | .adcCtrlWrite .. =>
    waking ++ [.adc]

/-- The parts of the state that a command can change. -/
def touched (i : Instr) : List Part := judging ++ effects i

/-- No raise waits to be judged: what every step leaves. -/
def State.quiet (s : State) : Prop := s.blotter.queue = []

/-- No raise waits to be judged, no injection of R414 is under way, and no error stands on a bus or in the registers. -/
def State.calm (s : State) : Prop :=
  s.quiet ∧ s.blotter.inj.active = false ∧ s.blotter.busErr = 0 ∧ s.blotter.regErr = false

/-- An access by a path takes effect at once: the path reaches the device, the device is up (R432, R433), and no tick is
to be made first (R23). -/
def Reaches (p : Path) (s : State) : Prop :=
  s.calm ∧ pathOpen s p = true ∧ s.power.mode = .up ∧ tickDue s = false

/-- What happens at a nib raises nothing: no raise waits, no event is routed (R287), and its owner's event queue has room
for the records of every stroke it holds. -/
def Unheard (s : State) (n : NibIx) : Prop :=
  s.calm ∧ s.folio.routes = [] ∧ ∀ q, s.nibs[n].owner = some q → s.quills[q].queue.entries.length + 17 ≤ 64

/-- A tracker without its event bits, its record number and its log of past positions: what its motion alone changes. -/
def motionOf (x : Tracker) : Tracker := { x with evtStatus := 0, seq := 0, log := [] }

/-- A feedback channel without its event bits, its record number and its emulator. -/
def countingOf (x : Feedback) : Feedback := { x with evtStatus := 0, seq := 0, emu := {} }

/-- What the last read of a path returned. -/
def lastRead (s : State) : Path → Word
  | .pcie => s.readPcie
  | .sp => s.readSp
  | .scribe => s.readScribe

/-- The register that a command writes: its path, its BAR0 offset (R474, R477) and the value. -/
def registerOf (c : Instr) : Option (Path × Nat × Word) :=
  match c with
  | .keepDataAccess p (some v) => some (p, 0xDC, v)
  | .ringCtrlWrite p false v => some (p, 0x1018, v)
  | .cmdTail p v => some (p, 0x101C, v)
  | .ringCtrlWrite p true v => some (p, 0x102C, v)
  | .rspCons p v => some (p, 0x1034, v)
  | .mailboxGo p => some (p, 0x1050, 1)
  | .trimWrite p v => some (p, 0x2034, v)
  | .syncCtrlWrite p v => some (p, 0x2060, v)
  | .blotterAck p v => some (p, 0x4010, v)
  | .targetAwake p v => some (p, 0x1000C, v)
  | .eicComplete p k false v => some (p, 0x10104 + 16 * k.val, v)
  | .grpCfgWrite p g v => some (p, 0x10400 + 8 * g.val, v)
  | .srcCfgWrite p x v => if 1 ≤ x.val ∧ x.val < 1023 then some (p, 0x11000 + 4 * x.val, v) else none
  | .srcPendingWrite p x => if 1 ≤ x.val ∧ x.val < 1023 then some (p, 0x12000 + 4 * x.val, 1) else none
  | .cqConsWrite p k v => some (p, 0x20028 + 12 * k.val, v)
  | .csCtrlWrite p g v => some (p, 0x20800 + 16 * g.val, v)
  | .dmaDoorbell p d => some (p, 0x21010 + 64 * d.val, 1)
  | .handoverRequest p b v => some (p, 0x30100 + 64 * b.val, v)
  | .mbxWrite p q r v => some (p, 0x40000 + 256 * q.val + if r.val < 16 then 0x68 + 4 * r.val else 0x64, v)
  | .trackerEnable p i v => some (p, 0x50000 + 256 * i.val, v)
  | .tmapFlagsAccess p i (some v) => some (p, 0x50088 + 256 * i.val, v)
  | .learnCtrlWrite p i v => some (p, 0x50090 + 256 * i.val, v)
  | .fbCtrlWrite p b v => some (p, 0x58000 + 128 * b.val, v)
  | .emuCtrlWrite p b v => some (p, 0x5806C + 128 * b.val, v)
  | .acCtrlWrite p a v => some (p, 0x60000 + 32 * a.val, v)
  | .thrWrite p a v => some (p, 0x60004 + 32 * a.val, v)
  | .adcCtrlWrite p v => some (p, 0x60400, v)
  | .nibCtrlWrite p n v => some (p, 0x80000 + 64 * n.val, v)
  | .routeWrite p n v => some (p, 0x8000C + 64 * n.val, v)
  | .inCtrlWrite p n v => some (p, 0x80028 + 64 * n.val, v)
  | .rlCtrlWrite p l v => some (p, 0xC0000 + 16 * l.val, v)
  | .ceCtrlWrite p e v => some (p, 0x100000 + 32 * e.val, v)
  | _ => none

/-- The high word that a command writes of a value that is written whole (R53). -/
def highWordOf (c : Instr) : Option (Path × Nat × Word) :=
  match c with
  | .ceWinWrite p e v => some (p, ceAddr e + 0x18, v)
  | .ceCountWrite p e v => some (p, ceAddr e + 0x0C, v)
  | .dmaHeadWrite p d v => some (p, headAddr d + 4, v)
  | .cqBaseWrite p k v => some (p, cqAddr k + 4, v)
  | _ => none

/-- The one command that the scribe holds, `b`, is in turn and has not started, and nothing keeps its response from being
written (R379 to R381). -/
def Turn (s : State) (op : Nat) (e : CmdEntry) (b : BitVec 512) : Prop :=
  s.calm ∧ s.scribe.queue = [e] ∧ e.bytes = some b ∧ headFor s op = some b
    ∧ (e.mailbox = true ∨ s.scribe.rsp.en = true ∧ rspFull s.scribe.rsp = false)

/-- From `s` to `t` the command `b` of an entry has completed with a status, a detail and results; `before` is what was
written to host memory before its response (R378 to R381). -/
def Answered (s t : State) (e : CmdEntry) (b : BitVec 512) (before : List Posted) (status detail : Nat)
    (r0 r1 : W64) : Prop :=
  let r : Response := {
    seq := e.seq, tag := BitVec.ofNat 16 (cmdTag b), opcode := BitVec.ofNat 8 (cmdOpcode b), status := status
    detail := detail, result0 := r0, result1 := r1, restarted := e.restarted, noIrq := cmdNoIrq b
    mailbox := e.mailbox }
  let k := s.scribe.rsp
  t.scribe.queue = [] ∧ t.scribe.doneSeq = e.seq ∧
    if e.mailbox then t.posted = s.posted ++ before ∧ t.scribe.done = true ∧ t.scribe.busy = false
      ∧ ∀ i : Fin 8, t.scribe.mbx[i.castLE (by decide : 8 ≤ 16)]
          = word32 (BitVec.ofNat 256 (leNat (responseBytes r false))) i
    else t.scribe.rsp.prod = k.prod + 1 ∧ t.posted = s.posted ++ before ++ [.write
      (k.base + BitVec.ofNat 64 (32 * (k.prod.toNat % 2 ^ k.sizeLog2.toNat))) (responseBytes r k.phase)]

/-- The report that a command writes to the address in its first argument, if that is not 0 (R383). -/
def reportOf (b : BitVec 512) (bytes : List Byte) : List Posted :=
  if cmdArg b 0 = 0 then [] else [.write (cmdArg b 0) bytes]

/-- A completion record of channel `c`, as it stands in `x`, can be written: the host can be reached and its ring has
room (R345, R349); the channel holds no records of a stream, and its unit is in force. -/
def RingRoom (s : State) (x : DmaChan) (k : RingIx) : Prop :=
  noRequest s = none ∧ ringOk s.dma.rings[k] = true ∧ ringFull s.dma.rings[k] = false ∧ x.holds = none
    ∧ x.leaving = false

/-- From `s` to `t` channel `c`, which stood as `x`, has written a completion record to ring `k` (R343, R345). -/
def Recorded (s t : State) (c : DmaIx) (x : DmaChan) (k : RingIx) (status : DmaStatus) : Prop :=
  let ring := s.dma.rings[k]
  t.posted = s.posted ++ [.write
      (ring.base + BitVec.ofNat 64 (16 * (ring.prod.toNat % 2 ^ ring.sizeLog2.toNat)))
      (leBytes 16 (BitVec.ofNat 128 (packFields [(64, x.cur.toNat), (15, 0), (1, b2n ring.phase), (8, status.code),
        (8, c.val), (32, x.seq.toNat)])).toNat)]
    ∧ t.dma.rings[k].prod = ring.prod + 1 ∧ t.dma.chans[c].seq = x.seq + 1 ∧ t.dma.chans[c].done = x.done + 1
    ∧ t.dma.chans[c].lastStatus = BitVec.ofNat 8 status.code

/-- The word `m` stands at the PC of quill `q`, the quill executes it in the present cycle, nothing stops the quill at
it, and neither this slot nor the sequencer has acted (R208, R232, R236). -/
def Executes (s : State) (q : QuillIx) (slot : Slot) (m : Micro) : Prop :=
  s.calm ∧ computesNow s q = true ∧ slot ∉ s.quills[q].engine.done ∧ Slot.seq ∉ s.quills[q].engine.done
    ∧ (∃ w, fetch s q = .clean w ∧ m = microOf w) ∧ stopCauses s q m = []

/-- R244: FRAMES once the first slot of a word acts: the first word of a frame counts it. -/
def framesBegun (x : Quill) : W64 := if x.engine.done = [] ∧ x.engine.cycle = 0 then x.frames + 1 else x.frames

/-- A state in which one slot of the word of quill `q` has acted on the engine, and nothing else has happened. -/
def slotActs (s : State) (q : QuillIx) (slot : Slot) (f : Engine → Engine) : State :=
  modQuill s q fun x => { x with
    frames := framesBegun x
    engine := { f x.engine with done := slot :: x.engine.done } }

/-- The sparse stores of the device are in their canonical form: the inkwell contents, the microcode stores, and the
read and write latches of the access paths. -/
def State.canonical (s : State) : Prop :=
  Memory.wf s.ink.cells = true ∧ (∀ p : PhysIx, sparseWf 0 s.stores[p] = true) ∧ sparseWf 0 s.rlatch = true
    ∧ sparseWf 0 s.wlatch = true

end Sys2Proof.Machine
end

