-- ==== Sys2Proof/Certificates/Slice0/Obligations.lean ====
section
/-! DEFINITION. The statements for the provers, family by family. -/
open Sys2Proof Sys2Proof.Machine

/-- A step runs the command at the front of the queue, first in, first out. -/
def Obligations.StepTakesTheFront : Prop :=
  ∀ (c : Instr) (rest : List Instr) (s : State), s.pending = c :: rest → step s = exec c { s with pending := rest }

/-- R33, R42, and log entry 1 (the model's choice of what a step on an empty queue is). -/
def Obligations.EmptyQueue : Prop :=
  ∀ s : State, s.quiet → s.pending = [] →
    (∀ c, dueCommand s = some c → step s = exec c s)
    ∧ (s.power.mode = .reset → s.time.rulings = false → dueCommand s = none ∧ step s = .next s)
    ∧ (s.power.mode = .up → s.time.stopped = false → tickDue s = false → dueCommand s = none →
        ∃ t, step s = .next t ∧ t.pending = [] ∧ t.time.tb = s.time.tb + 1 ∧ t.time.frame = s.time.frame
          ∧ t.time.cycle = (if s.time.rulings then s.time.cycle + 1 else s.time.cycle)
          ∧ t.time.period = s.time.period
          ∧ (Config.upset s.free (s.time.tb + 1) = none → t.stores = s.stores
              ∧ ∀ q : QuillIx, t.quills[q].engine = s.quills[q].engine))

/-- Every command completes, and changes only the parts of the state that `touched` names for it; an access in cycle 0 of
a tick acts on the state after the commit of that tick (R23, R253, R262). -/
def Obligations.CommandFrames : Prop :=
  ∀ (c : Instr) (s : State), ∃ t, exec c s = .next t ∧ t.quiet ∧ t.pending = s.pending
    ∧ (Within (touched c) s t ∨ accesses c = true ∧ Within (touched c) (afterTick s) t)

/-- The canonical form of the inkwell contents, the microcode stores and the latches is kept by every step. -/
def Obligations.CanonicalKept : Prop :=
  ∀ s : State, s.canonical → ∃ t, step s = .next t ∧ t.canonical ∧ t.quiet

/-- R11, R35, R37, R42, R430; the values that the spec does not give are those of log entry 2. -/
def Obligations.ResetState : Prop :=
  let s := State.reset
  s.pending = [] ∧ s.quiet ∧ s.canonical ∧ s.power.mode = .up ∧ s.time.rulings = true ∧ s.time.stopped = false
    ∧ s.time.period = 4000 ∧ s.time.frame = 0 ∧ s.time.nextFrame = 0 ∧ s.time.trim = 0 ∧ tickDue s = true
    ∧ dueCommand s = some .tick ∧ s.folio.loaded = false ∧ s.folio.started = false ∧ s.folio.routes = []
    ∧ (∀ q : QuillIx, s.quills[q].active = false ∧ s.quills[q].engine.pc = 0)
    ∧ (∀ n : NibIx, s.nibs[n].run = false ∧ s.nibs[n].drive = .z ∧ s.nibs[n].owner = none)
    ∧ (∀ i : TrackIx, s.trackers[i].cfg.run = false) ∧ (∀ e : CeIx, s.counters[e].run = false)
    ∧ (∀ c : DmaIx, s.dma.chans[c].state = .idle) ∧ ∀ b : InkIx, s.ink.banks[b].phys = some b.val

/-- R211, R216, R219, R232: an ALU operation of a slot. The values of the operations in a lane are said by the
statements that follow. -/
def Obligations.AluSlotActs : Prop :=
  ∀ (s : State) (q : QuillIx) (x : AluSlot) (op : AluOp) (c : Instr) (m : Micro) (mode : LaneMode),
    aluCommand q x op = some c → Executes s q (aluSlot x) m → aluOpOf (slotOp m x) = some op →
    laneModeOf (slotOp m x) = some mode →
    exec c s = .next (slotActs s q (aluSlot x) fun e =>
      let r := aluCompute op mode (readReg e (slotSrc1 m x)) (slotOperand2 e m x mode) (readReg e (slotDest m x))
      { e with
        newFlagsA := if x = .a then some r.2 else e.newFlagsA
        newFlagsB := if x = .b then some r.2 else e.newFlagsB
        results := if op = .cmp ∨ op = .tst then e.results else e.results ++
          [{ due := e.cycle, dest := slotDest m x, kind := if x = .a then .aluA else .aluB, value := r.1,
             flag := .none }] })

/-- R210, R219: the lanes of an ALU result; R221: the flags of a slot. -/
def Obligations.AluLanesAndFlags : Prop :=
   (∀ (op : AluOp) (a b d : W128),
      (aluCompute op .one a b d).1 = (laneOp op a b d).val
      ∧ (op ≠ .splat → op ≠ .lrot →
          (∀ i, i < 2 → word64 (aluCompute op .two a b d).1 i = (laneOp op (word64 a i) (word64 b i) (word64 d i)).val)
          ∧ ∀ i, i < 4 → word32 (aluCompute op .four a b d).1 i = (laneOp op (word32 a i) (word32 b i) (word32 d i)).val)
      ∧ (∀ i, i < 2 → word64 (aluCompute .splat .two a b d).1 i = word64 a 0
          ∧ word64 (aluCompute .lrot .two a b d).1 i = word64 a ((i + 1) % 2))
      ∧ ∀ i, i < 4 → word32 (aluCompute .splat .four a b d).1 i = word32 a 0
          ∧ word32 (aluCompute .lrot .four a b d).1 i = word32 a ((i + 3) % 4))
    ∧ (∀ (op : AluOp) (a b d : W128), op ≠ .splat → op ≠ .lrot →
        (let r := aluCompute op .one a b d; let l := laneOp op a b d
         r.2 = { z := l.val == 0, n := l.val.msb, c := l.c, v := l.v, e := r.1 == 0 })
        ∧ (let r := aluCompute op .two a b d; let l := laneOp op (word64 a 0) (word64 b 0) (word64 d 0)
           r.2 = { z := word64 r.1 0 == 0, n := (word64 r.1 0).msb, c := l.c, v := l.v, e := r.1 == 0 })
        ∧ (let r := aluCompute op .four a b d; let l := laneOp op (word32 a 0) (word32 b 0) (word32 d 0)
           r.2 = { z := word32 r.1 0 == 0, n := (word32 r.1 0).msb, c := l.c, v := l.v, e := r.1 == 0 }))

/-- R219, R221: sums and differences in a lane of `w` bits. -/
def Obligations.AluCarriesAndSaturates : Prop :=
  ∀ (w : Nat) (a b d : BitVec w), 0 < w →
    let lo : Int := -(2 ^ (w - 1))
    let hi : Int := 2 ^ (w - 1) - 1
    ((laneOp .add a b d).c = decide (2 ^ w ≤ a.toNat + b.toNat)
      ∧ (laneOp .add a b d).v = decide (a.toInt + b.toInt < lo ∨ hi < a.toInt + b.toInt))
    ∧ ((laneOp .sub a b d).c = decide (a.toNat < b.toNat)
      ∧ (laneOp .sub a b d).v = decide (a.toInt - b.toInt < lo ∨ hi < a.toInt - b.toInt)
      ∧ (laneOp .cmp a b d).c = (laneOp .sub a b d).c ∧ (laneOp .cmp a b d).v = (laneOp .sub a b d).v)
    ∧ ((laneOp .adds a b d).val.toInt = max lo (min hi (a.toInt + b.toInt))
      ∧ (laneOp .adds a b d).v = decide (a.toInt + b.toInt < lo ∨ hi < a.toInt + b.toInt))
    ∧ ((laneOp .subs a b d).val.toInt = max lo (min hi (a.toInt - b.toInt))
      ∧ (laneOp .subs a b d).v = decide (a.toInt - b.toInt < lo ∨ hi < a.toInt - b.toInt))

/-- R219: the operations on bits, read one bit of the lane at a time. -/
def Obligations.AluShiftsAndFields : Prop :=
  ∀ (w : Nat) (a b d : BitVec w) (i : Nat), i < w →
    let p := fld b 6 0
    let k := fld b 14 8
    let m := fld b 7 0
    (laneOp .rol a b d).val = a.rotateLeft (b.toNat % w)
    ∧ (laneOp .ror a b d).val = a.rotateRight (b.toNat % w)
    ∧ (laneOp .bfx a b d).val.getLsbD i = (decide (i < k) && a.getLsbD (p + i))
    ∧ (laneOp .bfi a b d).val.getLsbD i = (if p ≤ i ∧ i < p + k then a.getLsbD (i - p) else d.getLsbD i)
    ∧ (laneOp .zext a b d).val.getLsbD i = (decide (i < m) && a.getLsbD i)
    ∧ (laneOp .sext a b d).val.getLsbD i = (if i < m then a.getLsbD i else decide (0 < m) && a.getLsbD (m - 1))

/-- R222, R232: MOP. The products are written out; the quotients are those of `divValue`, which
`DivideExceptions` describes. -/
def Obligations.MultiplierActs : Prop :=
  ∀ (s : State) (q : QuillIx) (m : Micro), Executes s q .mul m →
    let queue (latency : Nat) (f : W128 → W128 → W128) (g : W128 → W128 → EventFlag) (kind : ResultKind) : State :=
      slotActs s q .mul fun e => { e with results := e.results ++
        [{ due := e.cycle + latency - 1, dest := m.md, kind := kind, value := f (readReg e m.ms1) (readReg e m.ms2),
           flag := g (readReg e m.ms1) (readReg e m.ms2) }] }
    (m.mop = 1 → exec (.mulU q) s = .next (queue 3
      (fun a b => BitVec.ofNat 128 ((word64 a 0).toNat * (word64 b 0).toNat)) (fun _ _ => .none) .mul))
    ∧ (m.mop = 2 → exec (.mulS q) s = .next (queue 3
      (fun a b => BitVec.ofInt 128 ((word64 a 0).toInt * (word64 b 0).toInt)) (fun _ _ => .none) .mul))
    ∧ (m.mop = 3 → exec (.mul2u q) s = .next (queue 3
      (fun a b => BitVec.ofNat 64 ((word32 a 2).toNat * (word32 b 2).toNat)
        ++ BitVec.ofNat 64 ((word32 a 0).toNat * (word32 b 0).toNat)) (fun _ _ => .none) .mul))
    ∧ (m.mop = 4 → exec (.mul2s q) s = .next (queue 3
      (fun a b => BitVec.ofInt 64 ((word32 a 2).toInt * (word32 b 2).toInt)
        ++ BitVec.ofInt 64 ((word32 a 0).toInt * (word32 b 0).toInt)) (fun _ _ => .none) .mul))
    ∧ (m.mop = 5 → exec (.mulQs q) s = .next (queue 3
      (fun a b => BitVec.ofInt 128 ((word64 a 0).toInt * (word64 b 0).toInt / 2 ^ 32)) (fun _ _ => .none) .mul))
    ∧ (m.mop = 8 → exec (.divU q) s = .next (queue 20
      (fun a b => (divValue .u a b).rem ++ (divValue .u a b).quot) (fun a b => .dx (divValue .u a b).dx) .div))
    ∧ (m.mop = 9 → exec (.divS q) s = .next (queue 20
      (fun a b => (divValue .s a b).rem ++ (divValue .s a b).quot) (fun a b => .dx (divValue .s a b).dx) .div))
    ∧ (m.mop = 10 → exec (.divUf q) s = .next (queue 20
      (fun a b => (divValue .uf a b).rem ++ (divValue .uf a b).quot) (fun a b => .dx (divValue .uf a b).dx) .div))

/-- R222, R223: the values of the divider. -/
def Obligations.DivideExceptions : Prop :=
  ∀ (a b : W128),
    let n := word64 a 0
    let d := word64 b 0
    (d = 0 → divValue .u a b = { quot := BitVec.allOnes 64, rem := n, dx := true }
      ∧ divValue .uf a b = { quot := BitVec.allOnes 64, rem := n, dx := true }
      ∧ divValue .s a b = { quot := if 0 ≤ n.toInt then 0x7FFFFFFFFFFFFFFF else 0x8000000000000000, rem := n, dx := true })
    ∧ (d ≠ 0 → (divValue .u a b).dx = false
      ∧ n.toNat = (divValue .u a b).quot.toNat * d.toNat + (divValue .u a b).rem.toNat
      ∧ (divValue .u a b).rem.toNat < d.toNat)
    ∧ (d ≠ 0 → 2 ^ 64 ≤ n.toNat * 2 ^ 32 / d.toNat →
        divValue .uf a b = { quot := BitVec.allOnes 64, rem := 0, dx := true })
    ∧ (d ≠ 0 → n.toNat * 2 ^ 32 / d.toNat < 2 ^ 64 → (divValue .uf a b).dx = false
      ∧ n.toNat * 2 ^ 32 = (divValue .uf a b).quot.toNat * d.toNat + (divValue .uf a b).rem.toNat
      ∧ (divValue .uf a b).rem.toNat < d.toNat)
    ∧ (n = 0x8000000000000000 → d = 0xFFFFFFFFFFFFFFFF →
        divValue .s a b = { quot := 0x8000000000000000, rem := 0, dx := true })
    ∧ (d ≠ 0 → ¬(n = 0x8000000000000000 ∧ d = 0xFFFFFFFFFFFFFFFF) → (divValue .s a b).dx = false
      ∧ (divValue .s a b).quot.toInt = n.toInt.tdiv d.toInt ∧ (divValue .s a b).rem.toInt = n.toInt.tmod d.toInt)

/-- R224, R225, R226, R232: the read of a word. -/
def Obligations.InkPortReads : Prop :=
  ∀ (s : State) (q : QuillIx) (m : Micro) (v : W128),
    let x := s.quills[q]
    let a := (readReg x.engine m.ia).extractLsb' 0 19 + (if m.isel = 3 then m.imm.truncate 19 else 0)
    let word : Fin 4096 := (a.extractLsb' 0 12).toFin
    let bank : InkIx := (a.extractLsb' 12 6).toFin
    Executes s q .inkRead m →
    (a.getLsbD 18 = true ∧ v = contextWord x word
      ∨ a.getLsbD 18 = false ∧ ownsBank s q bank = true
        ∧ ∃ p, readWord s bank word = some p ∧ errorAt s.ink.errors p = none ∧ v = startWord s p) →
    let read (e : Engine) : PendingResult :=
      { due := e.cycle + 1, dest := m.id, kind := .ink, value := v, flag := .none }
    let bumped (e : Engine) : W128 :=
      let g := readReg e m.ia
      let g1 := setFld g 11 0 (fld g 11 0 + 1)
      if m.iop.toNat / 4 = 2 then setFld g1 43 32 (fld g 43 32 + 1) else g1
    (m.iop.toNat % 4 = 1 →
      exec (.inkRd q) s = .next (slotActs s q .inkRead fun e => { e with results := e.results ++ [read e] }))
    ∧ (m.iop.toNat % 4 = 2 →
      exec (.inkRdx q) s = .next (slotActs s q .inkRead fun e => { e with
        results := e.results ++ [read e] ++
          [{ due := e.cycle, dest := m.ia, kind := .postInc, value := bumped e, flag := .none }] }))

/-- R224, R225, R226: the write of a word to a bank of the quill. -/
def Obligations.InkPortWrites : Prop :=
  ∀ (s : State) (q : QuillIx) (m : Micro),
    let x := s.quills[q]
    let a := (readReg x.engine m.ia).extractLsb' 32 19 + (if m.isel = 3 then m.imm.truncate 19 else 0)
    let word : Fin 4096 := (a.extractLsb' 0 12).toFin
    let bank : InkIx := (a.extractLsb' 12 6).toFin
    Executes s q .inkWrite m → a.getLsbD 18 = false → ownsBank s q bank = true →
    let put (e : Engine) (enables : BitVec 16) : Engine :=
      { e with newWrite := some { bank := bank, word := word, enables := enables, data := readReg e m.id } }
    (m.iop.toNat / 4 = 1 →
      exec (.inkWr q) s = .next (slotActs s q .inkWrite fun e => put e 0xFFFF))
    ∧ (m.iop.toNat / 4 = 2 →
      exec (.inkWrx q) s = .next (slotActs s q .inkWrite fun e => { put e 0xFFFF with
        results := if m.iop.toNat % 4 = 2 then e.results else e.results ++
          [{ due := e.cycle, dest := m.ia, kind := .postInc, flag := .none
             value := setFld (readReg e m.ia) 43 32 (fld (readReg e m.ia) 43 32 + 1) }] }))
    ∧ (m.iop.toNat / 4 = 3 →
      exec (.inkWrb q) s = .next (slotActs s q .inkWrite fun e => put e ((readReg e m.ia).extractLsb' 96 16)))

/-- R227, R232: EOP. -/
def Obligations.EventPortActs : Prop :=
  ∀ (s : State) (q : QuillIx) (m : Micro), Executes s q .event m →
    let x := s.quills[q]
    let oldest : Option W128 :=
      if x.queue.popped < x.queue.gathered then (x.queue.entries[x.queue.popped]?).map (·.record) else none
    let queue (e : Engine) (latency : Nat) (v : W128) (f : EventFlag) : Engine := { e with
      results := e.results ++ [{ due := e.cycle + latency - 1, dest := m.ed, kind := .event, value := v, flag := f }] }
    (m.eop = 1 → exec (.evpPop q) s = .next (slotActs s q .event fun e =>
      { queue e 2 (oldest.getD 0) (.ev oldest.isSome) with newPop := oldest.isSome }))
    ∧ (m.eop = 2 → exec (.evpPeek q) s = .next (slotActs s q .event fun e =>
      queue e 2 (oldest.getD 0) (.ev oldest.isSome)))
    ∧ (m.eop = 3 → exec (.evpCount q) s = .next (slotActs s q .event fun e =>
      queue e 2 (BitVec.ofNat 128 ((x.queue.gathered - x.queue.popped) % 128)) .none))
    ∧ (m.eop = 4 → exec (.evpPred q) s = .next (slotActs s q .event fun e =>
      let g := readReg e m.ed
      let p := framePred s q (g.extractLsb' 32 4).toFin (fld g 37 36) (word32 g 0)
      queue e 8 (match p with | some t => BitVec.ofNat 128 (2 ^ 64 + t.toNat) | none => 0) (.predv p.isSome)))

/-- R228 to R231: COP. -/
def Obligations.CommitPortIssues : Prop :=
  ∀ (s : State) (q : QuillIx) (m : Micro), Executes s q .commit m →
    let issue (r : W128 → CommitRec) : State :=
      slotActs s q .commit fun e => { e with newRecord := some (r (readReg e m.cs)) }
    (m.cop = 1 → exec (.cmtStroke q) s = .next (issue .stroke))
    ∧ (m.cop = 2 → exec (.cmtRegw q) s = .next (issue .regw))
    ∧ (m.cop = 3 → exec (.cmtVpos q) s = .next (issue .vpos))
    ∧ (m.cop = 4 → exec (.cmtVdyn q) s = .next (issue .vdyn))
    ∧ (m.cop = 5 → exec (.cmtSignal q) s = .next (issue fun g => .signal (g.extractLsb' 0 6).toFin))

/-- R213 to R215, R217, R234, R241: SEQ. -/
def Obligations.SequencerActs : Prop :=
  ∀ (s : State) (q : QuillIx) (m : Micro), Executes s q .seq m →
    let x := s.quills[q]
    let e := x.engine
    let wrap (n : Nat) : BitVec 13 := BitVec.ofNat 13 (if x.halfmode then n % 4096 else n)
    let next := wrap (e.pc.toNat + 1)
    let target := wrap m.target.toNat
    let c := condition x m.cond
    let after (f : Engine → Engine) (halt : Bool) : State := modQuill s q fun y => { y with
      frames := framesBegun y
      engine := { f e with done := Slot.seq :: e.done }
      haltReq := y.haltReq || halt }
    let goes (pc : BitVec 13) : State := after (fun e => { e with pc := pc }) false
    (m.seq = 0x0 → exec (.seqNext q) s = .next (goes next))
    ∧ (m.seq = 0x1 → exec (.seqJmp q) s = .next (goes target))
    ∧ (m.seq = 0x2 → exec (.seqJt q) s = .next (goes (if c then target else next)))
    ∧ (m.seq = 0x3 → exec (.seqJf q) s = .next (goes (if c then next else target)))
    ∧ (m.seq = 0x4 → exec (.seqCall q) s = .next (after (fun e => { e with pc := target, stack := next :: e.stack }) false))
    ∧ (m.seq = 0x5 → exec (.seqCallt q) s = .next (if c then
        after (fun e => { e with pc := target, stack := next :: e.stack }) false else goes next))
    ∧ (m.seq = 0x6 → ∀ r rest, e.stack = r :: rest →
        exec (.seqRet q) s = .next (after (fun e => { e with pc := r, stack := rest }) false))
    ∧ (m.seq = 0x7 → ∀ r rest, e.stack = r :: rest → exec (.seqRett q) s = .next (if c then
        after (fun e => { e with pc := r, stack := rest }) false else goes next))
    ∧ (m.seq = 0x8 → exec (.seqLoop0 q) s = .next (if e.lc0 = 0 then goes next else
        after (fun e => { e with pc := target, lc0 := e.lc0 - 1 }) false))
    ∧ (m.seq = 0x9 → exec (.seqLoop1 q) s = .next (if e.lc1 = 0 then goes next else
        after (fun e => { e with pc := target, lc1 := e.lc1 - 1 }) false))
    ∧ (m.seq = 0xA → exec (.seqDispatch q) s = .next
        (goes (wrap (m.target.toNat + (readReg e m.cond.toFin).toNat % 256))))
    ∧ (m.seq = 0xB → exec (.seqYield q) s = .next (after (fun e => { e with pc := next, yielding := true }) false))
    ∧ (m.seq = 0xC → exec (.seqYieldt q) s = .next (if c then
        after (fun e => { e with pc := next, yielding := true }) false else goes next))
    ∧ (m.seq = 0xD → exec (.seqLdlc q) s = .next (after (fun e => { e with
        pc := next
        lc0 := if m.cond.getLsbD 0 then e.lc0 else m.target.zeroExtend 16
        lc1 := if m.cond.getLsbD 0 then m.target.zeroExtend 16 else e.lc1 }) false))
    ∧ (m.seq = 0xE → exec (.seqLdlcr q) s = .next (after (fun e => { e with
        pc := next
        lc0 := if m.target.getLsbD 0 then e.lc0 else (readReg e m.cond.toFin).truncate 16
        lc1 := if m.target.getLsbD 0 then (readReg e m.cond.toFin).truncate 16 else e.lc1 }) false))
    ∧ (m.seq = 0xF → exec (.seqBreak q) s = .next (after (fun e => { e with pc := next }) (x.brkEn && !x.halted)))

/-- R208. A word whose ALU operation names G0 or G63 still writes its flags. -/
def Obligations.QuillRegisters : Prop :=
  ∀ (e : Engine) (i j : Fin 64) (v : W128),
    readReg e 0 = 0 ∧ readReg e 63 = 0x40000
    ∧ (i = 0 ∨ i = 63 → writeReg e i v = e)
    ∧ (i ≠ 0 → i ≠ 63 → readReg (writeReg e i v) i = v)
    ∧ (i ≠ j → readReg (writeReg e i v) j = readReg e j)
    ∧ (∀ f, e.newFlagsA = some f → (endWord e).flagsA = f)
    ∧ ∀ f, e.newFlagsB = some f → (endWord e).flagsB = f

/-- R216, R232 to R234, R241: the end of a word. R236, R255: a word that stops, shown on the sequencer's operation of
the word, the one that every word has. -/
def Obligations.WordsEndAndStop : Prop :=
   (∀ (s : State) (q : QuillIx), computesNow s q = true → Slot.seq ∈ s.quills[q].engine.done →
      ∃ t, exec (.resultWriteback q) s = .next t
        ∧ Within (.quills :: judging) s t
        ∧ let e := s.quills[q].engine
          let y := t.quills[q]
          y.engine.cycle = e.cycle + 1 ∧ y.engine.done = []
          ∧ (∀ r : Fin 64, (∀ x ∈ e.results, x.due ≤ e.cycle → x.dest ≠ r) → readReg y.engine r = readReg e r)
          ∧ (∀ x ∈ e.results, x.due ≤ e.cycle → x.dest ≠ 0 → x.dest ≠ 63 →
              (∀ z ∈ e.results, z.due ≤ e.cycle → z.dest = x.dest → z = x) → readReg y.engine x.dest = x.value)
          ∧ y.engine.flagsA = e.newFlagsA.getD e.flagsA ∧ y.engine.flagsB = e.newFlagsB.getD e.flagsB
          ∧ y.engine.records = e.records ++ e.newRecord.toList
          ∧ y.engine.writes = e.writes ++ e.newWrite.toList
          ∧ (e.yielding = true → y.engine.phase = .yielded ∧ y.engine.results = []
              ∧ y.yieldLast = BitVec.ofNat 16 (e.cycle + 1))
          ∧ (e.yielding = false → y.engine.phase = e.phase ∧ y.yieldLast = s.quills[q].yieldLast
              ∧ y.engine.results = e.results.filter fun r => !(r.due ≤ e.cycle))
          ∧ ∀ r : QuillIx, r ≠ q → t.quills[r].engine = s.quills[r].engine)
    ∧ (∀ (s : State) (q : QuillIx) (w : BitVec 160) (cause : StopCause), s.calm → computesNow s q = true →
        Slot.seq ∉ s.quills[q].engine.done → fetch s q = .clean w → stopCauses s q (microOf w) = [cause] →
        ∃ t, exec (seqCommand q (microOf w).seq.toNat) s = .next t
          ∧ let x := s.quills[q]
            let y := t.quills[q]
            y.engine = { x.engine with phase := .stopped cause, results := [] }
            ∧ y.ovrCause = BitVec.ofNat 32 (cause.code + 2 ^ 16 * x.engine.pc.toNat)
            ∧ y.overruns = satAdd x.overruns 1)

/-- R17, R236. -/
def Obligations.BudgetEnds : Prop :=
  ∀ (s : State) (q : QuillIx), s.quills[q].active = true → s.quills[q].engine.phase = .computing →
    s.quills[q].halted = false → s.time.cycle + 32 = s.time.period →
    ∃ t, exec (.budgetExpiry q) s = .next t
      ∧ let x := s.quills[q]
        let y := t.quills[q]
        y.engine = { x.engine with phase := .stopped .budget, results := [] }
        ∧ y.ovrCause = BitVec.ofNat 32 (1 + 2 ^ 16 * x.engine.pc.toNat)
        ∧ y.overruns = satAdd x.overruns 1
        ∧ Within (.quills :: judging) s t

/-- R238, R411. -/
def Obligations.Scrubbing : Prop :=
  ∀ (s : State) (p : PhysIx) (w : Fin 8192), s.calm → s.canonical →
    (∀ m ∈ s.pool.moves, m.source ≠ p ∧ m.target ≠ p) →
    (∀ d, bchDecode (storeWord s p w) = .clean d → exec (.ucodeScrub p w) s = .next s)
    ∧ (∀ d, bchDecode (storeWord s p w) = .corrected d → ∃ t, exec (.ucodeScrub p w) s = .next t
        ∧ storeWord t p w = bchEncode d
        ∧ (∀ (r : PhysIx) (a : Nat), (r ≠ p ∨ a ≠ w.val) → storeWord t r a = storeWord s r a)
        ∧ (∀ q, quillOfStore s p = some q → t.quills[q].eccScrubbed = satAdd s.quills[q].eccScrubbed 1)
        ∧ Within [.stores, .quills] s t)
    ∧ (bchDecode (storeWord s p w) = .uncorrectable → ∃ t, exec (.ucodeScrub p w) s = .next t
        ∧ t.pool.badStores = setBit s.pool.badStores p true ∧ t.stores = s.stores)

/-- R241 to R243, R61: debug access. R426, R457, R458: the test access port. -/
def Obligations.DebugAndTestPort : Prop :=
   (∀ (s : State), s.calm → s.power.mode ≠ .standby → s.scribe.keyHash = none →
      let q : QuillIx := s.host.jtagSel
      let x := s.quills[q]
      (∀ v, ∃ t, exec (.jtagQsel v) s = .next t ∧ t.host.jtagSel = v.toFin ∧ t.host.scan = 0x20 ∧ Within [.host] s t)
      ∧ (x.halted = false → ∃ t, exec .qhalt s = .next t ∧ t.host.scan = 0x21
          ∧ (t.quills[q].haltReq = true ∧ t.quills[q].halted = false
            ∨ t.quills[q].halted = true ∧ t.quills[q].withheld = true)
          ∧ ∀ r : QuillIx, r ≠ q → t.quills[r].halted = s.quills[r].halted)
      ∧ (x.halted = true → x.frozen = true → x.engine.done = [] → (∃ w, fetch s q = .clean w ∧ stopCauses s q (microOf w) = []) →
          ∃ t, exec .qstep s = .next t ∧ t.quills[q].engine.cycle = x.engine.cycle + 1 ∧ t.quills[q].halted = true)
      ∧ (x.halted = true → ∃ t, exec .qresume s = .next t ∧ t.quills[q].halted = false ∧ t.quills[q].frozen = false
          ∧ t.quills[q].skip = true ∧ t.quills[q].engine.phase = .idle ∧ t.quills[q].engine.records = []
          ∧ Within [.quills, .host] s t)
      ∧ (∀ b, ∃ t, exec (.qbrk b) s = .next t ∧ t.quills[q].brkEn = b ∧ Within [.quills, .host] s t)
      ∧ (s.power.mode = .up → s.host.dhalt = false → ∃ t, exec .dhalt s = .next t ∧ t.host.dhalt = true
          ∧ t.time.stopped = true ∧ t.time.rulings = false ∧ t.time.tb = s.time.tb ∧ Within [.host, .clock, .time] s t)
      ∧ (s.power.mode = .up → s.host.dhalt = true → ∃ t, exec .dresume s = .next t ∧ t.host.dhalt = false
          ∧ t.time.resume = true ∧ Within [.host, .time] s t))
    ∧ (∀ (s : State), s.quiet → s.power.mode ≠ .standby →
        let scans (c : Instr) (code : Byte) (refused : Bool) : Prop := ∃ t, exec c s = .next t ∧ t.host.scan = code
          ∧ t.host.bscanRefused = (s.host.bscanRefused || refused) ∧ Within [.host] s t
        (scans .jtagExtest (if s.folio.started then 0xFF else 0x00) s.folio.started
          ∧ scans .jtagHighz (if s.folio.started then 0xFF else 0x03) s.folio.started
          ∧ scans .jtagClamp (if s.folio.started then 0xFF else 0x04) s.folio.started
          ∧ scans .jtagSamplePreload 0x02 false ∧ scans .jtagBypass 0xFF false ∧ scans .jtagIdcode 0x01 false)
        ∧ (∃ t, exec .jtagIdcode s = .next t ∧ t.host.idcode = 0x173164F3)
        ∧ (∃ t, exec .trstN s = .next t ∧ t.host.scan = 0x01 ∧ t.host.jtagSel = 0 ∧ Within [.host] s t)
        ∧ (s.scribe.keyHash.isSome = true → ∀ c ∈ [Instr.qhalt, .qstep, .qresume, .qbrk true, .qbrk false, .dhalt, .dresume],
            ∃ t, exec c s = .next t ∧ t.host.scan = 0xFF ∧ t.host.privRefused = true ∧ Within [.host] s t))

/-- R111, R118, R120, R132, R139, R158: the first edge or the action of a stroke. `t` is the state after the act and
`settle t` the same with the raises of the act judged (R397); the fire and placement times are those the model's
readings of R118 and R120 give (log entries 150, 153 and 155). -/
def Obligations.StrokesAct : Prop :=
  ∀ (s : State) (n : NibIx) (k : SlotIx),
    let x := s.nibs[n]
    let reads (c : Instr) (clean : Prop) (r : State → Prop) : Prop :=
      ∃ t, exec c s = .next (settle t) ∧ r t ∧ (Unheard s n → clean → settle t = t)
    let does (c : Instr) (r : State → Prop) : Prop := reads c True r
    (∀ v, getSlot x k = some v → v.locked = true → v.placed = none → slotDue s n k = true →
      let is (a : Action) : Prop := strokeAction v.raw = some a
      let drives (c : Instr) (d : Drive) : Prop := does c fun t => t.nibs[n].drive = d
        ∧ getSlot t.nibs[n] k = none ∧ t.nibs[n].lastPlan = some v.fire
      let begins (c : Instr) (d : Drive) (plan : W64) (fin : Option W64) : Prop := does c fun t => t.nibs[n].drive = d
        ∧ (getSlot t.nibs[n] k).map (fun w => (w.placed, w.next)) = some (some (edgeTime x plan v.place).1, fin)
        ∧ t.nibs[n].lastPlan = some plan
      let skipped (c : Instr) : Prop := does c fun t => t.nibs[n].drive = x.drive ∧ getSlot t.nibs[n] k = none
        ∧ t.nibs[n].lost = satAdd x.lost 1
      let pulses (c : Instr) (d : Drive) (fin : Option W64) : Prop :=
        let room (e : W64) : Bool := v.flags.truncated || !notAfter e ((edgeTime x v.fire v.place).1 + 8)
        ((∀ e, (v.nextPlan.orElse fun _ => fin) = some e → room e = true) → begins c d v.fire fin)
        ∧ (∀ e, (v.nextPlan.orElse fun _ => fin) = some e → room e = false → skipped c)
      let planned (j : Nat) : W64 := v.fire + BitVec.ofNat 64 (2 * j * burstHalf v.raw)
      let arg := strokeArg v.raw
      let bits := if arg / 4096 % 65536 = 0 then 65536 else arg / 4096 % 65536
      let past := (v.place - v.fire).toNat / bitEighths x
      let i := if patternLoops x then past % bits else past
      let word := if i < bits then (patternWord s n (Fin.ofNat 4096 (arg % 4096)) i).1 else 0
      (is .set → drives (.strokeSet n k) .high)
      ∧ (is .clear → drives (.strokeClear n k) .low)
      ∧ (is .toggle → drives (.strokeToggle n k) (if x.drive = .high then .low else .high))
      ∧ (is .float → drives (.strokeFloat n k) .z)
      ∧ (is .safe → drives (.strokeSafe n k) (safeLevel x))
      ∧ (is .pulse → pulses (.strokePulse n k) .high (some (v.fire + BitVec.ofNat 64 arg)))
      ∧ (is .pulseLow → pulses (.strokePulseLow n k) .low (some (v.fire + BitVec.ofNat 64 arg)))
      ∧ (is .pulseAngle → pulses (.strokePulseAngle n k) .high v.next)
      ∧ (is .burst → (burstFirst v = none → skipped (.strokeBurst n k))
          ∧ ∀ j, burstFirst v = some j →
            (precedes (planned j) v.place = true ∨ planned j = v.place →
              begins (.strokeBurst n k) .high (planned j) (some (burstFall v j)))
            ∧ (precedes (planned j) v.place = false → planned j ≠ v.place → does (.strokeBurst n k) fun t =>
              t.nibs[n].drive = x.drive ∧ getSlot t.nibs[n] k = some { v with place := planned j }))
      ∧ (is .pwmLoad → does (.strokePwmLoad n k) fun t =>
          t.nibs[n].param1 = BitVec.ofNat 32 arg ∧ getSlot t.nibs[n] k = none)
      ∧ (is .patternStart → reads (.strokePatternStart n k) (s.ink.errors = []) fun t =>
          t.nibs[n].drive = (if i < bits then bitDrive word i else if x.param0.getLsbD 7 then .high else .low)
          ∧ t.nibs[n].lastPlan = some v.fire
          ∧ t.nibs[n].pattern = some {
              start := Fin.ofNat 4096 (arg % 4096), bits := bits, index := min (i + 1) bits
              base := v.fire + BitVec.ofNat 64 ((past - i) * bitEighths x), buf := word, slot := k }
          ∧ (getSlot t.nibs[n] k).map (fun w => (w.placed, w.next)) = some (some (edgeTime x v.fire v.place).1, none))
      ∧ (is .patternStop → drives (.strokePatternStop n k) (if x.param0.getLsbD 7 then .high else .low)
          ∧ does (.strokePatternStop n k) fun t => t.nibs[n].pattern = none)
      ∧ (is .captureArm → does (.strokeCaptureArm n k) fun t => getSlot t.nibs[n] k = none
          ∧ t.nibs[n].inp.windows = if x.inp.ctrl.getLsbD 3 then
              { opened := v.place, closes := if arg = 0 then none else some (v.place + BitVec.ofNat 64 arg) }
                :: x.inp.windows.map (closeWindow · v.place)
            else x.inp.windows)
      ∧ (is .reflexArm → ∀ l : LinkIx, l.val = arg % 64 → does (.strokeReflexArm n k) fun t =>
          getSlot t.nibs[n] k = none ∧ t.links[l].armed =
            if s.links[l].armMode % 3 = 2 ∧ s.links[l].run = true then !arg.testBit 6 else s.links[l].armed))
    ∧ (slotDue s n k = false → ∀ c ∈ [Instr.strokeSet n k, .strokeClear n k, .strokeToggle n k, .strokeFloat n k,
        .strokePulse n k, .strokePulseLow n k, .strokePulseAngle n k, .strokeBurst n k, .strokePwmLoad n k,
        .strokePatternStart n k, .strokePatternStop n k, .strokeCaptureArm n k, .strokeReflexArm n k, .strokeSafe n k],
        exec c s = .next (settle s))

/-- R111, R120, R131, R132: the edges after the first; `t` and `settle t` as in `Obligations.StrokesAct`. -/
def Obligations.LaterEdges : Prop :=
  ∀ (s : State) (n : NibIx) (k : SlotIx),
    let x := s.nibs[n]
    let reads (c : Instr) (clean : Prop) (r : State → Prop) : Prop :=
      ∃ t, exec c s = .next (settle t) ∧ r t ∧ (Unheard s n → clean → settle t = t)
    let does (c : Instr) (r : State → Prop) : Prop := reads c True r
    (∀ v e, getSlot x k = some v → v.placed.isSome = true → v.next = some e → slotDue s n k = true →
      (isEndEdge v = true → does (.pulseEndEdge n k) fun t => getSlot t.nibs[n] k = none
        ∧ t.nibs[n].lastPlan = some (v.nextPlan.getD e)
        ∧ t.nibs[n].drive = if strokeAction v.raw = some .pulseLow then .high else .low)
      ∧ (isEndEdge v = false → does (.burstEdge n k) fun t => t.nibs[n].lastPlan = some e
        ∧ t.nibs[n].drive = (if v.highNow then .low else .high)
        ∧ (getSlot t.nibs[n] k).map (fun w => (w.highNow, w.next, w.left)) = some (!v.highNow,
            some (e + BitVec.ofNat 64 (burstHalf v.raw)), if v.highNow then v.left - 1 else v.left)))
    ∧ (∀ p, x.pattern = some p → outDue s n .bit = true → reads (.patternBit n) (s.ink.errors = []) fun t =>
      let again := !decide (p.index < p.bits) && patternLoops x
      let i := if again then 0 else p.index
      let word := if i % 128 = 0 then (patternWord s n p.start i).1 else p.buf
      if p.index < p.bits ∨ patternLoops x = true then
        t.nibs[n].drive = bitDrive word i ∧ t.nibs[n].pattern = some { p with
          index := i + 1, base := if again then nextBitTime x p else p.base, buf := word }
      else t.nibs[n].drive = (if x.param0.getLsbD 7 then .high else .low) ∧ t.nibs[n].pattern = none
        ∧ getSlot t.nibs[n] p.slot = none)
    ∧ (pwmDue s n = true → does (.pwmEdge n) fun t =>
      let on := pwmActive s x
      t.nibs[n].drive = (if pwmTurns s x then pwmDrive x on else x.drive)
      ∧ t.nibs[n].pwmOut = (if pwmTurns s x then on else x.pwmOut)
      ∧ t.nibs[n].pwmBad = !pwmCeOk s.counters[pwmCe x]
      ∧ ∀ m : NibIx, m ≠ n → t.nibs[m] = s.nibs[m])
    ∧ (slotDue s n k = false → exec (.pulseEndEdge n k) s = .next (settle s) ∧ exec (.burstEdge n k) s = .next (settle s))
    ∧ (outDue s n .bit = false → exec (.patternBit n) s = .next (settle s))
    ∧ (pwmDue s n = false → exec (.pwmEdge n) s = .next (settle s))

/-- R111, R119, R122; `t` and `settle t` as in `Obligations.StrokesAct`. -/
def Obligations.NopAndCancel : Prop :=
  ∀ (s : State) (q : QuillIx) (r : W128),
    let n := strokeNib r
    let does (c : Instr) (r : State → Prop) : Prop :=
      ∃ t, exec c s = .next (settle t) ∧ r t ∧ (Unheard s n → settle t = t)
    (s.quiet → exec (.strokeNop q r) s = .next s)
    ∧ exec (.strokeNop q r) s = .next (settle s)
    ∧ (strokeDrop s q n r = none → does (.strokeCancel q r) fun t => ∀ (k : SlotIx) (v : StrokeSlot),
        getSlot s.nibs[n] k = some v →
        let held := v.heldEnd && v.placed.isSome && (strokeTag r == 0x1FF || strokeTag v.raw == strokeTag r)
        (cancelMatches (strokeTag r) (nowTime s) v = true → getSlot t.nibs[n] k = none
          ∧ ∀ p, t.nibs[n].pattern = some p → p.slot ≠ k)
        ∧ (cancelMatches (strokeTag r) (nowTime s) v = false → held = false → getSlot t.nibs[n] k = some v)
        ∧ (cancelMatches (strokeTag r) (nowTime s) v = false → held = true → getSlot t.nibs[n] k = some { v with
            heldEnd := false, next := some (nowTime s + 64), flags := { v.flags with truncated := true } }))
    ∧ (∀ st, strokeDrop s q n r = some st → does (.strokeCancel q r) fun t =>
        ∀ m : NibIx, t.nibs[m].slots = s.nibs[m].slots ∧ t.nibs[m].drive = s.nibs[m].drive)

/-- R128, R129; out of operation the model's choice (log entry 119). -/
def Obligations.SafeInput : Prop :=
  ∀ (s : State),
    (s.safeLow = false → s.power.mode = .up → ∃ t, exec .safeNAssert s = .next t ∧ t.safeLow = true
      ∧ t.power.safePin = true ∧ ∀ n : NibIx, s.nibs[n].safe.getLsbD 5 = true → bound s .nib n = true →
        t.nibs[n].inSafe = true ∧ (s.nibs[n].inSafe = false → t.nibs[n].drive = safeLevel s.nibs[n]))
    ∧ (s.quiet → (s.safeLow = true ∨ s.power.mode ≠ .up) →
      exec .safeNAssert s = .next { s with power := { s.power with safePin := true } })
    ∧ (s.quiet → ∃ t, exec .safeNRelease s = .next t ∧ t.safeLow = false ∧ t.power.safePin = false
      ∧ (∀ n : NibIx, t.nibs[n] = { s.nibs[n] with safeN := false }) ∧ Within [.safeLow, .nibSetup, .power] s t)

/-- R25, R59, R130, R137, R479. The order of two writes in one cycle is the model's reading (log entry 166). -/
def Obligations.NibWrites : Prop :=
  ∀ (s : State) (p : Path) (n : NibIx) (v : Word), Reaches p s →
    let x := s.nibs[n]
    let outranked : Prop := x.wroteIn = s.time.tb ∧ ∃ w ∈ x.wrote, w.1 = 0 ∧ ceRank p < w.2
    (bound s .nib n = true → ¬ outranked →
      (x.run = true → x.ctrl.getLsbD 0 = true → glyphsOn s .nib n = true → nibMode x = 4 → v.getLsbD 0 = true →
        fld v 3 1 = 4 → ∃ t, exec (.nibCtrlWrite p n v) s = .next t ∧ t.nibs[n].ctrl = v &&& 0x1FF
          ∧ Within [.nibs, .nibSetup] s t ∧ (∀ m : NibIx, m ≠ n → t.nibs[m] = s.nibs[m])
          ∧ t.nibs[n].drive = if x.inSafe then x.drive
              else if v.getLsbD 5 then .z else if v.getLsbD 4 then .high else .low)
      ∧ ((4 < fld v 3 1 ∨ x.ctrl.getLsbD 0 = true ∧ fld v 3 1 ≠ nibMode x) → ∃ t, exec (.nibCtrlWrite p n v) s = .next t
          ∧ t.nibs[n] = { x with wroteIn := t.nibs[n].wroteIn, wrote := t.nibs[n].wrote }
          ∧ (∀ m : NibIx, m ≠ n → t.nibs[m] = s.nibs[m]) ∧ Within [.nibSetup] s t))
    ∧ (bound s .nib n = true → outranked → exec (.nibCtrlWrite p n v) s = .next s)
    ∧ (bound s .nib n = true → x.ctrl.getLsbD 0 = false → pinOk (fld v 24 16) = true →
      ∃ t, exec (.routeWrite p n v) s = .next t
        ∧ nextPin t.nibs[n] = fld v 24 16 ∧ (x.pinNext = none → t.nibs[n].pin = fld v 24 16)
        ∧ t.nibs[n].slewSlow = v.getLsbD 25 ∧ t.nibs[n].ctrl = x.ctrl
        ∧ Within [.nibs, .nibSetup] s t ∧ ∀ m : NibIx, m ≠ n → t.nibs[m] = s.nibs[m])
    ∧ (pinOk (fld v 24 16) = false ∨ x.ctrl.getLsbD 0 = true ∧ fld v 24 16 ≠ nextPin x →
      exec (.routeWrite p n v) s = .next s)
    ∧ (bound s .nib n = false → exec (.nibCtrlWrite p n v) s = .next s ∧ exec (.routeWrite p n v) s = .next s)

/-- R134 to R136, R149. -/
def Obligations.NibCellsFail : Prop :=
  ∀ (s : State) (n : NibIx),
    (s.nibs[n].vernAOk = true → ∃ t, exec (.vernFail n false) s = .next t ∧ t.nibs[n].vernAOk = false
      ∧ t.nibs[n].vernBOk = s.nibs[n].vernBOk ∧ t.nibs[n].vernB = true ∧ t.nibs[n].moveWanted = true)
    ∧ (s.nibs[n].vernBOk = true → ∃ t, exec (.vernFail n true) s = .next t ∧ t.nibs[n].vernBOk = false
      ∧ t.nibs[n].vernAOk = s.nibs[n].vernAOk ∧ t.nibs[n].vernB = false ∧ t.nibs[n].moveWanted = true)
    ∧ (s.nibs[n].inp.tdcFail = false → ∃ t, exec (.tdcFail n) s = .next t ∧ t.nibs[n].inp.tdcFail = true
      ∧ t.nibs[n].moveWanted = true ∧ ∀ m : NibIx, m ≠ n → setupOf t.nibs[m] = setupOf s.nibs[m])
    ∧ (s.quiet → ∃ t, exec (.vernierCalibration n) s = .next t ∧ t.power.calibrating.getLsbD n = false
      ∧ (∀ m : NibIx, m ≠ n → t.power.calibrating.getLsbD m = s.power.calibrating.getLsbD m)
      ∧ Within [.nibSetup, .power] s t)
    ∧ (cellMoveDue s n = true → ∀ c, freeCell s = some c → ∃ t, exec (.nibCellMove n) s = .next t
      ∧ t.nibs[n].cell = c ∧ t.nibs[n].moveWanted = false ∧ t.nibs[n].vernAOk = true ∧ t.nibs[n].vernBOk = true)

/-- R138 to R140, R146; `t` and `settle t` as in `Obligations.StrokesAct`. -/
def Obligations.ReflexLinksAct : Prop :=
  ∀ (s : State) (l : LinkIx) (p : Path),
    let x := s.links[l]
    let n := reflexTarget x
    let level : Drive := if fld x.action 9 8 % 2 = 0 then .high else .low
    ((∃ d ∈ s.reflexDue, d.1 = l) → x.run = true → x.armed = true → s.nibs[n].run = true →
      s.nibs[n].inSafe = false ∨ fld x.cause 9 0 = 336 → ∃ t, exec (.reflexCause l) s = .next (settle t)
        ∧ t.nibs[n].drive = level ∧ t.nibs[n].lastPlan = some (nowTime s) ∧ t.links[l].fires = x.fires + 1)
    ∧ (s.calm → s.folio.routes = [] → (∀ e u, nextOut s.nibs[n] = some (e, u) → precedes u (nowTime s + 1) = false) →
      (∃ d ∈ s.reflexDue, d.1 = l) → x.run = true → x.armed = true → s.nibs[n].run = true →
      s.nibs[n].inSafe = false ∨ fld x.cause 9 0 = 336 →
      ∃ t, exec (.reflexCause l) s = .next t ∧ t.nibs[n].drive = level
        ∧ t.links[l].fires = x.fires + 1 ∧ t.reflexDue.length + 1 = s.reflexDue.length
        ∧ t.nibs[n].reflexEnd.map (·.2) = (if 2 ≤ fld x.action 9 8 ∧ fld x.action 31 12 ≠ 0 then
            some (l, if level = .high then .low else .high) else none)
        ∧ Within [.nibs, .links, .reflexDue] s t)
    ∧ (s.quiet → (∃ d ∈ s.reflexDue, d.1 = l) → x.run = true → x.armed = true → s.nibs[n].run = true →
      s.nibs[n].inSafe = true → fld x.cause 9 0 ≠ 336 → ∃ t, exec (.reflexCause l) s = .next t
        ∧ t.nibs[n].drive = s.nibs[n].drive ∧ t.links[l].suppressed = true ∧ t.links[l].fires = x.fires)
    ∧ (∀ m e d, s.quiet → reflexEnds s l = some m → s.nibs[m].reflexEnd = some (e, l, d) →
      ∃ t, exec (.reflexPulseEnd l) s = .next t ∧ t.nibs[m].reflexEnd = none ∧ t.nibs[m].lastPlan = some e
        ∧ t.nibs[m].drive = d ∧ Within [.nibs] s t ∧ ∀ j : NibIx, j ≠ m → t.nibs[j] = s.nibs[j])
    ∧ (Reaches p s → bound s .reflex l = true → x.en = true → glyphsOn s .reflex l = true → x.run = true →
      x.armMode = 1 → ∃ t, exec (.reflexArm p l) s = .next t ∧ t.links[l].armed = true ∧ Within [.links] s t
        ∧ ∀ j : LinkIx, j ≠ l → t.links[j] = s.links[j])
    ∧ (∀ v, Reaches p s → bound s .reflex l = true → ∃ t, exec (.rlCtrlWrite p l v) s = .next t
        ∧ t.links[l].en = v.getLsbD 0 ∧ t.links[l].armMode = fld v 2 1 ∧ t.links[l].ie = v.getLsbD 4
        ∧ t.links[l].run = (v.getLsbD 0 && glyphsOn s .reflex l) ∧ Within [.links] s t)
    ∧ (∀ v, Reaches p s → bound s .reflex l = false →
        exec (.reflexArm p l) s = .next s ∧ exec (.rlCtrlWrite p l v) s = .next s)

/-- R147 to R150, R152, R155, R156, R160. The recording clauses are about a nib without window, waiting record and angle
stamp, and what reaches a queue about one that nothing else listens to; `t` and `settle t` as in
`Obligations.StrokesAct`. The readings are those of log entries 160 and 163. -/
def Obligations.InputEdges : Prop :=
  ∀ (s : State) (n : NibIx),
    let x := s.nibs[n]
    let i := x.inp
    let rising := !i.level
    (∀ level f, let up := level && pinPowered s x.pin
      let u := transitionTime s n f
      (s.quiet → x.pin < 272 → i.ball ≠ up → (s.time.coarse = true ∨ ∀ m, i.move = some m → isSeen m u = false) →
        ∃ t, exec (.nibInputTransition n level f) s = .next t ∧ t.balls.getLsbD x.pin = up
          ∧ t.nibs[n].inp.ball = up ∧ t.nibs[n].inp.run = i.run ∧ t.nibs[n].inp.level = i.level
          ∧ t.nibs[n].inp.move = (if s.time.coarse then i.move else if up = i.sync then none
              else some { stamp := u, since := u })
          ∧ u = (if s.time.coarse || i.tdcFail then nowTime s else nowTime s + BitVec.ofNat 64 f)
          ∧ Within [.nibs, .nibSetup, .balls] s t ∧ ∀ m : NibIx, m ≠ n → t.nibs[m] = s.nibs[m])
      ∧ (∀ m, x.pin < 272 → i.ball ≠ up → s.time.coarse = false → i.move = some m → isSeen m u = true →
        ∃ t, exec (.nibInputTransition n level f) s = .next (settle t) ∧ t.nibs[n].inp.ball = up
          ∧ t.nibs[n].inp.sync = !i.sync
          ∧ t.nibs[n].inp.move = if up = !i.sync then none else some { stamp := u, since := u })
      ∧ (s.quiet → 272 ≤ x.pin ∨ i.ball = up → ∃ t, exec (.nibInputTransition n level f) s = .next t
          ∧ t.nibs[n] = { x with seen := x.seen || showsLevel x level } ∧ Within [.nibs] s t))
    ∧ (∀ m, i.move = some m → dueNow s (m.since + 16) = true →
      ((i.sync != inInv i) = i.level → s.quiet → ∃ t, exec (.glitchFilterAccept n) s = .next t
        ∧ t.nibs[n].inp = { i with sync := !i.sync, move := none, run := some (i.run.getD m) } ∧ Within [.nibSetup] s t)
      ∧ ((i.sync != inInv i) ≠ i.level → s.quiet →
        (∀ r, i.run = some r → precedes m.since (r.since + BitVec.ofNat 64 (8 * inFilt i)) = true) →
        ∃ t, exec (.glitchFilterAccept n) s = .next t
          ∧ t.nibs[n].inp = { i with sync := !i.sync, move := none, run := none } ∧ Within [.nibSetup] s t)
      ∧ (∀ r, (i.sync != inInv i) ≠ i.level → i.run = some r →
        precedes m.since (r.since + BitVec.ofNat 64 (8 * inFilt i)) = false →
        ∃ t, exec (.glitchFilterAccept n) s = .next (settle t) ∧ t.nibs[n].inp.level = rising
          ∧ t.nibs[n].inp.run = some m ∧ t.nibs[n].inp.sync = !i.sync ∧ t.nibs[n].inp.move = none))
    ∧ (∀ r, seeDue s n = false → i.run = some r → dueNow s (r.since + BitVec.ofNat 64 (8 * inFilt i) + 16) = true →
      let plain : Prop := s.time.coarse = false ∧ inGate i = false ∧ waitsEmpty i r.stamp = false
      ∃ t, exec (.glitchFilterAccept n) s = .next (settle t) ∧ t.nibs[n].inp.level = rising
        ∧ t.nibs[n].inp.run = none
        ∧ (plain → i.ctrl.getLsbD 20 = false → i.ctrl.getLsbD 23 = false → capSelected i rising = true →
            t.nibs[n].inp.fresh = true
              ∧ t.nibs[n].inp.live = mkRecord (if rising then 9 else 10) n i.seq.toNat 0 r.stamp)
        ∧ (Unheard s n → i.late = [] → settle t = t
          ∧ Within [.time, .inboxes, .nibs, .nibSetup, .streams, .trackers, .power, .reflexDue] s t
          ∧ ∀ q o, plain → capSelected i rising = false → closesMeas i rising = true →
            i.opening = some o → x.owner = some q → i.ctrl.getLsbD 21 = true →
            t.quills[q].queue.entries = insertEntry
              { record := mkRecord (measType i + 8) n i.seq.toNat (measValue o r.stamp) r.stamp, tb := s.time.tb
                group := 1, index := n } s.quills[q].queue.entries))
    ∧ (filterDue s n = false → exec (.glitchFilterAccept n) s = .next (settle s))

/-- R157, R158; `t` and `settle t` as in `Obligations.StrokesAct`. -/
def Obligations.WindowsAndGates : Prop :=
  ∀ (s : State) (n : NibIx),
    let x := s.nibs[n]
    let i := x.inp
    (s.quiet → i.windows.any (windowDue s) = true → ∃ t, exec (.windowExpiry n) s = .next t ∧ Within [.nibs] s t
      ∧ (∀ w ∈ t.nibs[n].inp.windows, windowDue t w = false)
      ∧ ∀ w ∈ i.windows, windowDue s w = true → { w with live := false } ∈ t.nibs[n].inp.windows)
    ∧ (i.windows.any (windowDue s) = false → exec (.windowExpiry n) s = .next (settle s))
    ∧ (∀ w c, i.windows.reverse.find? (emptyDue s n) = some w → w.closes = some c →
      ∃ t, exec (.winEmpty n) s = .next (settle t) ∧ t.nibs[n].evtStatus.getLsbD 19 = true
        ∧ (s.time.coarse = false → i.ctrl.getLsbD 20 = false → i.ctrl.getLsbD 23 = false → i.late = [] →
          t.nibs[n].inp.live = mkRecord 15 n i.seq.toNat 0 c ∧ t.nibs[n].inp.fresh = true)
        ∧ (Unheard s n → i.late = [] → settle t = t))
    ∧ (i.windows.any (emptyDue s n) = false → exec (.winEmpty n) s = .next (settle s))
    ∧ (∀ c count rest, i.freqDue = (c, count) :: rest → dueNow s (c + 2304) = true →
      ∃ t, exec (.freqGateEnd n) s = .next (settle t) ∧ t.nibs[n].inp.freqDue = rest
        ∧ t.nibs[n].evtStatus.getLsbD 17 = true ∧ t.nibs[n].inp.seq = i.seq + 1
        ∧ (Unheard s n → settle t = t ∧ ∀ q, s.time.coarse = false → x.owner = some q → i.ctrl.getLsbD 21 = true →
          t.quills[q].queue.entries = insertEntry
            { record := mkRecord 14 n i.seq.toNat count c, tb := s.time.tb, group := 1, index := n }
            s.quills[q].queue.entries))
    ∧ ((∀ e ∈ i.freqDue.head?, dueNow s (e.1 + 2304) = false) → exec (.freqGateEnd n) s = .next (settle s))

/-- R25, R59, R156, R160, R162, R165, R166, R168; `t` and `settle t` as in `Obligations.StrokesAct`. The order of two
writes in one cycle is the model's reading (log entry 166). -/
def Obligations.CaptureRegisters : Prop :=
  ∀ (s : State) (p : Path), Reaches p s →
    (∀ (n : NibIx) (v : Word), bound s .nib n = true →
      let outranked : Prop := s.nibs[n].wroteIn = s.time.tb ∧ ∃ w ∈ s.nibs[n].wrote, w.1 = 0x28 ∧ ceRank p < w.2
      (outranked → exec (.inCtrlWrite p n v) s = .next s)
      ∧ (¬ outranked → ∃ t, exec (.inCtrlWrite p n v) s = .next (settle t)
        ∧ t.nibs[n].inp.ctrl = v &&& 0x0FFFFFFF
        ∧ (filterDue s n = false → s.nibs[n].inp.late = [] → settle t = t ∧ Within [.nibs, .nibSetup] s t
          ∧ ∀ m : NibIx, m ≠ n → t.nibs[m] = s.nibs[m])
        ∧ let i := s.nibs[n].inp
          let j := t.nibs[n].inp
          (inMeas i ≠ inMeas j ∨ inFilt i ≠ inFilt j ∨ inInv i ≠ inInv j → j.opening = none)
          ∧ (inInv i ≠ inInv j → j.level = (j.ball != inInv j) ∧ j.run = none)
          ∧ (inGate i = true → inGate j = false → j.windows.any (·.live) = false)))
    ∧ (∀ n : NibIx, ∃ t, exec (.cap0Read p n) s = .next t ∧ lastRead t p = word32 (liveBefore s s.nibs[n].inp) 0
      ∧ (s.canonical → latched t p (cap0Addr n) = liveBefore s s.nibs[n].inp)
      ∧ t.nibs[n].inp = { s.nibs[n].inp with fresh := formedNow s s.nibs[n].inp && s.nibs[n].inp.fresh }
      ∧ Within [.nibs, .latches, .reads] s t ∧ ∀ m : NibIx, m ≠ n → t.nibs[m] = s.nibs[m])
    ∧ (∀ (g : StreamIx) (v : Word), bound s .captureStream g = true → ∃ t, exec (.csCtrlWrite p g v) s = .next t
      ∧ t.streams[g].ctrl = v &&& 0x03FF0003 ∧ t.streams[g].run = (v.getLsbD 0 && glyphsOn s .captureStream g)
      ∧ (v.getLsbD 0 = false → t.streams[g].fifo = []) ∧ Within [.streams] s t
      ∧ ∀ h : StreamIx, h ≠ g → t.streams[h] = s.streams[h])
    ∧ ∀ v, (∀ n : NibIx, bound s .nib n = false → exec (.inCtrlWrite p n v) s = .next s)
      ∧ ∀ g : StreamIx, bound s .captureStream g = false → exec (.csCtrlWrite p g v) s = .next s

/-- R75, R78, R84, R87 to R89, R95. -/
def Obligations.TeethProcessed : Prop :=
  ∀ (s : State) (i : TrackIx) (x : ToothIn) (rest : List ToothIn),
    let a := s.trackers[i]
    a.waiting = x :: rest → a.cfg.run = true →
    ∃ t, exec (.toothProcessed i) s = .next t
      ∧ let b := t.trackers[i]
        b.waiting = rest
        ∧ (srcKind a = .tooth → x.position = none → a.cfg.dirMode ≠ 1 →
            (a.state = .unsynced → a.hasTooth = false →
              b.hasTooth = true ∧ b.toothTime = x.time ∧ b.stallSince = x.time ∧ b.state = .unsynced)
            ∧ (a.state = .unsynced → a.hasTooth = true → 320 ≤ (x.time - a.stallSince).toInt →
              b.hasTooth = true ∧ b.toothTime = x.time ∧ (b.state = .counting ∨ b.state = .synced))
            ∧ (a.hasTooth = true → (x.time - a.stallSince).toInt < 320 →
              motionOf b = motionOf { a with
                waiting := rest, noise := satAdd a.noise 1, learn := { a.learn with spoiled := true } })
            ∧ (a.state = .synced → a.reverse = false → 320 ≤ (x.time - a.stallSince).toInt →
              isNoise a (x.time - a.toothTime).toInt = false → externalAt a x.time = false → a.suspect = none →
              failsCheck a (x.time - a.toothTime).toNat x.width = false →
              isReference a (x.time - a.toothTime).toNat x.width false = false →
              b.state = .synced ∧ b.entry = entryAfter a a.entry ∧ b.toothTime = x.time ∧ b.synth = false
                ∧ b.base = a.base + BitVec.ofNat 80 (nextPitch a)
                ∧ (a.synth = false →
                    b.hist = enterInterval a.hist (x.time - a.toothTime).toNat (nextPitch a))))
        ∧ ∀ p, srcKind a = .quad → x.position = some p → x.reference = false → a.state = .synced →
            b.base = countPos a p ∧ b.pos = countPos a p ∧ b.lastPos = p ∧ b.toothTime = x.time ∧ b.state = .synced

/-- R80, R87, R88, R91; what a search keeps is the model's choice (log entry 146). -/
def Obligations.TrackerDeadlines : Prop :=
  ∀ (s : State) (i : TrackIx),
    let x := s.trackers[i]
    (microDue s i = true → ∃ t, exec (.microTick i) s = .next t
      ∧ motionOf t.trackers[i] = motionOf { x with micro := x.micro + 1, pos := microPos x (x.micro + 1) })
    ∧ (∀ p, missDue s i = true → predPeriod x = some p → ∃ t, exec (.missDeadline i) s = .next t
      ∧ t.trackers[i].entry = nextEntry x ∧ t.trackers[i].toothTime = x.toothTime + BitVec.ofInt 64 p
      ∧ t.trackers[i].base = movePos x.base x.reverse (nextPitch x) ∧ t.trackers[i].synth = true
      ∧ t.trackers[i].missed = satAdd x.missed 1
      ∧ t.trackers[i].state = if maxSynth x ≤ x.synthRun + 1 then .counting else .synced)
    ∧ (stallDue s i = true → ∃ t, exec (.stallTimeout i) s = .next t
      ∧ motionOf t.trackers[i] = motionOf { x with
          state := .stalled, learn := { x.learn with opened := none, times := [] }, stallPos := x.lastPos
          synthRun := 0 })
    ∧ (countingDue s i = true → ∃ t, exec (.countingTimeout i) s = .next t
      ∧ motionOf t.trackers[i] = motionOf { x with
          state := .unsynced, hist := [], suspect := none, search := { external := x.search.external }
          stallPos := x.lastPos, synthRun := 0, hasTooth := false })
    ∧ (microDue s i = false → exec (.microTick i) s = .next (settle s))
    ∧ (missDue s i = false → exec (.missDeadline i) s = .next (settle s))
    ∧ (stallDue s i = false → exec (.stallTimeout i) s = .next (settle s))
    ∧ (countingDue s i = false → exec (.countingTimeout i) s = .next (settle s))

/-- R25, R70, R71, R87, R98, R105: a bound tracker with a source of its own. -/
def Obligations.TrackerControl : Prop :=
  ∀ (s : State) (p : Path) (i : TrackIx) (v : Word), Reaches p s →
    (bound s .tracker i = false → ∀ c ∈ [Instr.trackerEnable p i v, .trackerResync p i, .trackerApply p i],
      exec c s = .next s) ∧ (bound s .tracker i = true →
    let x := s.trackers[i]
    let asked := modTrack s i fun y => { y with
      cfg := { y.cfg with en := true, stallKeep := v.getLsbD 1, dirMode := fld v 5 4 } }
    (srcKind x ≠ .slave ∧ srcKind x ≠ .virtual_ → x.cfg.en = false → x.cfg.run = false → v.getLsbD 0 = true →
      (fld v 5 4 = 2 → isFull i = true) →
      (enableOk asked i = true → glyphsOn s .tracker i = true → ∃ t, exec (.trackerEnable p i v) s = .next t
        ∧ t.trackers[i].cfg.run = true ∧ t.trackers[i].state = .unsynced ∧ t.trackers[i].hist = []
        ∧ t.trackers[i].waiting = [] ∧ t.trackers[i].hasTooth = false
        ∧ t.trackers[i].gear.forceNum = x.gear.num ∧ t.trackers[i].gear.forceDen = x.gear.den)
      ∧ (enableOk asked i = false → ∃ t, exec (.trackerEnable p i v) s = .next t
        ∧ t.trackers[i].cfg.en = false ∧ t.trackers[i].cfg.run = false ∧ t.trackers[i].cfg.cfgErr = true))
    ∧ (x.cfg.en = true → x.cfg.run = true → v.getLsbD 0 = false → v.getLsbD 2 = false → fld v 5 4 = x.cfg.dirMode →
      (x.cfg.dirMode = 2 → isFull i = true) → ∃ t, exec (.trackerEnable p i v) s = .next t ∧ t.trackers[i].cfg.en = false
        ∧ t.trackers[i].cfg.run = false ∧ t.trackers[i].state = .unsynced)
    ∧ (x.cfg.en = true → fld v 5 4 ≠ x.cfg.dirMode → ∃ t, exec (.trackerEnable p i v) s = .next t
      ∧ motionOf t.trackers[i] = motionOf { x with cfg := { x.cfg with cfgErr := true } })
    ∧ (srcKind x ≠ .slave ∧ srcKind x ≠ .virtual_ → x.cfg.en = true → x.cfg.run = true →
      glyphsOn s .tracker i = true → x.cfg.dirMode < 2 → x.waiting = [] →
      ∃ t, exec (.trackerResync p i) s = .next t ∧ t.trackers[i].hist = [] ∧ t.trackers[i].cfg = x.cfg
        ∧ t.trackers[i].resyncAt = some s.time.tb
        ∧ (x.hist = [] → t.trackers[i].state = .unsynced ∧ t.trackers[i].hasTooth = false)
        ∧ (x.hist ≠ [] → x.state ≠ .unsynced → t.trackers[i].state = .counting ∧ t.trackers[i].search = {}))
    ∧ ∃ t, exec (.trackerApply p i) s = .next t ∧ Within [.trackers] s t
      ∧ t.trackers[i] = { x with gear := { x.gear with pending := true } }
      ∧ ∀ j : TrackIx, j ≠ i → t.trackers[j] = s.trackers[j])

/-- R25, R70, R102, R107; when MODE comes into force is the model's reading (log entry 145). -/
def Obligations.LearningAndMap : Prop :=
  ∀ (s : State) (p : Path) (i : TrackIx) (v : Word), Reaches p s →
    let x := s.trackers[i]
    let badGain : Prop := fld v 1 0 = 1 ∧ (fld v 7 4 = 0 ∨ 8 < fld v 7 4)
    let next : BitVec 12 :=
      if x.map.autoInc then BitVec.ofNat 12 ((x.map.index.toNat + 1) % teethOf x) else x.map.index
    (bound s .tracker i = true → ¬badGain → ∃ t, exec (.learnCtrlWrite p i v) s = .next t ∧ Within [.trackers] s t
      ∧ t.trackers[i] = { x with learn := { x.learn with
          ctrl := v &&& 0xFFF3, mode := if x.state = .synced ∨ x.state = .stalled then x.learn.mode else min 2 (fld v 1 0) } })
    ∧ (bound s .tracker i = true → badGain → ∃ t, exec (.learnCtrlWrite p i v) s = .next t ∧ t.trackers[i].learn = x.learn
      ∧ t.trackers[i].cfg.cfgErr = true)
    ∧ (∃ t, exec (.tmapFlagsAccess p i none) s = .next t ∧ Within [.trackers, .reads] s t
      ∧ lastRead t p = (mapEntry x x.map.index.toNat).flags.zeroExtend 32
      ∧ t.trackers[i] = { x with map := { x.map with index := next } })
    ∧ (bound s .tracker i = true → x.cfg.en = false → ∃ t, exec (.tmapFlagsAccess p i (some v)) s = .next t ∧ Within [.trackers] s t
      ∧ t.trackers[i].map.index = next ∧ (sparseWf {} x.map.entries = true → ∀ k : Nat,
          mapEntry t.trackers[i] k =
            if k = x.map.index.toNat then { mapEntry x k with flags := v.truncate 5 } else mapEntry x k))
    ∧ (bound s .tracker i = true → x.cfg.en = true → ∃ t, exec (.tmapFlagsAccess p i (some v)) s = .next t
      ∧ t.trackers[i].map = { x.map with index := next } ∧ t.trackers[i].cfg.cfgErr = true)
    ∧ (bound s .tracker i = false →
      exec (.learnCtrlWrite p i v) s = .next s ∧ exec (.tmapFlagsAccess p i (some v)) s = .next s)

/-- R170, R173, R174, R176, R177; how the lines are sampled and held is the model's reading (log entry 167). -/
def Obligations.ChannelCounts : Prop :=
  ∀ (s : State) (b : FbIx) (pa pb pz : Bool),
    let x := s.channels[b]
    let r := fbSample s b pa pb pz
    let x' := r.channels[b]
    let held := !s.time.stopped && fbHeld r x'
    (lineRaw x' 0 = (pa != x.ctrl.getLsbD 11) ∧ lineRaw x' 1 = (pb != x.ctrl.getLsbD 12)
      ∧ lineRaw x' 2 = (pz != x.ctrl.getLsbD 13) ∧ x' = { x with raw := x'.raw, pend := x'.pend }
      ∧ (x.pend = [] → s.time.stopped = false → ∀ e : FbEdge, e ∈ x'.pend ↔
          e.level = lineRaw x' e.line ∧ e.level ≠ lineLevel x e.line
            ∧ e.held = { stamp := nowTime s, since := nowTime s })
      ∧ (s.time.stopped = true → x'.pend = x.pend))
    ∧ (held = false → exec (.fbChangeAccepted b pa pb pz) s = .next (settle r))
    ∧ (∀ e rest, held = true → x'.pend = e :: rest →
      let now := x'.pend.takeWhile fun f => f.held.stamp == e.held.stamp
      let level (l : Fin 3) : Bool := ((now.find? fun f => f.line == l).map (·.level)).getD (lineLevel x l)
      let la := level 0
      let lb := level 1
      let lz := level 2
      let still : Feedback := { x' with a := la, b := lb, z := lz, pend := x'.pend.drop now.length }
      let plain : Prop := lz = false ∨ x.z = true
      let way := (grayPlace la lb + 4 - grayPlace x.a x.b) % 4
      let down := if way = 1 then x.ctrl.getLsbD 3 else !x.ctrl.getLsbD 3
      ∃ t, exec (.fbChangeAccepted b pa pb pz) s = .next t
        ∧ let y := t.channels[b]
          (y.a = la ∧ y.b = lb ∧ y.z = lz ∧ y.pend = still.pend)
          ∧ (x.run = true → fbMode x = 1 → plain → way = 1 ∨ way = 3 →
              y.pos = x.pos + (if down then BitVec.allOnes 64 else 1) ∧ y.dir = down ∧ y.cntTime = e.held.stamp
                ∧ y.qerr = x.qerr ∧ y.idxPos = x.idxPos)
          ∧ (x.run = true → fbMode x = 1 → plain → way = 2 → x.ctrl.getLsbD 4 = false →
              countingOf y = countingOf { still with qerr := satAdd x.qerr 1 })
          ∧ (plain → x.run = false ∨ way = 0 ∧ fbMode x = 1 → countingOf y = countingOf still)
          ∧ (x.run = true → fbMode x = 1 → way = 0 → lz = true → x.z = false → x.ctrl.getLsbD 9 = false →
              y.idxPos = x.pos ∧ y.idxSeen = true ∧ (fld x.ctrl 6 5 = 0 → y.pos = x.pos)
                ∧ (fld x.ctrl 6 5 = 1 → y.pos = x.idxValue))
          ∧ ∀ c : FbIx, c ≠ b → countingOf t.channels[c] = countingOf s.channels[c])

/-- R180 to R184. -/
def Obligations.SerialFrames : Prop :=
  ∀ (s : State) (b : FbIx),
    let x := s.channels[b]
    let fails (c : Instr) : Prop := ∃ t, exec c s = .next t ∧ t.channels[b].ssiStart = none
      ∧ t.channels[b].ssiErrs = satAdd x.ssiErrs 1 ∧ t.channels[b].ssiRun = x.ssiRun + 1
      ∧ t.channels[b].pos = x.pos ∧ t.channels[b].evtStatus.getLsbD 5 = true
    (∀ start, x.ssiStart = some start → ssiDone s b = true →
      let bits := ssiBits x start
      let jumps : Prop := ∃ p, x.ssiPrev = some p ∧ ssiJumps x (ssiDelta x p (ssiValue x bits)) = true
      (ssiParityOk x bits = true → ¬ jumps →
        ∃ t, exec (.ssiFrameComplete b bits (ssiUsed x)) s = .next t ∧ t.channels[b].ssiStart = none
          ∧ t.channels[b].ssiPrev = some (ssiValue x bits) ∧ t.channels[b].ssiErrs = x.ssiErrs
          ∧ t.channels[b].ssiRaw = BitVec.ofNat 64 bits
          ∧ t.channels[b].pos = match x.ssiPrev with
            | some p => x.pos + BitVec.ofInt 64 (ssiDelta x p (ssiValue x bits))
            | none => BitVec.ofNat 64 (ssiValue x bits))
      ∧ (ssiParityOk x bits = false ∨ jumps → fails (.ssiFrameComplete b bits (ssiUsed x)))
      ∧ ∀ other delay, (other ≠ bits ∨ delay ≠ ssiUsed x) → exec (.ssiFrameComplete b other delay) s = .next (settle s))
    ∧ (ssiTimedOut s b = true → fails (.ssiDelayTimeout b))
    ∧ (stillDue s b = true → ∃ t, exec (.fbStill b) s = .next t
      ∧ countingOf t.channels[b] = countingOf { x with speed := 0, still := true, overspeed := false }
      ∧ t.channels[b].evtStatus.getLsbD 8 = true)
    ∧ (ssiDone s b = false → ∀ bits delay, exec (.ssiFrameComplete b bits delay) s = .next (settle s))
    ∧ (ssiTimedOut s b = false → exec (.ssiDelayTimeout b) s = .next (settle s))
    ∧ (stillDue s b = false → exec (.fbStill b) s = .next (settle s))

/-- R25, R171, R177, R190. -/
def Obligations.ChannelControl : Prop :=
  ∀ (s : State) (p : Path) (b : FbIx) (v : Word), Reaches p s →
    let x := s.channels[b]
    (bound s .feedback b = false → exec (.idxArm p b) s = .next s ∧ exec (.fbCtrlWrite p b v) s = .next s
      ∧ exec (.emuCtrlWrite p b v) s = .next s)
    ∧ (bound s .feedback b = true →
    (∃ t, exec (.idxArm p b) s = .next t ∧ t.channels[b].idxArmed = true ∧ t.channels[b].pos = x.pos
      ∧ (x.idxArmed = false → t.channels[b].idxArmedAt = some s.time.tb)
      ∧ ∀ c : FbIx, c ≠ b → t.channels[c] = s.channels[c])
    ∧ (x.ctrl.getLsbD 0 = false → (v.getLsbD 0 = true → fld v 2 1 = 3 → ssiOk x = true) →
      ∃ t, exec (.fbCtrlWrite p b v) s = .next t ∧ t.channels[b].ctrl = v &&& 0x3F7F ∧ Within [.channels] s t
        ∧ t.channels[b].run = (v.getLsbD 0 && glyphsOn s .feedback b) ∧ t.channels[b].pos = x.pos
        ∧ (x.run = false → v.getLsbD 0 = true → glyphsOn s .feedback b = true →
            t.channels[b].speed = 0 ∧ t.channels[b].counts = 0 ∧ t.channels[b].indexes = 0)
        ∧ (fld v 13 11 ≠ fld x.ctrl 13 11 → t.channels[b].pend = [])
        ∧ ∀ c : FbIx, c ≠ b → t.channels[c] = s.channels[c])
    ∧ (x.ctrl.getLsbD 0 = false → v.getLsbD 0 = true → fld v 2 1 = 3 → ssiOk x = false →
      ∃ t, exec (.fbCtrlWrite p b v) s = .next t ∧ t.channels[b].ctrl.getLsbD 0 = false
        ∧ t.channels[b].run = x.run ∧ t.channels[b].cfgErr = true ∧ t.channels[b].evtStatus.getLsbD 12 = true)
    ∧ (x.ctrl.getLsbD 0 = true → (v &&& fbLocked) ≠ (x.ctrl &&& fbLocked) →
      ∃ t, exec (.fbCtrlWrite p b v) s = .next t ∧ countingOf t.channels[b] = countingOf { x with cfgErr := true }
        ∧ t.channels[b].evtStatus.getLsbD 12 = true))

/-- R133, R186 to R188, R190; `t` and `settle t` as in `Obligations.StrokesAct`. -/
def Obligations.EmulatorActs : Prop :=
  ∀ (s : State) (b : FbIx) (p : Path) (v : Word),
    let m := s.channels[b].emu
    let begins := s.nibs.toList.any (emuNibDue s b)
    (begins = true → ∃ t, exec (.emuEdge b) s = .next (settle t) ∧ t.channels = s.channels
      ∧ ∀ n : NibIx, if emuNibDue s b s.nibs[n] then
          t.nibs[n].drive = levelDrive (emuOutput m (nibEmuOutput s.nibs[n])) ∧ t.nibs[n].emuOn = true
            ∧ t.nibs[n].emuFrom = none
        else t.nibs[n] = s.nibs[n])
    ∧ (∀ e y rest u moved, begins = false → m.waiting = (e, y) :: rest → emuPlace s m = some (u, moved) →
      dueNow s u = true →
      let out := if m.out < y then m.out + 1 else if y < m.out then m.out - 1 else m.out
      ∃ t, exec (.emuEdge b) s = .next (settle t) ∧ t.channels[b].emu = { m with
          out := out, lastEdge := some u, waiting := if out = y then rest else m.waiting }
        ∧ t.channels[b].pos = s.channels[b].pos
        ∧ (∀ n : NibIx, let w := nibEmuOutput s.nibs[n]
            let new := emuOutput t.channels[b].emu w
            t.nibs[n].drive = if s.nibs[n].emuOn && carriesEmu s.nibs[n] b && new != emuOutput m w then levelDrive new
              else s.nibs[n].drive)
        ∧ (s.quiet → s.folio.routes = [] → settle t = t))
    ∧ (emuDue s b = false → exec (.emuEdge b) s = .next (settle s))
    ∧ (Reaches p s → bound s .feedback b = true → m.ctrl.getLsbD 0 = false → emuCtrlOk (v &&& 0x1FFF) = true →
      ∃ t, exec (.emuCtrlWrite p b v) s = .next t ∧ t.channels[b].emu.ctrl = v &&& 0x1FFF
        ∧ t.channels[b].emu.run = (v.getLsbD 0 && glyphsOn s .feedback b)
        ∧ countingOf t.channels[b] = countingOf s.channels[b])
    ∧ (Reaches p s → bound s .feedback b = true →
      emuCtrlOk (v &&& 0x1FFF) = false ∨ m.ctrl.getLsbD 0 = true ∧ (v &&& 0x1FFE) ≠ (m.ctrl &&& 0x1FFE) →
      ∃ t, exec (.emuCtrlWrite p b v) s = .next t ∧ t.channels[b].emu = m ∧ t.channels[b].cfgErr = true)

/-- R193 to R199, R204: evaluation. R25, R197, R198, R206: register writes. -/
def Obligations.ComparatorsEvaluate : Prop :=
   (∀ (s : State) (c : AcIx) (uv : Int) (f : Fin 8),
      let x := s.comparators[c]
      let old : Comparator := match (if thrJustWritten s x then x.thrWas else none) with
        | some w => { x with thr := w.2 }
        | none => x
      let evaluated (y z : Comparator) (time : W64) : Prop :=
        z.thr = x.thr ∧ z.run = x.run
        ∧ (y.unresolved = true → z.seq = y.seq ∧ z.last = y.last
            ∧ (z.state, z.unresolved) = match compOutside y uv with
              | some st => (st, false)
              | none => (y.state, true))
        ∧ (y.unresolved = false → z.unresolved = false ∧ z.state = compNext y uv
            ∧ (compNext y uv = y.state → z.seq = y.seq ∧ z.last = y.last)
            ∧ (compNext y uv ≠ y.state → z.seq = y.seq + 1 ∧ z.lastSeq = y.seq ∧ z.last = time
                ∧ z.evtStatus.getLsbD (compNext y uv).code = true))
      (compLive x = true → acSampled x = false → ∃ t, exec (.comparatorChange c uv f) s = .next t
        ∧ evaluated x t.comparators[c] (detectTime s f) ∧ ∀ d : AcIx, d ≠ c → t.comparators[d] = s.comparators[d])
      ∧ (sampleDue s x = true → x.settle = none ∨ tbReached s x.settle = true →
        ∃ t, exec (.comparatorSample c uv) s = .next t ∧ t.comparators[c].settle = none
          ∧ t.comparators[c].coarseEdges = 0 ∧ t.comparators[c].sampledAt = some s.time.tb
          ∧ evaluated old t.comparators[c] (nowTime s))
      ∧ (sampleDue s x = true → x.settle ≠ none → tbReached s x.settle = false →
        ∃ t, exec (.comparatorSample c uv) s = .next t
          ∧ t.comparators[c] = { x with coarseEdges := 0, sampledAt := some s.time.tb })
      ∧ (x.run = true → acSampled x = false → tbReached s x.settle = true →
        ∃ t, exec (.comparatorSettled c uv) s = .next t ∧ t.comparators[c].settle = none
          ∧ (x.blank = none → evaluated x t.comparators[c] (nowTime s))
          ∧ (x.blank ≠ none → t.comparators[c] = { x with settle := none }))
      ∧ (x.run = true → tbReached s x.blank = true → ∃ t, exec (.blankEnd c uv) s = .next t
        ∧ t.comparators[c].blank = none
        ∧ (x.settle = none ∨ tbReached s x.settle = true → t.comparators[c].settle = none
            ∧ evaluated x t.comparators[c] (nowTime s))
        ∧ (x.settle ≠ none → tbReached s x.settle = false → t.comparators[c] = { x with blank := none })))
    ∧ (∀ (s : State) (p : Path) (c : AcIx) (v : Word), Reaches p s →
        let x := s.comparators[c]
        (bound s .comparator c = false → exec (.thrWrite p c v) s = .next s ∧ exec (.acCtrlWrite p c v) s = .next s)
        ∧ (bound s .comparator c = true →
        (fld v 9 0 ≤ fld v 25 16 → ∃ t, exec (.thrWrite p c v) s = .next t ∧ Within [.comparators] s t
          ∧ t.comparators[c] = { x with
              thr := v &&& 0x03FF03FF, blank := if x.run then some (s.time.tb + 1000) else none
              thrWas := if x.run && x.blank.isNone then some (s.time.tb, x.thr) else x.thrWas }
          ∧ ∀ d : AcIx, d ≠ c → t.comparators[d] = s.comparators[d])
        ∧ (fld v 25 16 < fld v 9 0 → ∃ t, exec (.thrWrite p c v) s = .next t ∧ t.comparators[c].thr = x.thr
          ∧ t.comparators[c].blank = x.blank ∧ t.comparators[c].cfgErr = true)
        ∧ (x.ctrl.getLsbD 0 = false → x.run = false → v.getLsbD 0 = true → glyphsOn s .comparator c = true →
          ∃ t, exec (.acCtrlWrite p c v) s = .next t ∧ Within [.comparators] s t
            ∧ t.comparators[c] = { x with
                ctrl := v &&& 0x3FFF7F, run := true, state := acInit { x with ctrl := v }, unresolved := true
                settle := some (s.time.tb + 1000), blank := none, coarseEdges := 0 })
        ∧ (x.ctrl.getLsbD 0 = true → x.run = true → v.getLsbD 0 = false → (v &&& acLocked) = (x.ctrl &&& acLocked) →
          ∃ t, exec (.acCtrlWrite p c v) s = .next t ∧ Within [.comparators] s t
            ∧ t.comparators[c] = { x with ctrl := v &&& 0x3FFF7F, run := false, settle := none, blank := none })
        ∧ (x.ctrl.getLsbD 0 = true → (v &&& acLocked) ≠ (x.ctrl &&& acLocked) →
          ∃ t, exec (.acCtrlWrite p c v) s = .next t ∧ t.comparators[c].ctrl = x.ctrl ∧ t.comparators[c].run = x.run
            ∧ t.comparators[c].cfgErr = true)))

/-- R25, R201 to R203, R205, R206; ROUND_TIME before a round has ended is the model's reading (log entry 133). -/
def Obligations.ConverterActs : Prop :=
  ∀ (s : State) (r : Fin 4096),
    let a := s.adc
    (∀ (i : Fin 16) y rest b, a.run = true → a.began = some b → notAfter (b + 500) s.time.tb = true →
      a.slots = .input i :: y :: rest → ∃ t, exec (.adcConversion r) s = .next t
        ∧ t.adc.results[i] = { value := BitVec.ofFin r, valid := true, round := a.round }
        ∧ (∀ j : Fin 16, j ≠ i → t.adc.results[j] = a.results[j])
        ∧ t.adc.slots = y :: rest ∧ t.adc.began = some (b + 500) ∧ t.adc.round = a.round)
    ∧ (∀ c hi e y rest b, a.run = true → a.began = some b → notAfter (b + 500) s.time.tb = true →
      a.slots = .readback :: y :: rest → a.reading = some (c, hi, e) → ∃ t, exec (.adcConversion r) s = .next t
        ∧ t.adc.rbDone = a.rbDone + 1 ∧ t.adc.slots = y :: rest
        ∧ (withinTol a r e = true → t.adc.rbLast = readbackAngle r e hi 0 ∧ t.adc.arbitrations = a.arbitrations
            ∧ t.adc.results[8] = { value := BitVec.ofFin r, valid := true, round := a.round }
            ∧ t.comparators = s.comparators)
        ∧ (withinTol a r e = false → a.spareActive = false → a.spareGone = false →
            t.adc.arbitrations = a.arbitrations ++ [{ threshold := some (c, hi), main := r, expected := e }]
              ∧ t.comparators[c].rbErrs = satAdd s.comparators[c].rbErrs 1))
    ∧ (∀ y b, a.run = true → a.began = some b → notAfter (b + 500) s.time.tb = true → a.slots = [y] →
      ∃ t, exec (.adcConversion r) s = .next t ∧ t.adc.round = a.round + 1 ∧ t.adc.roundTime = a.roundBegan
        ∧ t.adc.roundBegan = (b + 500) <<< 3 ∧ t.adc.began = some (b + 500) ∧ t.adc.evtStatus.getLsbD 0 = true)
    ∧ (conversionDue s = false → exec (.adcConversion r) s = .next (settle s))
    ∧ (arbitrationDue s = false → exec (.adcArbitration r) s = .next (settle s))
    ∧ (∀ x rest, arbitrationDue s = true → a.arbitrations = x :: rest → ∃ t, exec (.adcArbitration r) s = .next t
        ∧ (withinTol a r x.expected = true → t.adc.spareActive = true ∧ t.adc.arbitrations = []
            ∧ t.pool.retiredConverters.getLsbD 0 = true)
        ∧ (withinTol a r x.expected = false → t.adc.arbitrations = rest ∧ t.adc.spareActive = a.spareActive)
        ∧ (∀ c hi, withinTol a r x.expected = false → withinTol a r x.main = true → x.threshold = some (c, hi) →
            t.comparators[c].thrFault = true)
        ∧ (withinTol a r x.expected = false → withinTol a r x.main = false → t.adc.checkFail = true))
    ∧ ∀ (p : Path) (v : Word), Reaches p s → (bound s .converter 0 = false → exec (.adcCtrlWrite p v) s = .next s)
      ∧ (bound s .converter 0 = true → ∃ t, exec (.adcCtrlWrite p v) s = .next t
      ∧ t.adc.ctrl = v &&& 0x3B ∧ Within [.adc] s t
      ∧ t.adc.run = (v.getLsbD 0 && glyphsOn s .converter 0)
      ∧ (a.run = true → v.getLsbD 0 = false → t.adc.slots = [] ∧ t.adc.began = none))

/-- R56, R58, R131, R410: what the elements do. R25, R53 to R57, R59, R67, R68: writes to them. -/
def Obligations.CounterElements : Prop :=
   (∀ (s : State) (e : CeIx) (k : Fin 4),
      let x := s.counters[e]
      (x.firing.getLsbD k = true → ∃ t, exec (.ceCompareMatch e k) s = .next t
        ∧ t.counters[e] = { x with
            flags := t.counters[e].flags, matches_ := x.matches_ + 1, firing := x.firing &&& ~~~(1#4 <<< k.val)
            passed := x.passed &&& ~~~(1#4 <<< k.val), merged := x.merged &&& ~~~(1#4 <<< k.val)
            seq := if ceCmpIe x k then x.seq + 1 else x.seq }
        ∧ t.counters[e].flags.getLsbD k = true
        ∧ t.counters[e].flags.getLsbD (4 + k) = (x.flags.getLsbD (4 + k) || x.passed.getLsbD k)
        ∧ (∀ j, j ≠ k.val → j ≠ 4 + k.val → j ≠ 10 → t.counters[e].flags.getLsbD j = x.flags.getLsbD j)
        ∧ ∀ d : CeIx, d ≠ e → t.counters[d] = s.counters[d])
      ∧ (s.quiet → x.ends ≠ 0 → ∃ t, exec (.cePeriodEnd e) s = .next t ∧ Within [.nibs, .counters] s t
        ∧ t.counters[e] = { x with
            flags := t.counters[e].flags, periods := x.periods + BitVec.ofNat 16 x.ends, ends := 0, cut := false }
        ∧ (∀ d : CeIx, d ≠ e → t.counters[d] = s.counters[d])
        ∧ (∀ n : NibIx, s.time.coarse = false → pwmFollows s.nibs[n] e = true → t.nibs[n].duty = s.nibs[n].param1
            ∧ t.nibs[n].pwmOn = true ∧ t.nibs[n].pwmOut = (s.nibs[n].param1 != 0)
            ∧ t.nibs[n].drive = (if s.nibs[n].pwmOn && s.nibs[n].pwmOut == (s.nibs[n].param1 != 0) then s.nibs[n].drive
                else pwmDrive s.nibs[n] (s.nibs[n].param1 != 0)))
        ∧ ∀ n : NibIx, s.time.coarse = true ∨ pwmFollows s.nibs[n] e = false → t.nibs[n] = s.nibs[n])
      ∧ (x.firing.getLsbD k = false → exec (.ceCompareMatch e k) s = .next (settle s))
      ∧ (x.ends = 0 → exec (.cePeriodEnd e) s = .next (settle s))
      ∧ (x.takeover = false → exec (.ceTakeover e) s = .next (settle s))
      ∧ ∀ c, x.takeover = true → s.time.cycle = 0 → s.time.rulings = true → freeCe s = some c →
        ∃ t, exec (.ceTakeover e) s = .next t ∧ t.pool.ceMap[e] = c ∧ t.counters[e] = { x with takeover := false }
          ∧ (∀ d : CeIx, d ≠ e → t.pool.ceMap[d] = s.pool.ceMap[d])
          ∧ t.pool.retiredCes.getLsbD s.pool.ceMap[e].val = true)
    ∧ (∀ (s : State) (p : Path) (e : CeIx) (v : Word), Reaches p s →
        let x := s.counters[e]
        let outranked (r : CeReg) : Prop := x.wroteIn = s.time.tb >>> 1 ∧ ∃ w ∈ x.wrote, w.1 = r ∧ ceRank p < w.2
        (bound s .counter e = false ∨ outranked .ctrl → exec (.ceCtrlWrite p e v) s = .next s)
        ∧ (bound s .counter e = false → exec (.ceWinWrite p e v) s = .next s ∧ exec (.ceCountWrite p e v) s = .next s)
        ∧ (outranked .count → exec (.ceCountWrite p e v) s = .next s)
        ∧ (bound s .counter e = true → (¬ outranked .ctrl → ∃ t, exec (.ceCtrlWrite p e v) s = .next t ∧ Within [.counters] s t
          ∧ (∀ d : CeIx, d ≠ e → t.counters[d] = s.counters[d])
          ∧ let y := t.counters[e]
            y.ctrl = v &&& 0xFFFF ∧ y.count = x.count ∧ y.compare = x.compare ∧ y.period = x.period
            ∧ y.startPend = (v.getLsbD 0 && if ceEn x then x.startPend else v.getLsbD 3)
            ∧ y.run = (v.getLsbD 0 && !y.startPend && glyphsOn s .counter e)
            ∧ (x.run = false → y.run = true → y.phase = 0))
        ∧ (∃ t, exec (.ceWinWrite p e v) s = .next t ∧ Within [.counters] s t
          ∧ (∀ d : CeIx, d ≠ e → t.counters[d] = s.counters[d])
          ∧ let y := t.counters[e]
            let w := cat64 v (heldLow s p (ceAddr e + 0x14))
            (∀ k : Fin 4, ceWsel x p = k.val → outranked (.compare k) → y = x)
            ∧ (∀ k : Fin 4, ceWsel x p = k.val → ¬ outranked (.compare k) → y.compare = x.compare.set k w ∧ y.period = x.period
                ∧ (ceModulo x = true ∨ ceCmpEn x k = false ∨ 0 < (w - x.count).toInt → y.armed.getLsbD k = true))
            ∧ (ceWsel x p = 4 → y.compare = x.compare ∧ y.armed = x.armed
                ∧ (w.toNat < 2 → y.period = x.period ∧ y.shadow = x.shadow ∧ y.flags.getLsbD 11 = true)
                ∧ (2 ≤ w.toNat → outranked .period → y = x)
                ∧ (2 ≤ w.toNat → ¬ outranked .period → y.shadow = w
                    ∧ y.period = (if ceCounting x && !x.ctrl.getLsbD 2 then x.period else w)))
            ∧ (5 ≤ ceWsel x p → y = x))
        ∧ (ceEn x = false → ¬ outranked .count → ∃ t, exec (.ceCountWrite p e v) s = .next t ∧ Within [.counters] s t
          ∧ t.counters[e] = { x with
              count := cat64 v (heldLow s p (ceAddr e + 0x08))
              wroteIn := t.counters[e].wroteIn, wrote := t.counters[e].wrote }
          ∧ ∀ d : CeIx, d ≠ e → t.counters[d] = s.counters[d])
        ∧ (ceEn x = true → exec (.ceCountWrite p e v) s = .next s)))

/-- R37, R38, R61, R62, R64, R384 (TB_TRIM). -/
def Obligations.CoarseAndFine : Prop :=
  (∀ k : Nat, ((List.range 64).map fun i => coarseNs (64 * k + i)).sum = 1953125
    ∧ ((List.range 128).map fun i => coarseCounts (128 * k + i)).sum = 1953125)
  ∧ ∀ s : State, s.quiet →
    (s.time.stopped = true → s.power.lfOk = true → ∃ t, exec .coarseStep s = .next t
      ∧ t.time.tb = s.time.tb + BitVec.ofNat 64 (coarseNs s.time.coarseStep) ∧ t.time.coarse = true
      ∧ t.time.coarseStep = s.time.coarseStep + 1 ∧ t.time.frame = s.time.frame ∧ t.time.cycle = s.time.cycle
      ∧ t.time.stopped = true ∧ ∀ e : CeIx, t.counters[e] = if ceBusy s.counters[e] then
          ceClock s.counters[e] (coarseCounts s.time.coarseStep) t.time.tb else s.counters[e])
    ∧ (s.time.stopped = false ∨ s.power.lfOk = false → exec .coarseStep s = .next s)
    ∧ (s.time.stopped = true → s.time.resume = true → s.power.mode = .up → s.host.dhalt = false →
      ∃ t, exec .fineResume s = .next t ∧ Within [.clock, .time, .nibSetup, .pool] s t ∧ t.time.tb = s.time.tb
        ∧ t.time.stopped = false ∧ t.time.coarse = false ∧ t.time.rulings = true ∧ t.time.coarseStep = 0)
    ∧ (∀ u v, s.time.trimFinal = some (u, v) → notAfter u s.time.tb = true → ∃ t, exec .tbTrimFinal s = .next t
      ∧ Within [.time] s t ∧ t.time.trimFinal = none ∧ t.time.trim.toInt = max (-200000) (min 200000 v.toInt))
    ∧ ∀ p : Path, Reaches p s →
      (∀ v : Word, ∃ t, exec (.trimWrite p v) s = .next t ∧ Within [.time] s t
        ∧ t.time.trim.toInt = max (-200000) (min 200000 v.toInt) ∧ t.time.trimApplied = s.time.trimApplied
        ∧ t.time.trimClamp = (s.time.trimClamp || decide (v.toInt < -200000 ∨ 200000 < v.toInt)))
      ∧ ∃ t, exec (.ppsStampRead p) s = .next t ∧ lastRead t p = lo32 s.time.pps.stamp
        ∧ (s.canonical → latched t p 0x2048 = s.time.pps.stamp.zeroExtend 128)
        ∧ t.time.pps = { s.time.pps with new := false } ∧ Within [.time, .latches, .reads] s t

/-- R44 to R51. How a follower learns of a change of its master, and where SYNC_DELAY enters, are the model's choices
(log entries 126 and 127). -/
def Obligations.SyncLinkActs : Prop :=
  ∀ s : State, s.quiet →
    let y := s.time.sync
    (∀ p v, Reaches p s → ∃ t, exec (.syncCtrlWrite p v) s = .next t ∧ Within [.time] s t
      ∧ (s.folio.started = true → syncRole t.time.sync.ctrl = syncRole y.ctrl ∧ t.time.sync.state = y.state)
      ∧ (s.folio.started = false → t.time.sync.ctrl = v &&& 0xF
        ∧ (syncRole t.time.sync.ctrl ≠ syncRole y.ctrl → t.time.sync.state =
            (if syncRole t.time.sync.ctrl = 1 then .master else if syncRole t.time.sync.ctrl = 2 then .search
              else .standalone))
        ∧ (syncRole t.time.sync.ctrl = syncRole y.ctrl → y.state ≠ .mismatch → t.time.sync.state = y.state)))
    ∧ (∀ ok d ph, syncRole y.ctrl = 1 → y.ctrl.getLsbD 3 = true →
      ∃ t, exec (.syncFrameReceived ok d ph) s = .next t ∧ Within [.time] s t
        ∧ t.time.sync = { y with ringDelay := BitVec.ofInt 32 ph })
    ∧ (∀ ok d ph, syncRole y.ctrl = 2 → frameValid y ok d = false →
      ∃ t, exec (.syncFrameReceived ok d ph) s = .next t ∧ Within [.time] s t
        ∧ t.time.sync = { y with crcErr := satAdd y.crcErr 1 })
    ∧ (∀ ok d ph, syncRole y.ctrl = 2 → frameValid y ok d = true →
      ∃ t, exec (.syncFrameReceived ok d ph) s = .next t
        ∧ let z := t.time.sync
          let whole := 4 ≤ y.run + 1 ∧ (y.slotsSeen ||| (1#4 <<< (frameSlot d).val)) = 0xF
          let differs := (y.state = .locked ∨ y.state = .relock) ∧ masterDiffers s d = true
          let error := ph - (y.delay.toNat : Int)
          z.without = 0 ∧ z.got = true ∧ z.hop = BitVec.ofNat 4 (fld d 3 0 + 1)
          ∧ z.upHoldover = d.getLsbD 4 ∧ z.peerFault = d.getLsbD 5 ∧ z.offset = BitVec.ofInt 32 error
          ∧ (¬ differs → z.run = y.run + 1
              ∧ z.payload = y.payload.set (frameSlot d) (some (frameLow d, framePayload d)))
          ∧ (differs → s.folio.started = true → z.state = .holdover ∧ z.lost = true)
          ∧ (differs → s.folio.started = false → z.state = y.state ∧ z.stepDue = true ∧ (y.stepDue = false →
              z.payload = (Vector.replicate 4 none).set (frameSlot d) (some (frameLow d, framePayload d))))
          ∧ z.expect = some (frameLow d) ∧ z.crcErr = y.crcErr ∧ t.time.tb = s.time.tb ∧ t.time.frame = s.time.frame
          ∧ (¬ differs → y.state = .locked ∨ y.state = .relock ∨ y.state = .acquire → z.state = y.state)
          ∧ (y.state = .search → z.state = if whole then .acquire else .search)
          ∧ (y.state = .holdover → s.folio.started = false → z.state = if whole then .acquire else .holdover)
          ∧ (y.state = .holdover → s.folio.started = true → 4 ≤ y.run + 1 → z.state =
              if sameFrame t (frameLow d) = true ∧ sameTb t (frameLow d) = true
                ∧ 2 * error.natAbs < 8 * s.time.period then .relock else .mismatch))
    ∧ (syncLossDue s = true → ∃ t, exec .syncHoldoverEntry s = .next t ∧ t.time.sync.steer = y.steer
      ∧ t.time.tb = s.time.tb ∧ t.time.frame = s.time.frame ∧ t.time.cycle = s.time.cycle
      ∧ (y.state = .acquire → t.time.sync.state = .search)
      ∧ (y.state ≠ .acquire → t.time.sync.state = .holdover ∧ t.time.sync.lost = true
          ∧ (2 ≤ y.mistimed → t.time.sync.rulingMismatch = true)))
    ∧ ((y.state = .acquire ∨ y.state = .relock) → 16 ≤ y.aligned → ∃ t, exec .syncLock s = .next t ∧ Within [.time] s t
      ∧ t.time.sync = { y with state := .locked, aligned := 0 })

/-- R16, R23, R36, R41, R42, R232, R252, R253, R294, R304, R305, R309. -/
def Obligations.TicksAndCloses : Prop :=
  ∀ s : State,
    let begun (t : State) : Prop := t.time.cycle = 0 ∧ t.time.closed = false ∧ t.time.tickTb = s.time.tb
      ∧ t.time.tb = s.time.tb ∧ t.time.frame = s.time.nextFrame ∧ t.time.nextFrame = s.time.nextFrame + 1
    let gathered (t : State) : Prop := ∀ q : QuillIx, t.quills[q].active = true → t.quills[q].halted = false →
      t.quills[q].engine = { resetEngine with
        phase := if underVote t q then .idle else .computing, pc := t.quills[q].entry }
    (tickDue s = true → swapDue s = false → ∃ t, exec .tick s = .next t ∧ gathered t
      ∧ t.time.period = s.time.period ∧ (syncStep s = none → begun t))
    ∧ (swapDue s = true → ∃ t, exec .changeoverTick s = .next t ∧ gathered t ∧ (syncStep s = none → begun t)
      ∧ t.co.staged = [] ∧ t.co.phase = .none ∧ t.co.trigger = none ∧ t.co.outcome = .done
      ∧ t.co.lastFrame = t.time.frame)
    ∧ (∀ mismatched votes, closeDue s = true → ∃ t, exec (.close mismatched votes) s = .next t
      ∧ t.time = { s.time with closed := true }
      ∧ t.folio.units = s.folio.units.map (fun x => { x with
          params := x.params.map fun p => { p with closing := p.shadow } })
      ∧ (∀ q : QuillIx, restOfQuill t.quills[q] = if disputes s mismatched q
          then { restOfQuill s.quills[q] with disputed := true, withheld := true } else restOfQuill s.quills[q])
      ∧ (∀ f, s.co.phase = .armed → s.co.trigger = some (.frame f) → comingFrame s = f → t.co.phase = .committed
          ∧ t.co.dueFrame = f))
    ∧ (startDue s = true → ∃ t, exec .startTick s = .next t ∧ t.folio.started = true
      ∧ t.time.period = s.folio.rulingNs ∧ t.time.cycle = s.folio.rulingNs ∧ t.folio.routes = s.folio.routes
      ∧ t.folio.generation = s.folio.generation)
    ∧ (∀ u f, tickDue s = true → s.time.tbSet = some (u, f) → ∃ t, exec .tbSetApply s = .next t ∧ t.time.tb = u
      ∧ t.time.nextFrame = f ∧ t.time.tbSet = none ∧ t.time.cycle = s.time.cycle)
    ∧ (tickDue s = true → s.quiet → s.scribe.entry = none → s.time.tbSet = none → startDue s = false →
      exec (if swapDue s then .changeoverTick else .tick) s = .next (afterTick s))
    ∧ (tickDue s = false → afterTick s = s ∧ exec .tick s = .next (settle s) ∧ exec .changeoverTick s = .next (settle s))
    ∧ (s.quiet → expiryDue s = true → ∃ t, exec .triggerExpiry s = .next t ∧ t.co = { s.co with
        trigger := none, phase := .none, expire := 0, last := none, outcome := .expired, notTaken := s.co.notTaken + 1 })
    ∧ (carryCopied s = true → ∃ t, exec .carryCopyDone s = .next t ∧ t.co.copies = []
      ∧ (s.quiet → (∀ c ∈ s.co.copies, c.lost = none) → Within [.co] s t ∧ t.co = { s.co with copies := [] })
      ∧ ∀ c ∈ s.co.copies, ∀ w, c.lost = some w → mappedTo s c.source = none → c.source < 68 → t.ink.retired.getLsbD c.source = true)

/-- R12, R53, R450, R474 to R477. -/
def Obligations.RegisterWrites : Prop :=
  ∀ (s : State) (p : Path) (v : Word), Reaches p s →
    (∀ c a, registerOf c = some (p, a, v) → ∃ t, exec (.registerWrite p (BitVec.ofNat 32 a) v) s = .next t
      ∧ exec c s = .next t)
    ∧ (∀ c a, highWordOf c = some (p, a, v) → ∃ t, exec (.wideHighWrite p (BitVec.ofNat 32 a) v) s = .next t
      ∧ exec c s = .next t)
    ∧ (∀ (addr : Word) (x : Place), placeFor p addr.toNat = some x → wideAt x = some x.off →
      ∃ t, exec (.wideLowWrite p addr v) s = .next t ∧ Within [.latches] s t ∧ t.rlatch = s.rlatch
        ∧ (s.canonical → heldLow t p addr.toNat = v))
    ∧ ∀ addr : Word, placeFor p addr.toNat = none → exec (.registerWrite p addr v) s = .next s

/-- R9, R12, R51, R52, R65, R143, R445. -/
def Obligations.RegisterReads : Prop :=
  ∀ (s : State) (p : Path), Reaches p s →
    (∀ (addr : Word) (x : Place) (n : Nat), placeFor p addr.toNat = some x → rlAt x = some (x.off, n) →
      ∃ t, exec (.rlLowRead p addr) s = .next t ∧ lastRead t p = placePeek s p x
        ∧ (s.canonical → ∀ i < n, word32 (latched t p (addr.toNat + 16 * (i / 4))) (i % 4)
            = placePeek s p { x with off := x.off + 4 * i }))
    ∧ (∀ (addr : Word) (x : Place) (b n : Nat), placeFor p addr.toNat = some x → rlAt x = some (b, n) → b ≠ x.off →
      ∃ t, exec (.rlLowRead p addr) s = .next t ∧ Within [.reads] s t
        ∧ lastRead t p = word32 (latched s p (addr.toNat - (x.off - b) + 16 * ((x.off - b) / 16)))
            ((x.off - b) / 4 % 4))
    ∧ (∃ t, exec (.rcRead p 0x2050) s = .next t ∧ lastRead t p = s.time.pps.ovr.zeroExtend 32
      ∧ t.time = { s.time with pps := { s.time.pps with ovr := 0 } } ∧ Within [.time, .reads] s t)
    ∧ (∃ t, exec (.rcRead p 0x2074) s = .next t ∧ lastRead t p = s.time.sync.crcErr.zeroExtend 32
      ∧ t.time = { s.time with sync := { s.time.sync with crcErr := 0 } } ∧ Within [.time, .reads] s t)
    ∧ (∀ n : NibIx, ∃ t, exec (.rcRead p (BitVec.ofNat 32 (0x8001C + 64 * n.val))) s = .next t
      ∧ lastRead t p = nibPeek s n 0x1C ∧ t.nibs[n] = { s.nibs[n] with late := 0, lost := 0 }
      ∧ Within [.nibs, .reads] s t ∧ ∀ m : NibIx, m ≠ n → t.nibs[m] = s.nibs[m])
    ∧ (∀ addr : Word, placeFor p addr.toNat = none → ∃ t, exec (.rcRead p addr) s = .next t ∧ lastRead t p = 0
      ∧ Within [.reads] s t)
    ∧ (∃ t, exec (.keepDataAccess p none) s = .next t ∧ lastRead t p = keepWord s ∧ Within [.power, .reads] s t
      ∧ t.power = { s.power with keepIndex := if s.power.autoInc then s.power.keepIndex + 1 else s.power.keepIndex })
    ∧ ∀ v : Word, ∃ t, exec (.keepDataAccess p (some v)) s = .next t ∧ Within [.power] s t
      ∧ t.power.island.keep = s.power.island.keep.set (Fin.ofNat 64 s.power.keepIndex.toNat : Fin 64) v
      ∧ t.power.island.keepValid = true
      ∧ t.power.keepIndex = (if s.power.autoInc then s.power.keepIndex + 1 else s.power.keepIndex)

/-- R450, R453 to R456, R472: the frames are answered while the device is up or asleep. -/
def Obligations.ServicePortFrames : Prop :=
  ∀ (s : State) (a v : Word), s.calm →
    let err (t : State) : Prop := Within [.host] s t ∧ t.host.accessErr.getLsbD 3 = true
      ∧ t.host.accessCount = satAdd s.host.accessCount 1 ∧ t.host.spData = 0
      ∧ t.host.spLast.getLsbD 2 = true ∧ t.host.spLast.getLsbD 0 = false
    (∀ c ∈ [Instr.spWrite a v, .spQwrite a v, .spRead a, .spQread a], spTarget a = none → spRuns s = true →
      spPending s = false → ∃ t, exec c s = .next t ∧ err t ∧ t.host.accessAddr = a)
    ∧ (∀ c ∈ [Instr.spWrite a v, .spQwrite a v], ∀ r, spTarget a = some r → s.power.mode = .up →
      spPending s = false → ∃ t, exec c s = .next t ∧ Within (judging ++ [.host]) (spPut s r v) t
        ∧ t.host.spFrames = (spPut s r v).host.spFrames + 1 ∧ t.host.spLast.getLsbD 0 = true
        ∧ t.host.spLast.getLsbD 2 = false)
    ∧ (∀ c ∈ [Instr.spRead a, .spQread a], ∀ r, spTarget a = some (.reg r) → s.power.mode = .up →
      spPending s = false →
      let u := pathRead s .sp r
      ∃ t, exec c s = .next t ∧ Within (judging ++ [.host]) u t ∧ t.host.spData = u.readSp
        ∧ t.host.spFrames = u.host.spFrames + 1 ∧ t.host.spLast.getLsbD 0 = true ∧ t.host.spAccess = none)
    ∧ (∀ c ∈ [Instr.spRead a, .spQread a], ∀ r, spTarget a = some r → s.power.mode = .up → spPending s = false →
      let u := spGet s a r
      ∃ t, exec c s = .next t ∧ t.host.spFrames = u.host.spFrames + 1
        ∧ (∀ x, u.host.spAccess = some x → x.done = true → Within (judging ++ [.host, .reads]) u t
          ∧ t.host.spData = x.data ∧ t.readSp = x.data ∧ t.host.spAccess = none ∧ t.host.spLast.getLsbD 0 = true)
        ∧ (∀ x, u.host.spAccess = some x → x.done = false → Within (judging ++ [.host]) u t
          ∧ t.host.spAccess = some x ∧ t.host.spLast.getLsbD 1 = true ∧ t.host.spLast.getLsbD 0 = false))
    ∧ (∀ c ∈ [Instr.spRead a, .spQread a], ∀ r, spTarget a = some r → s.power.mode = .sleep → spPending s = false →
      ∃ t, exec c s = .next t ∧ t.power.mode = .up ∧ t.time.resume = true ∧ t.host.spAccess = some { addr := a }
        ∧ t.host.spLast.getLsbD 1 = true ∧ t.host.spLast.getLsbD 0 = false)
    ∧ (∀ x r, s.host.spAccess = some x → x.done = false → s.power.mode = .up → spTarget x.addr = some (.reg r) →
      ∃ t, exec .servicePortAccessDone s = .next t
        ∧ t.host.spAccess = some { x with data := (pathRead s .sp r).readSp, done := true }
        ∧ Within (judging ++ [.host]) (pathRead s .sp r) t)
    ∧ (∀ c ∈ [Instr.spFetch, .spQfetch], spRuns s = true →
      (∀ x, s.host.spAccess = some x → x.done = true → ∃ t, exec c s = .next t ∧ Within [.host, .reads] s t
        ∧ t.host.spData = x.data ∧ t.readSp = x.data ∧ t.host.spAccess = none ∧ t.host.spLast.getLsbD 0 = true)
      ∧ (∀ x, s.host.spAccess = some x → x.done = false → ∃ t, exec c s = .next t ∧ Within [.host] s t
        ∧ t.host.spAccess = some x ∧ t.host.spLast.getLsbD 1 = true ∧ t.host.spLast.getLsbD 0 = false)
      ∧ (s.host.spAccess = none → ∃ t, exec c s = .next t ∧ err t ∧ t.host.accessAddr = s.host.accessAddr))
    ∧ ∀ (write : Bool) (dws : Nat), Reaches .pcie s → (write = true ∨ 16 < dws) →
      ∃ t, exec (.bar0AccessError a write dws) s = .next t ∧ Within [.host] s t ∧ t.host.accessAddr = a
        ∧ t.host.accessCount = satAdd s.host.accessCount 1
        ∧ t.host.accessErr.getLsbD (if write then (if 16 < dws then 2 else 0) else 1) = true

/-- R20, R22, R26, R271, R278. -/
def Obligations.UnitControl : Prop :=
  ∀ (s : State) (p : Path) (u : UnitIx), Reaches p s →
    let wait (act : CtrlAct) (t : State) : Prop := Within [.units] s t ∧ t.folio.units = s.folio.units
      ∧ t.folio.ctrlPend = s.folio.ctrlPend ++ [{ unit := u, act := act, ticks := if inClose s then 2 else 1 }]
    (∀ x, findUnit s.folio.units u = some x →
      (∀ on, ∃ t, exec (.unitEnable p u on) s = .next t ∧ wait (.enable on) t)
      ∧ (∃ t, exec (.unitSafeRelease p u) s = .next t ∧ wait .safeRelease t)
      ∧ (∃ t, exec (.unitSafeSet p u) s = .next t ∧ (findUnit t.folio.units u).map (·.safe) = some true
        ∧ t.folio.ctrlPend = s.folio.ctrlPend.filter fun c => !(c.unit == u.val && c.act == .safeRelease))
      ∧ (x.rec_.kind = .glyph → x.params ≠ [] →
        (∀ c ∈ s.folio.ctrlPend, c.unit = u.val → c.act = .apply → c.ticks ≠ if inClose s then 2 else 1) →
        ∃ t, exec (.glyphApply p u) s = .next t ∧ wait .apply t))
    ∧ (findUnit s.folio.units u = none → ∀ on, exec (.unitEnable p u on) s = .next s
      ∧ exec (.unitSafeSet p u) s = .next s ∧ exec (.unitSafeRelease p u) s = .next s
      ∧ exec (.glyphApply p u) s = .next s)
    ∧ ∀ (q : QuillIx) (r : Fin 17) (v : Word), ∃ t, exec (.mbxWrite p q r v) s = .next t ∧ Within [.quills] s t
      ∧ (∀ h : r.val < 16, t.quills[q] = { s.quills[q] with
          mbx := { s.quills[q].mbx with regs := s.quills[q].mbx.regs.set r.val v } })
      ∧ (r.val = 16 → t.quills[q] = { s.quills[q] with mbx := { s.quills[q].mbx with hold := v.getLsbD 0 } })
      ∧ ∀ k : QuillIx, k ≠ q → t.quills[k] = s.quills[k]

/-- R378 to R381, R387, R390, R391. -/
def Obligations.RingsAndMailbox : Prop :=
  ∀ (s : State),
    let c := s.scribe
    (∀ (p : Path) (v : Word), Reaches p s →
      let ahead := (v.truncate 16 - c.cmd.cons).toNat
      (c.cmd.en = false → exec (.cmdTail p v) s = .next s)
      ∧ (c.cmd.en = true → 2 ^ c.cmd.sizeLog2.toNat < ahead → ∃ t, exec (.cmdTail p v) s = .next t
        ∧ Within [.scribe] s t ∧ t.scribe = { c with ringErr := true })
      ∧ (c.cmd.en = true → ahead ≤ 2 ^ c.cmd.sizeLog2.toNat → ∃ t, exec (.cmdTail p v) s = .next t
        ∧ Within [.scribe] s t ∧ t.scribe.cmd = { c.cmd with prod := v.truncate 16 } ∧ t.scribe.fetchFailed = false
        ∧ t.scribe.queue.length = c.queue.length + (ahead - unfetched c)
        ∧ t.scribe.seq = c.seq + BitVec.ofNat 32 (ahead - unfetched c)))
    ∧ (∀ (entry : BitVec 512) (e : CmdEntry), s.calm → s.power.mode = .up → tickDue s = false →
      c.queue = [e] → e.bytes = none →
      (c.fetchFailed = true → exec (.commandFetch entry) s = .next s)
      ∧ (∀ n, c.fetchFailed = false → noRequest s = some n → ∃ t, exec (.commandFetch entry) s = .next t
        ∧ Within [.scribe] s t ∧ t.scribe = { c with ringErr := true, fetchFailed := true })
      ∧ (c.fetchFailed = false → noRequest s = none → cmdOpcode entry ≠ opAbort → scribeWaits s = false →
        (turnStatus { e with bytes := some entry } entry = none → ∃ t, exec (.commandFetch entry) s = .next t
          ∧ Within [.scribe] s t ∧ t.scribe = { c with
              cmd := { c.cmd with cons := c.cmd.cons + 1 }, queue := [{ e with bytes := some entry }] })
        ∧ (∀ st d r0, turnStatus { e with bytes := some entry } entry = some (st, d, r0) →
            e.mailbox = false → c.rsp.en = true → rspFull c.rsp = false → ∃ t, exec (.commandFetch entry) s = .next t
              ∧ Answered s t { e with bytes := some entry } entry [] st d r0 0
              ∧ t.scribe.cmd = { c.cmd with cons := c.cmd.cons + 1 })))
    ∧ (∀ p : Path, Reaches p s →
      let b := mailboxCommand c
      let e : CmdEntry := { seq := c.seq, bytes := some b, mailbox := true, at_ := s.time.tb }
      (c.busy = true → exec (.mailboxGo p) s = .next s)
      ∧ (c.busy = false → c.queue = [] → cmdOpcode b ≠ opAbort → (scribeWaits s = true ∨ turnStatus e b = none) →
        ∃ t, exec (.mailboxGo p) s = .next t ∧ Within [.scribe] s t ∧ t.scribe = { c with
          busy := true, done := false, mbxSeq := c.seq.truncate 16, seq := c.seq + 1, queue := [e] }))
    ∧ (∀ (p : Path) (v : Word), Reaches p s →
      (c.held = none → ∃ t, exec (.rspCons p v) s = .next t ∧ Within [.scribe] s t
        ∧ t.scribe = { c with rsp := { c.rsp with cons := v.truncate 16 } })
      ∧ (∀ r, c.held = some r → c.restarting = false → r.mailbox = false → c.rsp.en = true → c.queue = [] →
        rspFull { c.rsp with cons := v.truncate 16 } = false → ∃ t, exec (.rspCons p v) s = .next t
          ∧ t.scribe.held = none ∧ t.scribe.rspWait = false ∧ t.scribe.doneSeq = r.seq
          ∧ t.scribe.rsp.prod = c.rsp.prod + 1 ∧ t.posted = s.posted ++ [.write
              (c.rsp.base + BitVec.ofNat 64 (32 * (c.rsp.prod.toNat % 2 ^ c.rsp.sizeLog2.toNat)))
              (responseBytes r c.rsp.phase)]))
    ∧ ∀ (p : Path) (rsp : Bool) (v : Word), Reaches p s → c.held = none →
      let k := if rsp then c.rsp else c.cmd
      let size := fld v 7 4
      ∃ t, exec (.ringCtrlWrite p rsp v) s = .next t ∧ Within [.scribe] s t
        ∧ (if rsp then t.scribe.cmd = c.cmd else t.scribe.rsp = c.rsp)
        ∧ let m := if rsp then t.scribe.rsp else t.scribe.cmd
          m.base = k.base ∧ (v.getLsbD 0 = false → m.en = false ∧ t.scribe.ringErr = c.ringErr)
          ∧ (v.getLsbD 0 = true → k.en = true → m = k ∧ t.scribe.ringErr = c.ringErr)
          ∧ (v.getLsbD 0 = true → k.en = false → 4 ≤ size → size ≤ 12 → t.scribe.ringErr = c.ringErr
              ∧ m = { k with en := true, sizeLog2 := BitVec.ofNat 4 size, prod := 0, cons := 0, phase := true })
          ∧ (v.getLsbD 0 = true → k.en = false → size < 4 ∨ 12 < size → m.en = false ∧ t.scribe.ringErr = true)

/-- R293, R295, R297, R298, R383 to R387, R400, R414, R434, R435. -/
def Obligations.CommandsAnswered : Prop :=
  ∀ (s : State) (e : CmdEntry) (b : BitVec 512) (image : List Byte) (key : BitVec 512),
    let bytes := imageBytes b image
    let host := cmdArg b 0 = 0 ∨ noRequest s = none
    let half (i : Nat) : Nat := fld (cmdArg b i) 31 0
    (∀ c ∈ [(Instr.cmdVerifyFolio image, opVerifyFolio), (.cmdLoadFolio image, opLoadFolio),
        (.cmdStageLeaf image, opStageLeaf), (.cmdLoadPatch image, opLoadPatch)], Turn s c.2 e b →
      (c.2 = opLoadFolio → s.folio.started = false) → (c.2 = opStageLeaf → s.scribe.stoppedSafe = false) →
      (∀ n, noRequest s = some n → ∃ t, exec c.1 s = .next t ∧ Answered s t e b [] stNoPath 0 0 0)
      ∧ ∀ a, noRequest s = none → imageFails b image = some a → ∃ t, exec c.1 s = .next t
        ∧ Answered s t e b [] stBusError 0 a 0)
    ∧ (Turn s opIdentify e b → host → ∃ t, exec .cmdIdentify s = .next t
      ∧ Answered s t e b (reportOf b (identifyReport s)) stSuccess 0 (identity s) Config.deviceUid)
    ∧ (Turn s opGetHealth e b → host → ∃ t, exec .cmdGetHealth s = .next t
      ∧ Answered s t e b (reportOf b (healthReport s)) stSuccess 0 ((healthSummary s).zeroExtend 64) s.time.frame)
    ∧ (Turn s opRepairStatus e b → host → ∃ t, exec .cmdRepairStatus s = .next t
      ∧ Answered s t e b (reportOf b (repairReport s)) stSuccess 0 ((ledgerWord s.ink).zeroExtend 64)
          ((coldWord s.ink).zeroExtend 64))
    ∧ (Turn s opRepairStatus e b → ¬host → ∃ t, exec .cmdRepairStatus s = .next t
      ∧ Answered s t e b [] stBusError 0 (cmdArg b 0) 0)
    ∧ (Turn s opReadUnitDir e b →
      let first := fld (cmdArg b 1) 11 0
      let count := fld (cmdArg b 1) 28 16
      let us := (List.range count).map fun i => first + i
      (count = 0 ∨ 4096 < first + count → ∃ t, exec .cmdReadUnitDir s = .next t
        ∧ Answered s t e b [] stBadField 0x10 0 0)
      ∧ (1 ≤ count → first + count ≤ 4096 → host → ∃ t, exec .cmdReadUnitDir s = .next t
        ∧ Answered s t e b (reportOf b (us.flatMap fun u => wordBytes ((List.range 8).map (directoryWord s u))))
            stSuccess 0 (BitVec.ofNat 64 (us.filter fun u => (findUnit s.folio.units u).isSome).length) 0))
    ∧ (Turn s opPatchStatus e b → ∃ t, exec .cmdPatchStatus s = .next t
      ∧ Answered s t e b [] stSuccess 0 ((fwVersion s).zeroExtend 64) s.scribe.patchDigest)
    ∧ (Turn s opAckFault e b → ∃ t r0, exec .cmdAckFault s = .next t ∧ Answered s t e b [] stSuccess 0 r0 0
      ∧ ∀ c : ClassIx, t.blotter.classes[c] = if tst (cmdArg b 0) 8 ∨ c = classOf (fld (cmdArg b 0) 7 0)
          then ackClass s.time.tb s.blotter.classes[c] else s.blotter.classes[c])
    ∧ (Turn s opInjectFault e b → fld (cmdArg b 0) 31 16 < checkerInstances (fld (cmdArg b 0) 3 0) →
      fld (cmdArg b 1) 15 0 ≠ 0 → ∃ t, exec .cmdInjectFault s = .next t ∧ Answered s t e b [] stSuccess 0 0 0
        ∧ t.blotter.inj.active = true ∧ t.blotter.inj.checker = fld (cmdArg b 0) 3 0
        ∧ t.blotter.inj.inst = fld (cmdArg b 0) 31 16
        ∧ t.blotter.inj.remaining = BitVec.ofNat 16 (fld (cmdArg b 1) 15 0) ∧ t.blotter.inj.hits = 0)
    ∧ (Turn s opMarch e b → fld (cmdArg b 0) 1 0 = 2 → ∃ t, exec .cmdMarchSetCtrl s = .next t
      ∧ Answered s t e b [] stSuccess 0 0 0 ∧ t.ink = { s.ink with
          march := { s.ink.march with ctrl := BitVec.ofNat 32 (half 1) &&& 0xFFFF0007 } })
    ∧ (Turn s opDiscardStaged e b →
      (stagingBusy s = true → ∃ t, exec .cmdDiscardStaged s = .next t ∧ Answered s t e b [] stBadState 0x1B 0 0)
      ∧ (stagingBusy s = false → ∃ t, exec .cmdDiscardStaged s = .next t ∧ t.co.staged = []
        ∧ Answered s t e b [] stSuccess 0 (BitVec.ofNat 64 s.co.staged.length) 0))
    ∧ (Turn s opVerifyFolio e b → noRequest s = none → imageFails b image = none →
      (∀ code off, checkImage s bytes true true = some (code, off) → ∃ t, exec (.cmdVerifyFolio image) s = .next t
        ∧ Answered s t e b [] stImage code (BitVec.ofNat 64 off) 0)
      ∧ (checkImage s bytes true true = none → ∃ t, exec (.cmdVerifyFolio image) s = .next t
        ∧ Answered s t e b [] stSuccess 0 0 0))
    ∧ (Turn s opLoadFolio e b →
      (s.folio.started = true → ∃ t, exec (.cmdLoadFolio image) s = .next t ∧ Answered s t e b [] stBadState 0 0 0)
      ∧ (s.folio.started = false → noRequest s = none → imageFails b image = none →
        (∀ code off, checkImage s bytes true false = some (code, off) → ∃ t, exec (.cmdLoadFolio image) s = .next t
          ∧ Answered s t e b [] stImage code (BitVec.ofNat 64 off) 0 ∧ t.folio = s.folio)
        ∧ (∀ u off, checkImage s bytes true false = none → loadImage s (imageOf bytes) = (u, some off) →
          ∃ t, exec (.cmdLoadFolio image) s = .next t ∧ Answered s t e b [] stImage 0x0F (BitVec.ofNat 64 off) 0
            ∧ t.folio.loaded = false)
        ∧ (∀ u, checkImage s bytes true false = none → loadImage s (imageOf bytes) = (u, none) →
          let im := imageOf bytes
          ∃ t, exec (.cmdLoadFolio image) s = .next t ∧ t.folio.loaded = true ∧ t.folio.generation = im.generation
            ∧ t.folio.routes = im.routes ∧ t.folio.guards = im.guards ∧ t.folio.grants = im.grants
            ∧ t.folio.leaves = im.leaves ∧ t.stores = u.stores)))
    ∧ (Turn s opStageLeaf e b → s.scribe.stoppedSafe = false → noRequest s = none → imageFails b image = none →
      (∀ code off, checkImage s bytes false true = some (code, off) → ∃ t, exec (.cmdStageLeaf image) s = .next t
        ∧ Answered s t e b [] stImage code (BitVec.ofNat 64 off) 0)
      ∧ (∀ u code off, checkImage s bytes false true = none → stageLeaf s bytes = (u, some (code, off)) →
        ∃ t, exec (.cmdStageLeaf image) s = .next t ∧ Answered s t e b [] stImage code (BitVec.ofNat 64 off) 0)
      ∧ (∀ u, checkImage s bytes false true = none → stageLeaf s bytes = (u, none) →
        ∃ t, exec (.cmdStageLeaf image) s = .next t ∧ t.co.staged = u.co.staged
          ∧ (t.co.staged.getLast?).map (·.image) = some (imageOf bytes)
          ∧ Answered s t e b [] stSuccess 0
              (BitVec.ofNat 64 (imgLeaf bytes + 2 ^ 32 * (imgGeneration bytes).toNat)) 0))
    ∧ (Turn s opRetireResource e b →
      let kind := fld (cmdArg b 0) 7 0
      let i := fld (cmdArg b 0) 23 8
      ((retireResource s kind i).2 = .badIndex → ∃ t, exec .cmdRetireResource s = .next t
        ∧ Answered s t e b [] stBadField 8 0 0)
      ∧ ((retireResource s kind i).2 = .noSpare → ∃ t, exec .cmdRetireResource s = .next t
        ∧ Answered s t e b [] stNoSpare kind 0 0)
      ∧ (∀ k, kind = 3 → i < 272 → (retireResource s kind i).2 = .affects k → ∃ t, exec .cmdRetireResource s = .next t
        ∧ Answered s t e b [] stSuccess 0 (BitVec.ofNat 64 k) 0 ∧ t.pool.retiredCells.getLsbD i = true))
    ∧ (Turn s opKeyEnroll e b →
      (s.scribe.keyHash.isSome = true → ∃ t, exec (.cmdKeyEnroll key) s = .next t
        ∧ Answered s t e b [] stDenied 0 0 0 ∧ t.scribe.keyHash = s.scribe.keyHash)
      ∧ (∀ n, s.scribe.keyHash = none → cmdArg b 1 = 0x5345414C → noRequest s = some n →
        ∃ t, exec (.cmdKeyEnroll key) s = .next t ∧ Answered s t e b [] stBusError 0 (cmdArg b 0) 0)
      ∧ (s.scribe.keyHash = none → cmdArg b 1 = 0x5345414C → noRequest s = none →
        onCurve (fld key 255 0) (fld key 511 256) = true → ∃ t, exec (.cmdKeyEnroll key) s = .next t
          ∧ t.scribe.keyHash = some (BitVec.ofNat 256 (leNat (sha256 (leBytes 64 key.toNat))))
          ∧ Answered s t e b [] stSuccess 0 (BitVec.ofNat 64 (leNat ((sha256 (leBytes 64 key.toNat)).take 8))) 0))
    ∧ (Turn s opSleep e b →
      (s.folio.started = true → ∃ t, exec .cmdSleep s = .next t ∧ Answered s t e b [] stBadState 0 0 0)
      ∧ (s.folio.started = false → s.power.lfOk = true → ∃ t, exec .cmdSleep s = .next t
        ∧ Answered s t e b [] stSuccess 0 0 0 ∧ t.scribe.entry = some false
        ∧ t.scribe.wakeSel = BitVec.ofNat 4 (fld (cmdArg b 0) 3 0)))
    ∧ (Turn s opStandby e b →
      (s.folio.started = true → ∃ t, exec .cmdStandby s = .next t ∧ Answered s t e b [] stBadState 0 0 0)
      ∧ (s.folio.started = false → s.power.lfOk = true → s.power.vbatOk = true → host →
        ∃ t, exec .cmdStandby s = .next t ∧ Answered s t e b [] stSuccess 0 0 0 ∧ t.scribe.entry = some true
          ∧ t.scribe.wakeSel = BitVec.ofNat 4 (fld (cmdArg b 1) 3 0)
          ∧ (cmdArg b 0 = 0 → t.power.island.keep = s.power.island.keep)
          ∧ (cmdArg b 0 ≠ 0 → t.power.island.keepValid = true)))

/-- R36, R294, R302, R327, R382, R384, R386 to R388, R404. Which patches pass depends on the key hash in the part's
fuses, of which the model says nothing. -/
def Obligations.CommandsArranged : Prop :=
  ∀ (s : State) (e : CmdEntry) (b : BitVec 512) (image : List Byte),
    let half (i : Nat) : Word := BitVec.ofNat 32 (fld (cmdArg b i) 31 0)
    let waits (ph : CmdPhase) (t : State) : Prop := t.scribe.queue = [{ e with phase := ph }] ∧ t.posted = s.posted
    (Turn s opSnapshot e b → ∃ t, exec .cmdSnapshot s = .next t ∧ waits .started t ∧ t.scribe.snapDue = true
      ∧ Within [.scribe] s t)
    ∧ (Turn s opStopToSafe e b → ∃ t, exec .cmdStopToSafe s = .next t ∧ waits .committed t ∧ t.scribe.stopDue = true
      ∧ Within [.scribe] s t)
    ∧ (Turn s opStart e b → s.power.calibrating = 0 →
      let f := if cmdArg b 0 = 0 then firstFrame s else cmdArg b 0
      let ready := s.folio.loaded = true ∧ s.folio.started = false ∧ s.scribe.stoppedSafe = false
      let synced := isFollower s = false ∨ s.time.sync.state = .locked
      (¬ready → ∃ t, exec .cmdStart s = .next t ∧ Answered s t e b [] stBadState 0 0 0)
      ∧ (ready → ¬synced → ∃ t, exec .cmdStart s = .next t ∧ Answered s t e b [] stSync s.time.sync.state.code 0 0)
      ∧ (ready → synced → precedes f (firstFrame s) = true → ∃ t, exec .cmdStart s = .next t
        ∧ Answered s t e b [] stLate 0 0 0)
      ∧ (ready → synced → precedes f (firstFrame s) = false → within60s s f = false → ∃ t, exec .cmdStart s = .next t
        ∧ Answered s t e b [] stBadField 8 0 0)
      ∧ (ready → synced → precedes f (firstFrame s) = false → within60s s f = true → startOwners s = none →
        ∃ t, exec .cmdStart s = .next t ∧ waits .started t ∧ t.folio = { s.folio with startAt := some f }
          ∧ Within [.units, .scribe] s t))
    ∧ (Turn s opChangeover e b →
      (s.co.staged = [] → ∃ t, exec .cmdChangeover s = .next t ∧ Answered s t e b [] stBadState 0 0 0)
      ∧ (∀ off, s.co.staged ≠ [] → changeoverField s b = some off → ∃ t, exec .cmdChangeover s = .next t
        ∧ Answered s t e b [] stBadField off 0 0)
      ∧ (s.co.staged ≠ [] → changeoverField s b = none → s.co.staged.any (·.unready) = true →
        ∃ t, exec .cmdChangeover s = .next t ∧ Answered s t e b [] stUnready CoOutcome.unready.code 0 0
          ∧ t.co.outcome = .unready ∧ t.co.phase = .none ∧ t.co.notTaken = s.co.notTaken + 1)
      ∧ (s.co.staged ≠ [] → changeoverField s b = none → s.co.staged.any (·.unready) = false →
        (fld (cmdArg b 0) 1 0 = 1 → precedes (cmdArg b 2) (firstFrame s) = false) →
        ∃ t, exec .cmdChangeover s = .next t ∧ waits .started t ∧ Within [.co, .scribe] s t ∧ t.co.phase = .armed
          ∧ t.co.expire = cmdArg b 3 ∧ t.co.staged = s.co.staged
          ∧ (fld (cmdArg b 0) 1 0 = 1 → t.co.trigger = some (.frame (cmdArg b 2)))
          ∧ (fld (cmdArg b 0) 1 0 = 2 → t.co.earliest = cmdArg b 2
              ∧ t.co.trigger = some (.angle (Fin.ofNat 16 (fld (cmdArg b 0) 5 2)) (half 1)))))
    ∧ (Turn s opTbSet e b →
      (s.folio.started = true → ∃ t, exec .cmdTbSet s = .next t ∧ Answered s t e b [] stBadState 0 0 0)
      ∧ (s.folio.started = false → isFollower s = true → ∃ t, exec .cmdTbSet s = .next t
        ∧ Answered s t e b [] stSync s.time.sync.state.code 0 0)
      ∧ (s.folio.started = false → isFollower s = false → ∃ t, exec .cmdTbSet s = .next t ∧ waits .started t
        ∧ t.time = { s.time with tbSet := some (cmdArg b 0, cmdArg b 1) }))
    ∧ (Turn s opTbTrim e b → ∃ t, exec .cmdTbTrim s = .next t ∧ waits .committed t
      ∧ t.time.trim.toInt = max (-200000) (min 200000 (half 0).toInt)
      ∧ (half 1 = 0 → t.time.trimFinal = none)
      ∧ (half 1 ≠ 0 → t.time.trimFinal = some (s.time.tb + BitVec.ofNat 64 (s.time.period - s.time.cycle)
          + BitVec.ofNat 64 (1000000 * (half 1).toNat), half 2)))
    ∧ (Turn s opMarch e b → fld (cmdArg b 0) 1 0 = 1 →
      let k : InkIx := Fin.ofNat 64 (fld (cmdArg b 0) 13 8)
      (s.ink.banks[k].owner.kind ≠ .none → ∃ t, exec .cmdMarchDestroy s = .next t
        ∧ Answered s t e b [] stBadState 0 0 0)
      ∧ (s.ink.banks[k].owner.kind = .none → s.co.staged = [] →
        (∀ c ∈ s.co.copies, c.bank ≠ k ∧ s.ink.banks[k].phys ≠ some c.source) → ∃ t, exec .cmdMarchDestroy s = .next t
        ∧ waits .committed t ∧ t.ink.march.destroying = some k ∧ t.ink.banks[k].owner.kind = .march
        ∧ t.ink.banks[k].destroying = true ∧ t.ink.cells = s.ink.cells))
    ∧ (Turn s opLoadPatch e b → noRequest s = none → imageFails b image = none →
      ∃ t, exec (.cmdLoadPatch image) s = .next t
        ∧ match patchCheck s (fld (cmdArg b 1) 31 0) (imageBytes b image) with
          | some n => Answered s t e b [] stAuth n 0 0 ∧ t.scribe.patch = s.scribe.patch
          | none => waits .committed t ∧ t.scribe.restarting = true
              ∧ t.scribe.patch = BitVec.ofNat 16 (u16 (imageBytes b image) 0x08))
    ∧ (Turn s opAbort e b → tickDue s = false →
      let tag := fld (cmdArg b 0) 15 0
      (∀ n, s.scribe.ended = some (s.time.tb, tag, n) → ∃ t, exec .cmdAbort s = .next t
        ∧ Answered s t e b [] stTooLate 0 (n.zeroExtend 64) 0)
      ∧ ((∀ n, s.scribe.ended ≠ some (s.time.tb, tag, n)) → ∃ t, exec .cmdAbort s = .next t
        ∧ Answered s t e b [] stNotFound 0 0 0))
    ∧ (∀ (a : CmdEntry) (c : BitVec 512), s.calm → s.power.mode = .up → tickDue s = false → scribeWaits s = false →
      s.scribe.queue = [e, a] → e.bytes = some b → a.bytes = some c → cmdOpcode c = opAbort → reservedField c [0xFFFF] = none →
      cmdOpcode b ≠ opAbort → fld (cmdArg c 0) 15 0 = cmdTag b → e.seq ≠ a.seq → a.abort = none → a.abortNone = false →
      a.cancelled = false → e.phase = .waiting → e.mailbox = false → a.mailbox = false → s.scribe.rsp.en = true →
      (s.scribe.rsp.prod - s.scribe.rsp.cons).toNat + 1 < 2 ^ s.scribe.rsp.sizeLog2.toNat →
        ∃ t, exec .cmdAbort s = .next t ∧ t.scribe.queue = [] ∧ t.scribe.doneSeq = a.seq
          ∧ t.scribe.aborted = satAdd s.scribe.aborted 1 ∧ t.scribe.rsp.prod = s.scribe.rsp.prod + 2
          ∧ t.posted.length = s.posted.length + 2)
    ∧ (s.power.mode = .up → s.scribe.restarting = false → ∀ x rest, s.scribe.queue = x :: rest →
      (∀ y ∈ rest, y.seq ≠ x.seq) → ∀ c ∈ [Instr.scribeLockstepMismatch, .scribeWdog],
        ∃ t, exec c s = .next t ∧ t.scribe.restarting = true
          ∧ (x.phase = .waiting → t.scribe.queue = s.scribe.queue)
          ∧ (x.phase = .started → t.scribe.queue = { x with lost := true } :: rest)
          ∧ (x.phase = .committed → t.scribe.queue = { x with restarted := true } :: rest))
    ∧ (s.calm → s.power.mode = .up → tickDue s = false → s.scribe.restarting = true → s.scribe.queue = [] → s.scribe.held = none →
      ∃ t, exec .scribeRestart s = .next t ∧ t.scribe = { s.scribe with
        restarting := false, restarts := satAdd s.scribe.restarts 1, notice := true })

/-- R309, R315 to R323, R326 to R330. The access clauses are about a whole word, with no other write in the same cycle and no
bit error. -/
def Obligations.InkwellAccesses : Prop :=
  ∀ (s : State),
    let k := s.ink
    let m := k.march
    (∀ (p : Path) (b : InkIx) (w : Fin 4096), Reaches p s →
      let addr : Word := BitVec.ofNat 32 (65536 * b.val + 16 * w.val)
      let free : Prop := pathJob s p = none ∧ ((pathWho p).master = none ∨ b ∉ k.used)
      let served (t : State) : Prop := t.ink = { k with
        cells := t.ink.cells, errors := t.ink.errors, writes := t.ink.writes, used := t.ink.used
        banks := k.banks.set b { k.banks[b] with lastB := (pathWho p).master.getD k.banks[b].lastB } }
      (∀ x, free → admits s b (pathWho p) = true → readWord s b w = some x →
        (∀ r ∈ k.writes, r.word ≠ x ∨ r.tb ≠ s.time.tb) → errorAt k.errors x = none →
        ∃ t, exec (.bar4Read p addr 16) s = .next t ∧ Within [.reads, .ink] s t ∧ served t ∧ t.ink.cells = k.cells
          ∧ t.readBytes = (List.range 16).map fun i => sparseGet 0 k.cells (16 * x + i))
      ∧ (free → admits s b (pathWho p) = true → readWord s b w = none → ∃ t, exec (.bar4Read p addr 16) s = .next t
        ∧ Within [.reads, .ink] s t ∧ served t ∧ t.ink.cells = k.cells ∧ t.readBytes = List.replicate 16 0)
      ∧ (¬ free → ∃ t, exec (.bar4Read p addr 16) s = .next t ∧ Within [.host] s t
        ∧ t.host = { s.host with bar4 := s.host.bar4 ++ [{
            path := p, addr := addr.toNat, len := 16, data := none, left := [(b, w)] }] })
      ∧ (free → admits s b (pathWho p) = false → ∃ t, exec (.bar4Read p addr 16) s = .next t
        ∧ t.readBytes = List.replicate 16 0 ∧ t.ink.cells = k.cells)
      ∧ (∀ (data : List Byte) x, free → data.length = 16 → admits s b (pathWho p) = true → servingWord s b w = some x →
        k.writes = [] → (∀ c ∈ s.co.copies, x = 4096 * c.source + w → w ∉ c.words) → s.canonical → ∃ t, exec (.bar4Write p addr (data.map some)) s = .next t
          ∧ Within [.cells, .ink, .co] s t ∧ served t ∧ carryOf t b w = none
          ∧ ∀ a i, i < 16 → sparseGet 0 t.ink.cells (16 * a + i)
              = if a = x ∨ a ∈ shadowWords s b w then data.getD i 0 else sparseGet 0 k.cells (16 * a + i))
      ∧ (∀ data : List Byte, data.length = 16 → admits s b (pathWho p) = false →
        ∃ t, exec (.bar4Write p addr (data.map some)) s = .next t ∧ t.ink.cells = k.cells)
      ∧ ∀ v : Word, ∃ t, exec (.handoverRequest p b v) s = .next t ∧ Within [.ink] s t
        ∧ (∀ c : InkIx, c ≠ b → t.ink.banks[c] = k.banks[c])
        ∧ (handoverFor s b v = none → t.ink.banks[b] = { k.banks[b] with
            refused := true, evtStatus := setBit k.banks[b].evtStatus 1 true })
        ∧ (∀ o, handoverFor s b v = some o → t.ink.banks[b] = { k.banks[b] with
            pend := some { owner := o, ticks := if o.kind = .quill ∨ k.banks[b].owner.kind = .quill
              then (if inClose s then 2 else 1) else 0 } }))
    ∧ (s.quiet → marchDue s = true → ∀ u, m.understudy = some u → k.retired.getLsbD u = false →
      carriesFrom s u = false → (∀ p rest, m.freeToTest = p :: rest → bankFree s p = true → ∃ t, exec .marchSliceStart s = .next t
        ∧ Within [.ink] s t ∧ t.ink = { k with march := { m with
            phase := .freeBank, freeTesting := some p, freeToTest := rest, since := s.time.tb, rulings := 0 } })
      ∧ (∀ b : InkIx, m.freeToTest = [] →
        ((indices 64).filter fun (c : InkIx) => m.nextBank ≤ c.val && marchable s c).head? = some b →
        ∃ t, exec .marchSliceStart s = .next t ∧ Within [.ink] s t ∧ t.ink = { k with march := { m with
          bank := b, slice := if b.val = m.nextBank then m.nextSlice else 0, phase := .copy, words := 0
          since := s.time.tb, rulings := 0, stopped := false } }))
    ∧ (s.quiet → marchDue s = false → exec .marchSliceStart s = .next s)
    ∧ (∀ h : m.bank < 64, s.quiet → m.phase = .copy → m.words = 256 → ∃ t, exec .sliceCopyDone s = .next t
      ∧ Within [.ink] s t ∧ t.ink.march = { m with phase := .test, since := s.time.tb }
      ∧ t.ink.banks = k.banks.set m.bank { k.banks[m.bank] with
          redirect := m.understudy.map fun u => (m.slice, u), lastSlice := m.slice })
    ∧ (m.phase = .test → testOver s 256 m.since = true →
      (s.quiet → ∃ t, exec (.sliceTestDone true) s = .next t ∧ Within [.ink] s t
        ∧ t.ink = { k with march := { m with phase := .restore, words := 0, since := s.time.tb } })
      ∧ ∀ h : m.bank < 64, s.quiet → s.pool.exhausted.getLsbD 1 = true → ∃ t, exec (.sliceTestDone false) s = .next t
        ∧ t.ink.banks[m.bank].failed = true ∧ t.ink.banks[m.bank].redirect = k.banks[m.bank].redirect
        ∧ t.ink.march.phase = .idle ∧ t.ink.march.failSlices = satAdd m.failSlices 1 ∧ t.ink.cells = k.cells
        ∧ ((∃ c, (⟨m.bank, h⟩, c) ∈ t.ink.waiting) ∨ ∃ g, t.ink.migration = some g ∧ g.bank = ⟨m.bank, h⟩))
    ∧ (s.quiet → m.phase = .restore → m.words = 256 → ∃ t, exec .sliceRestoreDone s = .next t ∧ Within [.ink] s t
      ∧ t.ink = { k with march := { m with phase := .lift } })
    ∧ (∀ g, s.quiet → k.migration = some g → 4096 ≤ g.copied → g.done = false →
      ∃ t, exec .migrationCopyDone s = .next t ∧ Within [.ink] s t
        ∧ t.ink = { k with migration := some { g with done := true } })
    ∧ ∀ b : InkIx, s.quiet → m.destroying = some b → testOver s 4096 m.destroySince = true →
      ∃ t, exec (.destroyingTestDone true) s = .next t ∧ t.ink.march.destroying = none
        ∧ t.ink.banks[b].owner.kind = .none ∧ t.ink.banks[b].destroying = false
        ∧ (s.canonical → ∀ p, k.banks[b].phys = some p → ∀ i < 65536, sparseGet 0 t.ink.cells (65536 * p + i) = 0)
        ∧ (∀ c : InkIx, c ≠ b → t.ink.banks[c] = k.banks[c])

/-- R335 to R351. The clauses about records are about a channel that holds no records of a stream. -/
def Obligations.DmaActs : Prop :=
  ∀ (s : State) (c : DmaIx),
    let x := s.dma.chans[c]
    (∀ p : Path, Reaches p s →
      (chanBound s c = false → exec (.dmaDoorbell p c) s = .next s)
      ∧ (chanBound s c = true → noRequest s = none →
        (x.state = .idle → x.head ≠ 0 → ∃ t, exec (.dmaDoorbell p c) s = .next t ∧ Within [.dma] s t
          ∧ t.dma.chans[c] = { x with
              state := .fetch, cur := x.head, desc := none, askNext := false, repeated := false })
        ∧ (x.state = .idle → x.head = 0 → exec (.dmaDoorbell p c) s = .next s)
        ∧ (x.state ≠ .idle → x.askNext = true → x.polledAt = some s.time.tb →
          exec (.dmaDoorbell p c) s = .next s)
        ∧ (x.state ≠ .idle → (x.state ≠ .tailWait ∨ x.askNext = true) →
          (x.askNext = true → x.polledAt ≠ some s.time.tb) → ∃ t, exec (.dmaDoorbell p c) s = .next t ∧ Within [.dma] s t
          ∧ t.dma.chans[c] = { x with dbPending := true })
        ∧ (x.state = .tailWait → x.askNext = false → ∃ t, exec (.dmaDoorbell p c) s = .next t ∧ Within [.dma] s t
          ∧ t.dma.chans[c] = { x with dbPending := false, askNext := true }))
      ∧ (∀ n, chanBound s c = true → noRequest s = some n → x.state = .idle → x.head ≠ 0 →
        ∃ t, exec (.dmaDoorbell p c) s = .next t ∧ t.dma.chans[c].state = .halted ∧ t.dma.chans[c].errAddr = x.head
          ∧ t.dma.chans[c].errInfo = BitVec.ofNat 32 (16 * n) ∧ t.dma.evtStatus.getLsbD c = true)
      ∧ (∀ v, ∃ t, exec (.dmaHeadWrite p c v) s = .next t ∧ Within [.dma] s t ∧ t.dma.chans[c] =
        if chanBound s c = true ∧ x.state = .idle
          then { x with head := cat64 v (heldLow s p (headAddr c)) &&& ~~~0x1F#64 } else x)
      ∧ (chanBound s c = true → x.state = .halted → noRequest s = none →
        (haltPlace x = 0 → ∃ t, exec (.dmaResume p c) s = .next t ∧ Within [.dma] s t
          ∧ t.dma.chans[c] = { x with state := .fetch, desc := none, askNext := false })
        ∧ (haltPlace x ∈ [1, 2, 3] → ∃ t, exec (.dmaResume p c) s = .next t ∧ Within [.dma] s t
          ∧ t.dma.chans[c] = { x with state := .fetch, desc := none, askNext := false, repeated := true })
        ∧ (haltPlace x ∈ [1, 2, 3] → RingRoom s x (ringOf x x.desc) →
          (∃ t, exec (.dmaSkip p c) s = .next t ∧ Recorded s t c x (ringOf x x.desc) .skipped)
          ∧ ∃ t, exec (.dmaAbort p c) s = .next t ∧ Recorded s t c x (ringOf x x.desc) .aborted
            ∧ t.dma.chans[c].state = .idle)
        ∧ (haltPlace x = 5 → ∃ t, exec (.dmaSkip p c) s = .next t ∧ Within [.dma] s t
          ∧ t.dma.chans[c] = { x with state := .idle, askNext := false }))
      ∧ (chanBound s c = true → x.state = .tailWait → x.leaving = false → ∃ t, exec (.dmaAbort p c) s = .next t
        ∧ Within [.dma] s t ∧ t.dma.chans[c] = { x with state := .idle, askNext := false, abortResult := 3 })
      ∧ (chanBound s c = true → x.state = .run → RingRoom s x (ringOf x x.desc) → ∃ t, exec (.dmaAbort p c) s = .next t
        ∧ Recorded s t c x (ringOf x x.desc) .aborted ∧ t.dma.chans[c].state = .idle
        ∧ t.dma.chans[c].abortResult = 1)
      ∧ ∀ (k : RingIx) (v : Word),
        let r := s.dma.rings[k]
        let cons : BitVec 16 := BitVec.ofNat 16 (fld v 31 16)
        (2 ^ r.sizeLog2.toNat < (r.prod - cons).toNat → ∃ t, exec (.cqConsWrite p k v) s = .next t
          ∧ Within [.dma] s t ∧ t.dma = { s.dma with consErr := true })
        ∧ ((r.prod - cons).toNat ≤ 2 ^ r.sizeLog2.toNat → (∀ e : DmaIx, s.dma.chans[e].state ≠ .cqWait) →
          ∃ t, exec (.cqConsWrite p k v) s = .next t ∧ Within [.dma] s t
            ∧ t.dma = { s.dma with rings := s.dma.rings.set k { r with cons := cons } })
        ∧ (∀ y, (r.prod - cons).toNat < 2 ^ r.sizeLog2.toNat → ringOk r = true → noRequest s = none →
          (∀ e : DmaIx, e ≠ c → s.dma.chans[e].state ≠ .cqWait) → x.state = .cqWait → x.record = some y → y.ring = k →
          y.count = 0 → x.holds = none → x.leaving = false → ∃ t, exec (.cqConsWrite p k v) s = .next t
            ∧ Recorded s t c x k y.status)
        ∧ ((∀ e : DmaIx, ∀ y, s.dma.chans[e].record = some y → y.ring = k →
            s.dma.chans[e].state = .halted ∧ fld s.dma.chans[e].errInfo 7 4 = 7) →
          let w := cat64 v (heldLow s p (cqAddr k))
          ∃ t, exec (.cqBaseWrite p k v) s = .next t ∧ Within [.dma] s t ∧ t.dma = { s.dma with
            rings := s.dma.rings.set k { r with
              base := w &&& ~~~0xFF#64, ie := w.getLsbD 4, sizeLog2 := w.truncate 4, prod := 0, cons := 0
              phase := true } })
        ∧ ((∃ e : DmaIx, ∃ y, s.dma.chans[e].record = some y ∧ y.ring = k
            ∧ ¬ (s.dma.chans[e].state = .halted ∧ fld s.dma.chans[e].errInfo 7 4 = 7)) → exec (.cqBaseWrite p k v) s = .next s))
    ∧ (∀ raw, s.quiet → x.state = .fetch → x.askNext = false →
      let d := descriptorOf x.cur raw
      (descValid d = true → srcKindOf d ≠ 2 → d.len ≠ 0 → ∃ t, exec (.descriptorFetched c raw) s = .next t
        ∧ Within [.dma] s t ∧ t.dma.chans[c] = { x with
            desc := some d, fetched := 0, written := 0, buffer := [], denied := false
            taken := 0, holds := none, state := .run })
      ∧ (descValid d = false → RingRoom s x (ringOf x (some d)) → ∃ t, exec (.descriptorFetched c raw) s = .next t
        ∧ Recorded s t c x (ringOf x (some d)) .invalid ∧ t.dma.chans[c].state = .idle))
    ∧ (∀ data, s.quiet →
      (∀ a m skip n, chanRequest s c = some (a, m, skip, n) →
        a.toNat % 16 = 0 ∧ m % 16 = 0 ∧ m ≤ hostLimit s.host.request
        ∧ ∃ t, exec (.dmaReadCompletion c data) s = .next t
          ∧ Within [.dma] s t ∧ t.dma.chans[c] = { x with
              fetched := x.fetched + ((data.drop skip).take n).length
              buffer := x.buffer ++ (data.drop skip).take n })
      ∧ (chanRequest s c = none → exec (.dmaReadCompletion c data) s = .next s))
    ∧ (∀ d, s.calm → nextBeat s = some c → x.desc = some d →
      let pay := hostLimit s.host.payload
      (∀ n, beatWrites pay x d = true → dstKindOf d = 0 → noRequest s = some n →
        ∃ t, exec (.dmaBeat c) s = .next t ∧ t.posted = s.posted ∧ t.dma.chans[c].state = .halted
          ∧ t.dma.chans[c].errInfo = BitVec.ofNat 32 (10 + 16 * n))
      ∧ (beatWrites pay x d = true → dstKindOf d = 0 → noRequest s = none →
        x.written + dstChunk pay x d ≠ descTotal x d → ∃ t, exec (.dmaBeat c) s = .next t ∧ Within [.dma, .posted] s t
          ∧ t.posted = s.posted ++ [.write (d.dst + BitVec.ofNat 64 x.written) (x.buffer.take (dstChunk pay x d))]
          ∧ t.dma.chans[c] = { x with
              written := x.written + dstChunk pay x d, buffer := x.buffer.drop (dstChunk pay x d) })
      ∧ (∀ e, beatWrites pay x d = false → srcKindOf d = 2 → x.written ≠ descTotal x d →
        s.streams[descStream d].fifo[x.fetched / 16]? = some e → ∃ t, exec (.dmaBeat c) s = .next t
          ∧ Within [.dma] s t ∧ t.dma.chans[c] = { x with
              fetched := x.fetched + 16, buffer := x.buffer ++ leBytes 16 e.record.toNat }))
    ∧ (∀ g d, s.quiet → x.state = .streamWait → x.desc = some d → srcKindOf d = 2 → descStream d = g → 16 ≤ d.len →
      s.streams[g].fifo ≠ [] → streamHeld s g = false → (∀ e : DmaIx, e < c → s.dma.chans[e].state ≠ .streamWait) →
      ∃ t, exec (.streamRecordArrival g) s = .next t ∧ Within [.dma] s t ∧ t.dma.chans[c] = { x with
        state := .run, taken := min (d.len / 16) s.streams[g].fifo.length, holds := some g })
    ∧ (s.quiet → x.state = .flush →
      let k := ringOf x x.desc
      (RingRoom s x k → ∃ t, exec (.dmaFlushDone c) s = .next t ∧ Recorded s t c x k (doneStatus x)
        ∧ ∀ d, x.desc = some d → d.next ≠ 0 → t.dma.chans[c].state = .fetch ∧ t.dma.chans[c].cur = d.next)
      ∧ (noRequest s = none → ringFull s.dma.rings[k] = true → ∃ t, exec (.dmaFlushDone c) s = .next t
        ∧ t.posted = s.posted ∧ t.dma.chans[c].state = .cqWait ∧ t.dma.rings[k].sticky = true
        ∧ t.dma.rings[k].prod = s.dma.rings[k].prod)
      ∧ (noRequest s = none → ringOk s.dma.rings[k] = false → ∃ t, exec (.dmaFlushDone c) s = .next t
        ∧ t.posted = s.posted ∧ t.dma.chans[c].state = .halted ∧ t.dma.chans[c].errInfo = 0x7C))
    ∧ (∀ next, s.quiet → x.askNext = true → (x.state = .fetch ∨ x.state = .tailWait) → noRequest s = none →
      ∃ t, exec (.nextReadReturn c next) s = .next t ∧ Within [.dma] s t
        ∧ (next ≠ 0 → t.dma.chans[c] = { x with
            state := .fetch, cur := next, desc := none, askNext := false, repeated := false })
        ∧ (next = 0 → x.dbPending = true → t.dma.chans[c] = { x with dbPending := false })
        ∧ (next = 0 → x.dbPending = false → t.dma.chans[c] = { x with
            state := .tailWait, askNext := false, pollNs := 0 }))
    ∧ (s.quiet → pollDue s c = true → noRequest s = none → ∃ t, exec (.tailPoll c) s = .next t ∧ Within [.dma] s t
      ∧ t.dma.chans[c] = { x with
          dbPending := false, askNext := true, pollNs := 0, polledAt := some s.time.tb })
    ∧ ∀ (e : BusError) place dir a, outstanding s c = some (place, dir, a) → 1 ≤ e.cause → e.cause ≤ 4 →
      ∃ t, exec (.dmaBusError c e) s = .next t ∧ t.dma.chans[c].state = .halted ∧ t.dma.chans[c].errAddr = e.addr
        ∧ t.dma.chans[c].errInfo = BitVec.ofNat 32 (place + (if dir then 8 else 0) + 16 * e.cause)
        ∧ t.dma.evtStatus.getLsbD c = true

/-- R362. -/
def Obligations.ArrivalsSaturate : Prop :=
  ∀ (s : State) (x : SrcIx), isSource x = true → srcEn s.eic.sources[x] = true → s.eic.sources[x].phase ≠ .idle →
    let old : BitVec 8 := s.eic.sources[x].arrivals
    let counted (t : State) : Prop := if old = 255
      then t.eic.sources[x].arrivals = 255 ∧ t.eic.satCount = satAdd s.eic.satCount 1
      else t.eic.sources[x].arrivals = old + 1 ∧ t.eic.satCount = s.eic.satCount
    (∀ byWrite, counted (arrive s x byWrite))
    ∧ (s.quiet → s.power.mode = .up → arrivalDue s x = true → ∃ t, exec (.eicArrival x) s = .next t ∧ counted t)
    ∧ ∀ p, Reaches p s → ∃ t, exec (.srcPendingWrite p x) s = .next t ∧ counted t

/-- R358, R360, R361, R363 to R365, R367, R369, R371, R376. -/
def Obligations.EicSources : Prop :=
  ∀ (s : State) (x : SrcIx),
    let y := s.eic.sources[x]
    let others (t : State) : Prop := ∀ z : SrcIx, z ≠ x → t.eic.sources[z] = s.eic.sources[z]
    let one (t : State) (z : EicSource) : Prop := Within [.eic] s t ∧ t.eic.sources[x] = z ∧ others t
    let pends (z : EicSource) : EicSource := { z with phase := .pending, held := false, fallback := none, timer := none }
    let told (t : State) : Prop := ∀ k : Fin 8, offeredTo t.eic.sources[x] k = true →
      ¬(offeredTo y k = true ∧ srcFast y = srcFast t.eic.sources[x]) → mayMessage s.eic t.eic.sources[x] k = true →
      t.eic.vectors[vectorOf k (srcFast t.eic.sources[x])].due = true
    let wakes : Prop := isSource x = true ∧ srcEn y = true ∧ y.phase = .idle ∧ inEnabledGroup s.eic y = false
    (s.quiet → s.power.mode = .up → arrivalDue s x = true →
      (wakes → ∃ t, exec (.eicArrival x) s = .next t ∧ told t ∧ one t (pends { y with
        input := y.input || srcLevel y, arrivals := 1, swset := false }))
      ∧ (srcEn y = false → ∃ t, exec (.eicArrival x) s = .next t ∧ one t { y with input := y.input || srcLevel y }))
    ∧ (s.quiet → s.power.mode ≠ .up ∨ arrivalDue s x = false → exec (.eicArrival x) s = .next s)
    ∧ (s.quiet → s.power.mode = .up → fallDue s x = true →
      (y.phase = .pending → y.swset = false → ∃ t, exec (.levelInputFall x) s = .next t
        ∧ one t { y with input := false, phase := .idle, arrivals := 0, held := false, fallback := none, timer := none }
        ∧ t.eic.withdrawn = satAdd s.eic.withdrawn 1
        ∧ ∀ (k : Fin 9) (fast : Bool), hasWithdrawn t.eic k fast
            = (hasWithdrawn s.eic k fast || (offeredTo y k && srcFast y == fast)))
      ∧ (y.phase ≠ .pending ∨ y.swset = true → ∃ t, exec (.levelInputFall x) s = .next t ∧ one t { y with input := false }))
    ∧ (∀ (p : Path) (k : Fin 9) (fast : Bool), Reaches p s → (k = 8 → p = .scribe ∧ fast = false) →
      let flag := bitAt 30 (s.eic.lvMode && hasWithdrawn s.eic k fast)
      let offers (z : SrcIx) : Prop := offeredTo s.eic.sources[z] k = true ∧ srcFast s.eic.sources[z] = fast
      (offers x → (∀ z, z < x → ¬offers z) → ∃ t, exec (.eicClaim p k fast) s = .next t ∧ Within [.eic, .reads] s t
        ∧ lastRead t p = at_ 0 x.val ||| at_ 16 y.arrivals.toNat ||| flag ∧ others t ∧ t.eic.sources[x] = { y with
            phase := .active, holder := k, heldFast := fast, arrivals := 0, held := false, swset := false
            fallback := none, timer := none })
      ∧ ((∀ z, ¬offers z) → ∃ t, exec (.eicClaim p k fast) s = .next t ∧ Within [.eic, .reads] s t
        ∧ lastRead t p = bitAt 31 s.eic.lvMode ||| flag ∧ t.eic.sources = s.eic.sources
        ∧ hasWithdrawn t.eic k fast = false)
      ∧ ∀ v, fld v 9 0 = x.val →
        (y.phase = .active → y.holder = k → y.heldFast = fast → inEnabledGroup s.eic y = false →
          ∃ t, exec (.eicComplete p k fast v) s = .next t ∧ told t ∧ one t (
            if srcLevel y then
              if y.input then pends { y with arrivals := if y.arrivals = 0 then 1 else y.arrivals, swset := false }
              else { y with phase := .idle, arrivals := 0 }
            else if y.arrivals = 0 then { y with phase := .idle } else pends { y with swset := false }))
        ∧ (¬(y.phase = .active ∧ y.holder = k ∧ y.heldFast = fast) →
          if x = 0 ∧ s.eic.lvMode = true then exec (.eicComplete p k fast v) s = .next s
          else ∃ t, exec (.eicComplete p k fast v) s = .next t ∧ Within [.eic] s t
            ∧ t.eic = { s.eic with spurious := satAdd s.eic.spurious 1 }))
    ∧ (∀ (p : Path) (fast : Bool) (v : Word), Reaches p s → p ≠ .scribe ∨ fast = true →
      exec (.eicComplete p 8 fast v) s = .next s
      ∧ ∃ t, exec (.eicClaim p 8 fast) s = .next t ∧ Within [.reads] s t ∧ lastRead t p = 0)
    ∧ (∀ p, Reaches p s →
      (wakes → ∃ t, exec (.srcPendingWrite p x) s = .next t ∧ told t
        ∧ one t (pends { y with arrivals := 1, swset := true }))
      ∧ (isSource x = false ∨ srcEn y = false → exec (.srcPendingWrite p x) s = .next s)
      ∧ (∀ v, isSource x = false → exec (.srcCfgWrite p x v) s = .next s)
      ∧ ∀ v, isSource x = true → ∃ t, exec (.srcCfgWrite p x v) s = .next t ∧ told t ∧ Within [.eic] s t ∧ others t
        ∧ let z := t.eic.sources[x]
          z.cfg = v &&& 0x0007FFFF ∧ z.holder = y.holder ∧ z.heldFast = y.heldFast
          ∧ (y.phase ≠ .pending ∨ v.getLsbD 9 = true → z.phase = y.phase ∧ z.arrivals = y.arrivals
              ∧ z.swset = y.swset)
          ∧ (y.phase = .pending → v.getLsbD 9 = false → z.phase = .idle ∧ z.arrivals = 0 ∧ z.held = false
              ∧ z.swset = false)
          ∧ (y.phase = .pending → v.getLsbD 9 = true → z.held = (y.held && v.getLsbD 18 && srcGroup z == srcGroup y)))
    ∧ (s.quiet → s.power.mode ≠ .up ∨ fallbackDue s.eic y = false → exec (.fallbackTimer x) s = .next s)
    ∧ (s.quiet → s.power.mode = .up → fallbackDue s.eic y = true → ∃ t, exec (.fallbackTimer x) s = .next t ∧ told t
      ∧ (s.eic.irqnCtrl.getLsbD (fallbackTarget s.eic).val = false →
          t.eic.vectors[vectorOf (fallbackTarget s.eic) (srcFast y)].due = true)
      ∧ one t { y with fallback := some (fallbackTarget s.eic), timer := none }
      ∧ t.eic.fallbackCount = satAdd s.eic.fallbackCount 1)

/-- R366, R367, R370, R446. -/
def Obligations.EicGroupsAndMessages : Prop :=
  ∀ (s : State) (g : Fin 64),
    let r := s.eic.groups[g]
    let released (t : State) (z : EicGroup) : Prop :=
      t.eic.groups[g] = { z with count := 0, timer := none, releases := z.releases + 1 }
      ∧ ∀ x : SrcIx, let y := s.eic.sources[x]
        t.eic.sources[x] = if y.held && srcGrouped y && srcGroup y == g then { y with held := false } else y
    (s.quiet → s.power.mode = .up → groupDue r = true → ∃ t, exec (.groupTimerExpiry g) s = .next t ∧ Within [.eic] s t ∧ released t r)
    ∧ (s.quiet → s.power.mode ≠ .up ∨ groupDue r = false → exec (.groupTimerExpiry g) s = .next s)
    ∧ (∀ p v, Reaches p s → ∃ t, exec (.grpCfgWrite p g v) s = .next t ∧ Within [.eic] s t
      ∧ let z := { r with cfg := v &&& 0x01FFFFFF }
        (groupEn r = true ∧ v.getLsbD 24 = false ∨ groupReady z = true → released t z)
        ∧ ((groupEn r = false ∨ v.getLsbD 24 = true) → groupReady z = false →
            t.eic.groups[g] = z ∧ t.eic.sources = s.eic.sources))
    ∧ (∀ x : SrcIx, s.quiet → s.power.mode = .up → arrivalDue s x = true → isSource x = true →
      let y := s.eic.sources[x]
      srcEn y = true → y.phase = .idle → inEnabledGroup s.eic y = true → srcGroup y = g →
      ∃ t, exec (.eicArrival x) s = .next t ∧ Within [.eic] s t ∧ t.eic.sources[x].phase = .pending
        ∧ t.eic.sources[x].arrivals = 1
        ∧ let z := { r with count := satAdd r.count 1, timer := some (r.timer.getD 0) }
          (groupReady z = false → t.eic.sources[x].held = true ∧ t.eic.groups[g] = z)
          ∧ (groupReady z = true → t.eic.sources[x].held = false
              ∧ t.eic.groups[g] = { r with count := 0, timer := none, releases := r.releases + 1 }))
    ∧ (∀ p v, Reaches p s → ∃ t, exec (.targetAwake p v) s = .next t ∧ Within [.eic] s t
      ∧ t.eic.awake = v.truncate 8
      ∧ (∀ x : SrcIx, { t.eic.sources[x] with timer := none } = { s.eic.sources[x] with timer := none })
      ∧ ∀ (k : Fin 8) (x : SrcIx), v.getLsbD k.val = true → s.eic.awake.getLsbD k.val = false →
        s.eic.irqnCtrl.getLsbD k.val = false → offeredTo s.eic.sources[x] k = true →
        t.eic.vectors[vectorOf k (srcFast s.eic.sources[x])].due = true)
    ∧ ∀ v : Option (Fin 16), s.quiet →
      ∃ t, exec (.msixUnmask v) s = .next t ∧ Within [.eic, .host, .posted] s t
        ∧ let host := if v = none then { s.host with msixEnable := true, functionMask := false, bme := true } else s.host
          let wants (w : Fin 16) : Bool := s.eic.vectors[w].due || s.eic.vectors[w].pendingBit
          let lets (w : Fin 16) : Bool := messagesOn { s with host := host } && (v == some w || !s.eic.vectors[w].masked)
          t.host = host
          ∧ t.posted = s.posted ++ ((indices 16).filter fun w => wants w && lets w).map (fun w =>
              .message w (cat64 s.eic.vectors[w].addrHi s.eic.vectors[w].addrLo) s.eic.vectors[w].data)
          ∧ ∀ w : Fin 16, t.eic.vectors[w] = { s.eic.vectors[w] with
              masked := s.eic.vectors[w].masked && v != some w
              due := false, pendingBit := wants w && !lets w }

/-- R31, R399 to R401, R411, R413, R414, R424. A raise is followed to its class where it takes the class out of no fault to
L1 or L2, levels that withdraw no pin. -/
def Obligations.FaultsAndSpares : Prop :=
  ∀ s : State, s.quiet →
    let raised (t : State) (src : Nat) : Prop :=
      s.blotter.classes[classOf src].level = 0 → ackedNow s.blotter.classes[classOf src] s.time.tb = none → s.blotter.classes[classOf src].lastTb ≠ some s.time.tb →
      configuredLevel s src ≤ 2 → t.blotter.sticky = s.blotter.sticky ||| (1#256 <<< src)
        ∧ t.blotter.classes[classOf src].level = configuredLevel s src
        ∧ t.blotter.classes[classOf src].unack = true ∧ t.blotter.classes[classOf src].raises = 1
    (∀ c : ClassIx, let f := s.blotter.classes[c]
      (quietDue s.blotter f = true → ∃ t, exec (.quietTimerExpiry c) s = .next t ∧ Within [.blotter] s t
        ∧ t.blotter = { s.blotter with classes := s.blotter.classes.set c { f with
            level := 0, unack := false, recoveries := satAdd f.recoveries 1, quiet := 0, scope := 0 } })
      ∧ (quietDue s.blotter f = false → exec (.quietTimerExpiry c) s = .next s))
    ∧ (∀ p v, Reaches p s → ∃ t, exec (.blotterAck p v) s = .next t ∧ Within [.blotter] s t
      ∧ t.blotter = { s.blotter with ackNext := t.blotter.ackNext }
      ∧ ∀ c : ClassIx, t.blotter.ackNext.getLsbD c = (s.blotter.ackNext.getLsbD c
          || (v.getLsbD 8 || c.val == fld v 7 0 / 8)))
    ∧ (∀ (ns : Nat) (c : ClassIx), let f := (passTime s ns).blotter.classes[c]
      f.unack = (s.blotter.classes[c].unack && !s.blotter.ackNext.getLsbD c)
        ∧ f.level = s.blotter.classes[c].level ∧ f.raises = s.blotter.classes[c].raises
        ∧ (passTime s ns).blotter.sticky = s.blotter.sticky)
    ∧ (s.blotter.inj.active = true → s.blotter.inj.remaining = 0 → ∃ t, exec .injectionDone s = .next t
      ∧ (s.blotter.inj.total ≤ s.blotter.inj.hits → Within [.blotter] s t
          ∧ t.blotter = { s.blotter with inj := { s.blotter.inj with active := false } })
      ∧ (s.blotter.inj.hits < s.blotter.inj.total → raised t 11))
    ∧ (∀ (q : QuillIx) (m : QuillMove), s.pool.moves.find? (fun y => y.quill == q) = some m → s.time.cycle = 0 →
      moveCopied s q = true → ∃ t, exec (.quillMigrationCopyDone q) s = .next t
        ∧ restOfQuill t.quills[q] = { restOfQuill s.quills[q] with
            store := m.target, paired := t.quills[q].paired }
        ∧ t.stores[m.target] = s.stores[m.source] ∧ t.pool.roles[m.source] = .retired
        ∧ t.pool.moves = s.pool.moves.filter (fun y => y.quill != q))
    ∧ (s.power.mode = .up → s.time.stopped = false → tst s.pool.pllLock (b2n s.pool.pllB) = true →
      ∃ t, exec .pllSwap s = .next t
        ∧ (sparePllLocked s.pool = true → t.pool.pllB = !s.pool.pllB
            ∧ t.pool.retiredPlls.getLsbD (b2n s.pool.pllB) = true ∧ t.pool.pllLock.getLsbD (b2n s.pool.pllB) = false
            ∧ t.pool.pllLock.getLsbD (1 - b2n s.pool.pllB) = true ∧ t.time.stopped = false)
        ∧ (sparePllLocked s.pool = false → t.pool = { s.pool with pllLock := 0 }
            ∧ (s.pool.retiredPlls = 0 → raised t 2)
            ∧ (s.pool.retiredPlls ≠ 0 → 3 ≤ t.blotter.classes[classOf 24].level)))
    ∧ (s.pool.refOk = true → ∃ t, exec .referenceLost s = .next t
      ∧ t.pool = { s.pool with refOk := false, pllLock := 0 } ∧ clockOf t.time = clockOf s.time
      ∧ (s.power.mode = .up → raised t 2))
    ∧ (s.pool.refOk = false → exec .referenceLost s = .next s)
    ∧ ∃ t, exec .referenceReturn s = .next t ∧ Within [.pool] s t ∧ t.pool = { s.pool with
        refOk := true
        pllLock := if (s.power.mode = .up ∧ s.time.stopped = false) ∨ (s.power.mode = .boot ∧ s.power.stage ≠ 1)
          then ~~~s.pool.retiredPlls else s.pool.pllLock }

/-- R315, R331, R421, R422, R425 to R430, R434 to R439, R442, R443. -/
def Obligations.PowerAndReset : Prop :=
  ∀ s : State, s.quiet →
    let pw := s.power
    let held (t : State) (cause : BitVec 4) : Prop := t.power.mode = .reset ∧ t.power.cause = pw.cause ||| cause
      ∧ t.power.island = pw.island ∧ t.power.lpcmp = pw.lpcmp ∧ t.balls = s.balls ∧ t.ink.ledger = s.ink.ledger
      ∧ t.ink.cells = [] ∧ t.folio = State.reset.folio ∧ t.eic = State.reset.eic ∧ t.dma = State.reset.dma
      ∧ t.scribe.ready = false ∧ t.time.rulings = false ∧ t.pending = s.pending
    let started (t : State) (cause : BitVec 4) : Prop := t.power.mode = .boot ∧ t.power.stage = 1
      ∧ t.power.standbyStart = pw.island.standbyFlag ∧ t.power.island.standbyFlag = false
      ∧ t.time.tb = (if pw.island.standbyFlag then s.time.tb else 0) ∧ t.power.pwren = true
      ∧ t.power.resetCause = at_ 0 (pw.cause ||| cause).toNat ||| bitAt 0 pw.island.vbatPor
          ||| bitAt 4 pw.island.standbyFlag ||| bitAt 5 pw.island.lfLost
      ∧ (pw.island.keepValid = false → t.power.island.keep = pw.island.keep ∧ t.power.island.keepValid = false)
      ∧ (pw.island.keepValid = true → (t.power.island.keep = pw.island.keep ∧ t.power.island.keepValid = true)
          ∨ (t.power.island.keep = Vector.replicate 64 0 ∧ t.power.island.keepValid = false))
    let restored (t : State) : Prop := (t.eic.restored = true ∧ t.eic.restores = s.eic.restores + 1)
      ∨ (t.eic.lost = true ∧ t.eic.restores = 0 ∧ t.eic.msiSent = 0)
    (pw.porst = false → ∃ t, exec .porstNAssert s = .next t ∧ held t 2 ∧ t.power.porst = true ∧ t.power.trips = pw.trips)
    ∧ (pw.porst = true → exec .porstNAssert s = .next s)
    ∧ (pw.mode ≠ .standby → pw.brown = false → ∃ t, exec .brownOut s = .next t ∧ held t 4 ∧ t.power.brown = true)
    ∧ (pw.mode ≠ .standby → pw.hot = false → ∃ t, exec .thermalTrip s = .next t ∧ held t 8 ∧ t.power.hot = true
      ∧ t.power.trips = satAdd pw.trips 1)
    ∧ (pw.mode = .reset → pw.porst = true → ∃ t, exec .porstNRelease s = .next t ∧ t.power.porst = false
      ∧ if pw.brown ∨ pw.hot then t.power.mode = .reset ∧ Within [.power] s t
        else started t 0 ∧ Within [.clock, .mode, .power, .free] s t)
    ∧ (pw.mode = .standby → pw.porst = false → pw.brown = false → pw.hot = false →
      ∃ t, exec .porstNRelease s = .next t ∧ started t 2
        ∧ (pw.island.standbyFlag = true → pw.pwren = false → t.power.wakeCause = 0x20))
    ∧ (pw.brown = true → ∃ t, exec .brownOutEnd s = .next t ∧ t.power.brown = false
      ∧ (pw.porst = false → pw.hot = false → started t 0))
    ∧ (pw.hot = true → ∃ t, exec .thermalTripEnd s = .next t ∧ t.power.hot = false
      ∧ (pw.porst = false → pw.brown = false → started t 0))
    ∧ (pw.mode = .reset ∨ pw.mode = .standby → ∃ t, exec .islandPowerOn s = .next t ∧ t.power.mode = .reset
      ∧ t.time.tb = 0 ∧ t.power.island = { keep := Vector.replicate 64 0, vbatPor := true } ∧ t.power.lpcmp = 0
      ∧ t.power.trips = 0 ∧ t.power.resetCause = 0 ∧ t.power.wakeCause = 0)
    ∧ (pw.mode = .up ∨ pw.mode = .boot ∨ pw.mode = .sleep → exec .islandPowerOn s = .next s)
    ∧ (pw.mode = .boot → pw.error = 0 →
      (∃ t, exec (.bootStageDone none) s = .next t ∧ Within [.power] s t ∧ t.power.mode = .boot
        ∧ t.power.stage = pw.stage
        ∧ (pw.stage = 1 → t.power.error = if s.pool.refOk then 2 else 1) ∧ (pw.stage = 2 → t.power.error = 3)
        ∧ (pw.stage = 3 → t.power.error = 4) ∧ (pw.stage = 4 → t.power.error = 6))
      ∧ (∀ failed, pw.stage.toNat < 6 → (failed = [] ∨ pw.stage ≠ 4 ∧ pw.stage ≠ 5) →
        let lost := pw.stage = 1 ∧ s.pool.retiredPlls ||| unlockedPlls failed = 3
        let none_ := pw.stage = 4 ∧ s.pool.retiredConverters = 3
        (¬lost → ¬none_ → ∃ t, exec (.bootStageDone (some failed)) s = .next t
          ∧ t.power = { pw with stage := pw.stage + 1 }
          ∧ t.time.tb = s.time.tb ∧ (pw.stage = 1 → t.time.stopped = false
              ∧ t.pool.pllLock = ~~~(s.pool.retiredPlls ||| unlockedPlls failed))
          ∧ (pw.stage ≠ 1 → Within [.power] s t))
        ∧ (lost → ∃ t, exec (.bootStageDone (some failed)) s = .next t ∧ t.power = { pw with error := 2 })
        ∧ (none_ → ∃ t, exec (.bootStageDone (some failed)) s = .next t ∧ t.power = { pw with error := 6 }))
      ∧ (∀ p : Nat, pw.stage = 5 → p < 68 → s.ink.retired.getLsbD p = false → s.ink.ledger.length < 128 →
        ∃ t, exec (.bootStageDone (some [(2, p)])) s = .next t ∧ t.power = { pw with stage := 6 }
          ∧ t.ink.retired = s.ink.retired ||| (1#68 <<< p) ∧ t.ink.coldRetired = s.ink.coldRetired + 1
          ∧ t.ink.ledger = s.ink.ledger ++ [{ kind := 2, index := p, cause := 4, place := 0 }]
          ∧ ∀ b : InkIx, t.ink.banks[b].phys = (healthy 68 t.ink.retired)[b.val]?)
      ∧ (∀ failed, 6 ≤ pw.stage.toNat → ∃ t, exec (.bootStageDone (some failed)) s = .next t ∧ t.power.mode = .up ∧ t.power.stage = 7
        ∧ t.scribe.ready = true ∧ t.time.rulings = true ∧ t.time.cycle = s.time.period
        ∧ t.time.nextFrame = (if pw.standbyStart then pw.island.frame + 1 else 0)
        ∧ (pw.standbyStart = true → pw.safePin = false → ∀ i, pw.island.eic = some i → restored t)))
    ∧ (let seen := pw.wakeSeen &&& pw.island.wakeSel
      (∀ c : Option Instr, (c = some .wake ∧ pw.island.wakeSel.getLsbD 0 = true)
          ∨ (c = none ∧ s.pending = [] ∧ s.time.stopped = true ∧ seen ≠ 0) → pw.mode = .sleep →
        ∃ t, c.elim (step s) (exec · s) = .next t
        ∧ t.power.mode = .up ∧ t.time.resume = true ∧ t.scribe.restarting = true
        ∧ t.power.wakeCause = (if c.isSome then 1 else 0) ||| at_ 0 seen.toNat ∧ t.folio = s.folio ∧ t.ink.cells = s.ink.cells
        ∧ (pw.safePin = false → ∀ i, pw.island.eic = some i → restored t))
      ∧ (pw.mode = .standby → pw.island.wakeSel.getLsbD 0 = true → pw.pwren = false → pw.wakeWaits = false →
        ∃ t, exec .wake s = .next t ∧ Within [.power] s t
          ∧ t.power = { pw with
              wakeCause := 1, wokenAt := some s.time.tb, pwren := pw.pwrenMin, wakeWaits := !pw.pwrenMin })
      ∧ (pw.mode ≠ .sleep → pw.island.wakeSel.getLsbD 0 = true → pw.mode ≠ .standby ∨ pw.pwren = true ∨ pw.wakeWaits = true →
        ∃ t, exec .wake s = .next t ∧ Within [.power] s t ∧ t.power = { pw with
          wakeCause := if pw.wokenAt = some s.time.tb then setBit pw.wakeCause 0 true else pw.wakeCause })
      ∧ (pw.island.wakeSel.getLsbD 0 = false → exec .wake s = .next s))
    ∧ (∀ uv, (pw.mode ≠ .standby ∨ pw.lpcmp.getLsbD 7 = false → exec (.lpcmpWake uv) s = .next s)
      ∧ (pw.mode = .standby → pw.lpcmp.getLsbD 7 = true → ∃ t, exec (.lpcmpWake uv) s = .next t ∧ Within [.power] s t
        ∧ t.power.lpBeyond = lpcmpBeyond pw.lpcmp uv
        ∧ t.power.wakeCause = if lpcmpBeyond pw.lpcmp uv && pw.lpBeyond && pw.island.wakeSel.getLsbD 1 then
            (if !pw.pwren && !pw.wakeWaits then 2
              else if pw.wokenAt == some s.time.tb then setBit pw.wakeCause 1 true else pw.wakeCause)
          else pw.wakeCause))
    ∧ (pw.mode = .standby → pw.pwren = false → ∃ t, exec .pwrenLowTimeEnd s = .next t ∧ Within [.power] s t
      ∧ t.power = { pw with pwrenMin := true, pwren := pw.wakeWaits, wakeWaits := false })
    ∧ (∀ ok, (∃ t, exec (.vbatOkChange ok) s = .next t ∧ Within [.power] s t ∧ t.power = { pw with vbatOk := ok })
      ∧ ∃ t, exec (.lfOkChange ok) s = .next t ∧ Within [.power] s t ∧ t.power = { pw with
          lfOk := ok
          island := { pw.island with
            lfLost := pw.island.lfLost || (!ok && (pw.mode == .sleep || pw.mode == .standby)) } })
    ∧ (∀ above, ∃ t, exec (.thermalLimit above) s = .next t ∧ t.power = { pw with thermOver := above }
      ∧ (above = false ∨ pw.thermOver = true → Within [.power] s t)
      ∧ (above = true → pw.thermOver = false → configuredLevel s 3 ≤ 2 → s.blotter.classes[(0 : ClassIx)].level = 0 →
          s.blotter.classes[(0 : ClassIx)].lastTb ≠ some s.time.tb →
          t.blotter.classes[(0 : ClassIx)].level = configuredLevel s 3))
    ∧ ∀ (bank : Nat) (up : Bool), bank < 8 → ∃ t, exec (.vioChange bank up) s = .next t
      ∧ (∀ b, b < 8 → t.power.vio.getLsbD b = if b = bank then up else pw.vio.getLsbD b)
      ∧ (up = pw.vio.getLsbD bank → Within [.power] s t)
      ∧ (up = true → pw.vio.getLsbD bank = false → Within [.power, .nibs] s t ∧ ∀ n : NibIx, t.nibs[n] =
          if inVioBank bank s.nibs[n].pin then { s.nibs[n] with seen := s.nibs[n].drive == .z } else s.nibs[n])
      ∧ (up = false → pw.vio.getLsbD bank = true → ∀ pin, pin < 272 → t.balls.getLsbD pin =
          (s.balls.getLsbD pin && !((if pin < 256 then pin / 32 else (pin - 256) / 2) == bank)))

/-- R349, R367, R428, R446, R448, R451, R393: PCIE_LINK is followed to its class as in FaultsAndSpares. -/
def Obligations.PcieLink : Prop :=
  ∀ s : State, s.quiet →
    let halted (t : State) (cause : Nat) : Prop := ∀ c : DmaIx, t.dma.chans[c] =
      match outstanding s c with
      | some (place, write, a) => { s.dma.chans[c] with
          state := .halted, errAddr := a
          errInfo := at_ 0 place ||| bitAt 3 write ||| at_ 4 cause }
      | none => s.dma.chans[c]
    let down : HostSt := { s.host with
      linkUp := false, width := 0, speed := 0, degraded := false, l1 := false, downs := satAdd s.host.downs 1
      bar4 := s.host.bar4.filter fun j => j.path != .pcie || j.data.isSome }
    let raised (t : State) : Prop := s.blotter.classes[(1 : ClassIx)].level = 0 →
      s.blotter.classes[(1 : ClassIx)].lastTb ≠ some s.time.tb → configuredLevel s 10 ≤ 2 →
      t.blotter.classes[(1 : ClassIx)].level = configuredLevel s 10
        ∧ t.blotter.sticky = s.blotter.sticky ||| (1#256 <<< 10)
    let sends (u t : State) : Prop :=
      let wants (w : Fin 16) : Bool := s.eic.vectors[w].due || s.eic.vectors[w].pendingBit
      let lets (w : Fin 16) : Bool := messagesOn u && !s.eic.vectors[w].masked
      t.posted = s.posted ++ ((indices 16).filter fun w => wants w && lets w).map (fun w =>
        .message w (cat64 s.eic.vectors[w].addrHi s.eic.vectors[w].addrLo) s.eic.vectors[w].data)
      ∧ ∀ w : Fin 16, t.eic.vectors[w].pendingBit = (wants w && !lets w)
    (s.host.linkUp = true → ∃ t, exec .pcieLinkDown s = .next t ∧ t.host = down ∧ halted t 6 ∧ raised t)
    ∧ (s.host.linkUp = false → exec .pcieLinkDown s = .next s)
    ∧ (∃ t, exec (.perstN true) s = .next t
      ∧ t.host = { (if s.host.linkUp then down else s.host) with
          perst := true, payload := 0, request := 2, bme := false, msixEnable := false, functionMask := false, d3hot := false }
      ∧ (s.host.linkUp = true → halted t 6 ∧ raised t)
      ∧ (s.host.linkUp = false → Within [.host, .eic] s t ∧ t.eic = { s.eic with vectors := Vector.replicate 16 {} })
      ∧ t.folio = s.folio ∧ t.balls = s.balls ∧ t.scribe = s.scribe)
    ∧ (∃ t, exec (.perstN false) s = .next t ∧ Within [.host] s t ∧ t.host = { s.host with perst := false })
    ∧ (∃ t, exec .d3hotEntry s = .next t ∧ t.host = { s.host with d3hot := true } ∧ halted t 5)
    ∧ (let u : State := { s with host := { s.host with d3hot := false } }
      ∃ t, exec .d0Entry s = .next t ∧ Within [.host, .eic, .posted] s t ∧ t.host = u.host ∧ sends u t)
    ∧ ∀ (width speed payload request : Fin 8),
      let legal : Prop := (s.power.mode = .up ∨ s.power.mode = .boot) ∧ s.host.perst = false
        ∧ (width = 1 ∨ width = 2 ∨ width = 4) ∧ (speed = 1 ∨ speed = 2 ∨ speed = 3)
        ∧ payload.val ≤ 5 ∧ request.val ≤ 5
      (legal → ∃ t, exec (.linkTraining (width, speed) (payload, request)) s = .next t ∧ Within [.host, .eic, .posted] s t
        ∧ t.host.linkUp = true ∧ t.host.width.toNat = width.val ∧ t.host.speed.toNat = speed.val
        ∧ t.host.payload.toNat = payload.val ∧ t.host.request.toNat = request.val
        ∧ t.host.downs = s.host.downs
        ∧ sends { s with host := { s.host with linkUp := true } } t)
      ∧ (¬legal → exec (.linkTraining (width, speed) (payload, request)) s = .next s)
end

