-- ==== Sys2Proof/Laws/Parts.lean ====
section
/-! SUPPORT. What `Within` says of the operations that every chapter shares: two states that differ in some parts at
most, one operation after the other. -/
namespace Sys2Proof.Machine

theorem alike_refl (k : Part) (s : State) : alike k s s := by cases k <;> simp [alike]

theorem alike_trans {k : Part} {s t u : State} (h : alike k s t) (g : alike k t u) : alike k s u := by
  cases k <;> simp only [alike] at * <;> first | exact h.trans g | exact ⟨h.1.trans g.1, h.2.trans g.2⟩ | skip
  exact ⟨h.1.trans g.1, h.2.1.trans g.2.1, h.2.2.1.trans g.2.2.1, h.2.2.2.trans g.2.2.2⟩

theorem within_refl (ps : List Part) (s : State) : Within ps s s := fun k _ => alike_refl k s

/-- One more operation: it changes no part but those of `qs`, which are among `ps`. -/
theorem within_step {ps qs : List Part} {s t u : State} (g : Within qs t u) (hq : qs ⊆ ps) (h : Within ps s t) :
    Within ps s u := fun k hk => alike_trans (h k hk) (g k fun hm => hk (hq hm))

theorem within_mono {ps qs : List Part} {s t : State} (g : Within qs s t) (hq : qs ⊆ ps) : Within ps s t :=
  fun k hk => g k fun hm => hk (hq hm)

theorem acts_refl (ps : List Part) (s : State) : Acts ps s s := .inl (within_refl _ _)

theorem acts_mono {ps qs : List Part} {s t : State} (g : Acts qs s t) (hq : qs ⊆ ps) : Acts ps s t :=
  g.imp (fun h => within_mono h hq) (fun h => within_mono h hq)

/-- One more operation after an access. -/
theorem acts_step {ps qs : List Part} {s t u : State} (g : Within qs t u) (hq : qs ⊆ ps) (h : Acts ps s t) :
    Acts ps s u := h.imp (within_step g hq) (within_step g hq)

/-- The state in the first or the second place of a pair that an operation returns. -/
theorem within_fst {α : Type} {ps qs : List Part} {s t u : State} {p : State × α} {v : α} (g : Within qs t p.1)
    (e : p = (u, v)) (hq : qs ⊆ ps) (h : Within ps s t) : Within ps s u := by
  subst e; exact within_step g hq h

theorem within_snd {α : Type} {ps qs : List Part} {s t u : State} {p : α × State} {v : α} (g : Within qs t p.2)
    (e : p = (v, u)) (hq : qs ⊆ ps) (h : Within ps s t) : Within ps s u := by
  subst e; exact within_step g hq h

theorem within_cut {ps : List Part} {s v t : State} (h : Within ps s v) (g : Within ps s v → Within ps s t) :
    Within ps s t := g h

theorem within_ite {ps : List Part} {s t u : State} {c : Prop} [Decidable c] (h : c → Within ps s t)
    (g : ¬c → Within ps s u) : Within ps s (if c then t else u) := by
  by_cases hc : c
  · rw [if_pos hc]; exact h hc
  · rw [if_neg hc]; exact g hc

theorem within_dite {ps : List Part} {s : State} {c : Prop} [Decidable c] {t : c → State} {u : ¬c → State}
    (h : ∀ x, Within ps s (t x)) (g : ∀ x, Within ps s (u x)) : Within ps s (if x : c then t x else u x) := by
  by_cases hc : c
  · rw [dif_pos hc]; exact h hc
  · rw [dif_neg hc]; exact g hc

/-- An operation for every element of a list. -/
theorem within_forAll {α : Type} {ps : List Part} {s t : State} {l : List α} {f : State → α → State}
    (g : ∀ u a, Within ps u (f u a)) (h : Within ps s t) : Within ps s (forAll l t f) := by
  unfold forAll
  induction l generalizing t with
  | nil => exact h
  | cons a l ih => exact ih (within_step (g t a) (List.Subset.refl ps) h)

theorem map_modifyAt {α β : Type} {n : Nat} (v : Vector α n) (i : Fin n) (f : α → α) (g : α → β)
    (h : g (f v[i]) = g v[i]) : (modifyAt v i f).map g = v.map g := by
  ext j hj
  simp only [modifyAt, Vector.getElem_map]
  by_cases e : i.val = j
  · subst e; simpa using h
  · rw [Vector.getElem_set_ne _ _ e]

/-- The two parts of the quills are all of them. -/
theorem quills_eq {s t : State} (h : alike .quills s t) (g : alike .inboxes s t) : s.quills = t.quills := by
  ext j hj
  have a := congrArg (fun v : Vector Quill 16 => v[j]) (show s.quills.map restOfQuill = _ from h)
  have b := congrArg (fun v : Vector (EventQueue × Word) 16 => v[j]) (show s.quills.map inboxOf = _ from g)
  simp only [Vector.getElem_map] at a b
  have c : ∀ x : Quill, x = { restOfQuill x with queue := (inboxOf x).1, evtStatus := (inboxOf x).2 } := fun _ => rfl
  rw [c s.quills[j], c t.quills[j], a, b]

theorem modQuill_within (s : State) (i : QuillIx) (f : Quill → Quill) :
    Within [.quills, .inboxes] s (modQuill s i f) := by
  intro k hk; cases k <;> first | rfl | exact ⟨rfl, rfl⟩ | exact ⟨rfl, rfl, rfl, rfl⟩ | exact absurd (by decide) hk

theorem modQuill_keeps_inbox (s : State) (i : QuillIx) (f : Quill → Quill)
    (h : inboxOf (f s.quills[i]) = inboxOf s.quills[i]) : Within [.quills] s (modQuill s i f) := by
  intro k hk
  cases k <;> first | rfl | exact ⟨rfl, rfl⟩ | exact ⟨rfl, rfl, rfl, rfl⟩ | exact (map_modifyAt _ _ _ _ h).symm |
    exact absurd (by decide) hk

theorem modQuill_keeps_rest (s : State) (i : QuillIx) (f : Quill → Quill)
    (h : restOfQuill (f s.quills[i]) = restOfQuill s.quills[i]) : Within [.inboxes] s (modQuill s i f) := by
  intro k hk
  cases k <;> first | rfl | exact ⟨rfl, rfl⟩ | exact ⟨rfl, rfl, rfl, rfl⟩ | exact (map_modifyAt _ _ _ _ h).symm |
    exact absurd (by decide) hk

theorem modEngine_within (s : State) (i : QuillIx) (f : Engine → Engine) : Within [.quills] s (modEngine s i f) :=
  modQuill_keeps_inbox s i _ rfl

/-- The two parts of the nibs are all of them. -/
theorem nibs_eq {s t : State} (h : alike .nibs s t) (g : alike .nibSetup s t) : s.nibs = t.nibs := by
  ext j hj
  have a := congrArg (fun v : Vector Nib 256 => v[j]) (show s.nibs.map doingOf = _ from h)
  have b := congrArg (fun v : Vector Nib 256 => v[j]) (show s.nibs.map setupOf = _ from g)
  simp only [Vector.getElem_map] at a b
  have c : ∀ x : Nib, x = { doingOf x with
      ctrl := (setupOf x).ctrl, run := (setupOf x).run, owner := (setupOf x).owner, safe := (setupOf x).safe
      cell := (setupOf x).cell, pin := (setupOf x).pin, slewSlow := (setupOf x).slewSlow
      lateWin := (setupOf x).lateWin, param0 := (setupOf x).param0, evtEnable := (setupOf x).evtEnable
      safeN := (setupOf x).safeN, stopped := (setupOf x).stopped, vernB := (setupOf x).vernB
      vernAOk := (setupOf x).vernAOk, vernBOk := (setupOf x).vernBOk, moveWanted := (setupOf x).moveWanted
      pinNext := (setupOf x).pinNext, wroteIn := (setupOf x).wroteIn, wrote := (setupOf x).wrote
      inp := { (doingOf x).inp with
        ctrl := (setupOf x).inp.ctrl, ball := (setupOf x).inp.ball, run := (setupOf x).inp.run
        sync := (setupOf x).inp.sync, move := (setupOf x).inp.move
        level := (setupOf x).inp.level, gate := (setupOf x).inp.gate, freqDue := (setupOf x).inp.freqDue
        tdcFail := (setupOf x).inp.tdcFail } } := fun _ => rfl
  rw [c s.nibs[j], c t.nibs[j], a, b]

theorem modNib_within (s : State) (i : NibIx) (f : Nib → Nib) : Within [.nibs, .nibSetup] s (modNib s i f) := by
  intro k hk; cases k <;> first | rfl | exact ⟨rfl, rfl⟩ | exact ⟨rfl, rfl, rfl, rfl⟩ | exact absurd (by decide) hk

theorem modNib_keeps_setup (s : State) (i : NibIx) (f : Nib → Nib) (h : setupOf (f s.nibs[i]) = setupOf s.nibs[i]) :
    Within [.nibs] s (modNib s i f) := by
  intro k hk
  cases k <;> first | rfl | exact ⟨rfl, rfl⟩ | exact ⟨rfl, rfl, rfl, rfl⟩ | exact (map_modifyAt _ _ _ _ h).symm |
    exact absurd (by decide) hk

theorem modNib_keeps_doing (s : State) (i : NibIx) (f : Nib → Nib) (h : doingOf (f s.nibs[i]) = doingOf s.nibs[i]) :
    Within [.nibSetup] s (modNib s i f) := by
  intro k hk
  cases k <;> first | rfl | exact ⟨rfl, rfl⟩ | exact ⟨rfl, rfl, rfl, rfl⟩ | exact (map_modifyAt _ _ _ _ h).symm |
    exact absurd (by decide) hk

theorem modNibIn_within (s : State) (i : NibIx) (f : NibIn → NibIn) : Within [.nibs, .nibSetup] s (modNibIn s i f) :=
  modNib_within s i _

theorem modNibIn_keeps_setup (s : State) (i : NibIx) (f : NibIn → NibIn)
    (h : setupOf { s.nibs[i] with inp := f s.nibs[i].inp } = setupOf s.nibs[i]) : Within [.nibs] s (modNibIn s i f) :=
  modNib_keeps_setup s i _ h

theorem modNibIn_keeps_doing (s : State) (i : NibIx) (f : NibIn → NibIn)
    (h : doingOf { s.nibs[i] with inp := f s.nibs[i].inp } = doingOf s.nibs[i]) :
    Within [.nibSetup] s (modNibIn s i f) := modNib_keeps_doing s i _ h

theorem modLink_within (s : State) (i : LinkIx) (f : ReflexLink → ReflexLink) : Within [.links] s (modLink s i f) := by
  intro k hk; cases k <;> first | rfl | exact ⟨rfl, rfl⟩ | exact ⟨rfl, rfl, rfl, rfl⟩ | exact absurd (by decide) hk

theorem modStream_within (s : State) (i : StreamIx) (f : CapStream → CapStream) : Within [.streams] s (modStream s i f) := by
  intro k hk; cases k <;> first | rfl | exact ⟨rfl, rfl⟩ | exact ⟨rfl, rfl, rfl, rfl⟩ | exact absurd (by decide) hk

theorem modTrack_within (s : State) (i : TrackIx) (f : Tracker → Tracker) : Within [.trackers] s (modTrack s i f) := by
  intro k hk; cases k <;> first | rfl | exact ⟨rfl, rfl⟩ | exact ⟨rfl, rfl, rfl, rfl⟩ | exact absurd (by decide) hk

theorem modFb_within (s : State) (i : FbIx) (f : Feedback → Feedback) : Within [.channels] s (modFb s i f) := by
  intro k hk; cases k <;> first | rfl | exact ⟨rfl, rfl⟩ | exact ⟨rfl, rfl, rfl, rfl⟩ | exact absurd (by decide) hk

theorem modEmu_within (s : State) (i : FbIx) (f : Emulator → Emulator) : Within [.channels] s (modEmu s i f) := by
  intro k hk; cases k <;> first | rfl | exact ⟨rfl, rfl⟩ | exact ⟨rfl, rfl, rfl, rfl⟩ | exact absurd (by decide) hk

theorem modComp_within (s : State) (i : AcIx) (f : Comparator → Comparator) : Within [.comparators] s (modComp s i f) := by
  intro k hk; cases k <;> first | rfl | exact ⟨rfl, rfl⟩ | exact ⟨rfl, rfl, rfl, rfl⟩ | exact absurd (by decide) hk

theorem modAdc_within (s : State) (f : Adc → Adc) : Within [.adc] s (modAdc s f) := by
  intro k hk; cases k <;> first | rfl | exact ⟨rfl, rfl⟩ | exact ⟨rfl, rfl, rfl, rfl⟩ | exact absurd (by decide) hk

theorem modCe_within (s : State) (i : CeIx) (f : Counter → Counter) : Within [.counters] s (modCe s i f) := by
  intro k hk; cases k <;> first | rfl | exact ⟨rfl, rfl⟩ | exact ⟨rfl, rfl, rfl, rfl⟩ | exact absurd (by decide) hk

theorem modPps_within (s : State) (f : PpsSt → PpsSt) : Within [.time] s (modPps s f) := by
  intro k hk; cases k <;> first | rfl | exact ⟨rfl, rfl⟩ | exact ⟨rfl, rfl, rfl, rfl⟩ | exact absurd (by decide) hk

theorem modSync_within (s : State) (f : SyncSt → SyncSt) : Within [.time] s (modSync s f) := by
  intro k hk; cases k <;> first | rfl | exact ⟨rfl, rfl⟩ | exact ⟨rfl, rfl, rfl, rfl⟩ | exact absurd (by decide) hk

theorem modEic_within (s : State) (f : Eic → Eic) : Within [.eic] s (modEic s f) := by
  intro k hk; cases k <;> first | rfl | exact ⟨rfl, rfl⟩ | exact ⟨rfl, rfl, rfl, rfl⟩ | exact absurd (by decide) hk

theorem modSource_within (s : State) (i : SrcIx) (f : EicSource → EicSource) : Within [.eic] s (modSource s i f) := by
  intro k hk; cases k <;> first | rfl | exact ⟨rfl, rfl⟩ | exact ⟨rfl, rfl, rfl, rfl⟩ | exact absurd (by decide) hk

theorem modGroup_within (s : State) (i : Fin 64) (f : EicGroup → EicGroup) : Within [.eic] s (modGroup s i f) := by
  intro k hk; cases k <;> first | rfl | exact ⟨rfl, rfl⟩ | exact ⟨rfl, rfl, rfl, rfl⟩ | exact absurd (by decide) hk

theorem modClass_within (s : State) (i : ClassIx) (f : FaultClass → FaultClass) : Within [.blotter] s (modClass s i f) := by
  intro k hk; cases k <;> first | rfl | exact ⟨rfl, rfl⟩ | exact ⟨rfl, rfl, rfl, rfl⟩ | exact absurd (by decide) hk

theorem modBank_within (s : State) (i : InkIx) (f : Inkwell → Inkwell) : Within [.ink] s (modBank s i f) := by
  intro k hk; cases k <;> first | rfl | exact ⟨rfl, rfl⟩ | exact ⟨rfl, rfl, rfl, rfl⟩ | exact absurd (by decide) hk

theorem modDma_within (s : State) (f : DmaSt → DmaSt) : Within [.dma] s (modDma s f) := by
  intro k hk; cases k <;> first | rfl | exact ⟨rfl, rfl⟩ | exact ⟨rfl, rfl, rfl, rfl⟩ | exact absurd (by decide) hk

theorem modChan_within (s : State) (i : DmaIx) (f : DmaChan → DmaChan) : Within [.dma] s (modChan s i f) := by
  intro k hk; cases k <;> first | rfl | exact ⟨rfl, rfl⟩ | exact ⟨rfl, rfl, rfl, rfl⟩ | exact absurd (by decide) hk

theorem modRing_within (s : State) (i : RingIx) (f : CqRing → CqRing) : Within [.dma] s (modRing s i f) := by
  intro k hk; cases k <;> first | rfl | exact ⟨rfl, rfl⟩ | exact ⟨rfl, rfl, rfl, rfl⟩ | exact absurd (by decide) hk

theorem modPool_within (s : State) (f : PoolSt → PoolSt) : Within [.pool] s (modPool s f) := by
  intro k hk; cases k <;> first | rfl | exact ⟨rfl, rfl⟩ | exact ⟨rfl, rfl, rfl, rfl⟩ | exact absurd (by decide) hk

theorem modCo_within (s : State) (f : CoSt → CoSt) : Within [.co] s (modCo s f) := by
  intro k hk; cases k <;> first | rfl | exact ⟨rfl, rfl⟩ | exact ⟨rfl, rfl, rfl, rfl⟩ | exact absurd (by decide) hk

theorem modScribe_within (s : State) (f : Scribe → Scribe) : Within [.scribe] s (modScribe s f) := by
  intro k hk; cases k <;> first | rfl | exact ⟨rfl, rfl⟩ | exact ⟨rfl, rfl, rfl, rfl⟩ | exact absurd (by decide) hk

theorem modHost_within (s : State) (f : HostSt → HostSt) : Within [.host] s (modHost s f) := by
  intro k hk; cases k <;> first | rfl | exact ⟨rfl, rfl⟩ | exact ⟨rfl, rfl, rfl, rfl⟩ | exact absurd (by decide) hk

theorem modFolio_within (s : State) (f : FolioSt → FolioSt) : Within [.folio, .units] s (modFolio s f) := by
  intro k hk; cases k <;> first | rfl | exact ⟨rfl, rfl⟩ | exact ⟨rfl, rfl, rfl, rfl⟩ | exact absurd (by decide) hk

theorem modFolio_keeps_units (s : State) (f : FolioSt → FolioSt)
    (h : unitsOf (f s.folio) = unitsOf s.folio) :
    Within [.folio] s (modFolio s f) := by
  intro k hk
  cases k <;> first | rfl | exact ⟨rfl, rfl⟩ | exact ⟨rfl, rfl, rfl, rfl⟩ | exact h.symm | exact absurd (by decide) hk

theorem modFolio_keeps_rest (s : State) (f : FolioSt → FolioSt)
    (h : inForce (f s.folio) = inForce s.folio) :
    Within [.units] s (modFolio s f) := by
  intro k hk; cases k <;> first | rfl | exact ⟨rfl, rfl⟩ | exact ⟨rfl, rfl, rfl, rfl⟩ | exact h.symm | exact absurd (by decide) hk

theorem modTime_within (s : State) (f : TimeSt → TimeSt) : Within [.clock, .time] s (modTime s f) := by
  intro k hk; cases k <;> first | rfl | exact ⟨rfl, rfl⟩ | exact ⟨rfl, rfl, rfl, rfl⟩ | exact absurd (by decide) hk

theorem modTime_keeps_clock (s : State) (f : TimeSt → TimeSt) (h : clockOf (f s.time) = clockOf s.time) :
    Within [.time] s (modTime s f) := by
  intro k hk; cases k <;> first | rfl | exact ⟨rfl, rfl⟩ | exact ⟨rfl, rfl, rfl, rfl⟩ | exact h.symm | exact absurd (by decide) hk

theorem modTime_keeps_rest (s : State) (f : TimeSt → TimeSt) (h : restOfTime (f s.time) = restOfTime s.time) :
    Within [.clock] s (modTime s f) := by
  intro k hk; cases k <;> first | rfl | exact ⟨rfl, rfl⟩ | exact ⟨rfl, rfl, rfl, rfl⟩ | exact h.symm | exact absurd (by decide) hk

theorem modBlotter_within (s : State) (f : Blotter → Blotter) : Within [.raises, .blotter] s (modBlotter s f) := by
  intro k hk; cases k <;> first | rfl | exact ⟨rfl, rfl⟩ | exact ⟨rfl, rfl, rfl, rfl⟩ | exact absurd (by decide) hk

theorem modBlotter_keeps_queue (s : State) (f : Blotter → Blotter) (h : (f s.blotter).queue = s.blotter.queue) :
    Within [.blotter] s (modBlotter s f) := by
  intro k hk; cases k <;> first | rfl | exact ⟨rfl, rfl⟩ | exact ⟨rfl, rfl, rfl, rfl⟩ | exact h.symm | exact absurd (by decide) hk

theorem modBlotter_keeps_rest (s : State) (f : Blotter → Blotter) (h : { f s.blotter with queue := [] } = { s.blotter with queue := [] }) :
    Within [.raises] s (modBlotter s f) := by
  intro k hk; cases k <;> first | rfl | exact ⟨rfl, rfl⟩ | exact ⟨rfl, rfl, rfl, rfl⟩ | exact h.symm | exact absurd (by decide) hk

theorem modInk_within (s : State) (f : InkSt → InkSt) : Within [.cells, .ink] s (modInk s f) := by
  intro k hk; cases k <;> first | rfl | exact ⟨rfl, rfl⟩ | exact ⟨rfl, rfl, rfl, rfl⟩ | exact absurd (by decide) hk

theorem modInk_keeps_cells (s : State) (f : InkSt → InkSt) (h : (f s.ink).cells = s.ink.cells) :
    Within [.ink] s (modInk s f) := by
  intro k hk; cases k <;> first | rfl | exact ⟨rfl, rfl⟩ | exact ⟨rfl, rfl, rfl, rfl⟩ | exact h.symm | exact absurd (by decide) hk

theorem modInk_keeps_rest (s : State) (f : InkSt → InkSt) (h : { f s.ink with cells := [] } = { s.ink with cells := [] }) :
    Within [.cells] s (modInk s f) := by
  intro k hk; cases k <;> first | rfl | exact ⟨rfl, rfl⟩ | exact ⟨rfl, rfl, rfl, rfl⟩ | exact h.symm | exact absurd (by decide) hk

theorem modPower_within (s : State) (f : PowerSt → PowerSt) : Within [.mode, .power] s (modPower s f) := by
  intro k hk; cases k <;> first | rfl | exact ⟨rfl, rfl⟩ | exact ⟨rfl, rfl, rfl, rfl⟩ | exact absurd (by decide) hk

theorem modPower_keeps_mode (s : State) (f : PowerSt → PowerSt) (h : (f s.power).mode = s.power.mode) :
    Within [.power] s (modPower s f) := by
  intro k hk; cases k <;> first | rfl | exact ⟨rfl, rfl⟩ | exact ⟨rfl, rfl, rfl, rfl⟩ | exact h.symm | exact absurd (by decide) hk

end Sys2Proof.Machine
end

