-- ==== Sys2Proof/Laws/PartsOps.lean ====
section
/-! SUPPORT. The parts of the state that each operation of Machine/Ops.lean can change. -/
namespace Sys2Proof.Machine

theorem drawFree_within (s : State) :
    Within [.free] s (drawFree s) := by
  unfold drawFree
  repeat' first
    | with_reducible apply within_refl
    | with_reducible assumption
    | (intro k hk; cases k <;> first | exact absurd (by decide) hk | exact hu _ hk | rfl | exact ⟨rfl, rfl⟩ | exact ⟨rfl, rfl, rfl, rfl⟩)

theorem post_within (s : State) (p : Posted) :
    Within [.posted] s (post s p) := by
  unfold post
  repeat' first
    | with_reducible apply within_refl
    | with_reducible assumption
    | (intro k hk; cases k <;> first | exact absurd (by decide) hk | exact hu _ hk | rfl | exact ⟨rfl, rfl⟩ | exact ⟨rfl, rfl, rfl, rfl⟩)

theorem holdLow_within (s : State) (p : Path) (addr : Nat) (v : Word) :
    Within [.latches] s (holdLow s p addr v) := by
  unfold holdLow
  repeat' first
    | with_reducible apply within_refl
    | with_reducible assumption
    | (intro k hk; cases k <;> first | exact absurd (by decide) hk | exact hu _ hk | rfl | exact ⟨rfl, rfl⟩ | exact ⟨rfl, rfl, rfl, rfl⟩)

theorem latchRead_within (s : State) (p : Path) (addr : Nat) (v : W128) :
    Within [.latches] s (latchRead s p addr v) := by
  unfold latchRead
  repeat' first
    | with_reducible apply within_refl
    | with_reducible assumption
    | (intro k hk; cases k <;> first | exact absurd (by decide) hk | exact hu _ hk | rfl | exact ⟨rfl, rfl⟩ | exact ⟨rfl, rfl, rfl, rfl⟩)

theorem setRead_within (s : State) (p : Path) (v : Word) :
    Within [.reads] s (setRead s p v) := by
  unfold setRead
  repeat' first
    | with_reducible apply within_refl
    | with_reducible assumption
    | split
    | (intro k hk; cases k <;> first | exact absurd (by decide) hk | exact hu _ hk | rfl | exact ⟨rfl, rfl⟩ | exact ⟨rfl, rfl, rfl, rfl⟩)

theorem noteWake_within (s : State) (bit : Nat) :
    Within [.power] s (noteWake s bit) := by
  unfold noteWake
  repeat' first
    | with_reducible apply within_refl
    | with_reducible assumption
    | (with_reducible apply within_ite <;> intro _)
    | (with_reducible apply within_step (modPower_keeps_mode _ _ ?hk); (case hk => first | with_reducible rfl | ((try dsimp only); (repeat' split) <;> with_reducible rfl)); decide)
    | split

theorem ifBound_within {ps : List Part} {s t : State} {k : UnitType} {i : Nat} {f : State → State}
    (g : ∀ u, Within ps u (f u)) (h : Within ps s t) : Within ps s (ifBound t k i f) := by
  unfold ifBound
  exact within_ite (fun _ => within_step (g _) (List.Subset.refl _) h) (fun _ => h)

theorem raiseFault_within (s : State) (src : Nat) (unit : Nat) :
    Within [.raises, .blotter] s (raiseFault s src unit) := by
  unfold raiseFault
  repeat' first
    | with_reducible apply within_refl
    | with_reducible assumption
    | (with_reducible apply within_step (modBlotter_keeps_queue _ _ ?hk); (case hk => first | with_unfolding_all rfl | with_reducible rfl | ((try dsimp only); (repeat' split) <;> with_reducible rfl)); decide)
    | (with_reducible apply within_step (modBlotter_keeps_rest _ _ ?hk); (case hk => first | with_unfolding_all rfl | with_reducible rfl | ((try dsimp only); (repeat' split) <;> with_reducible rfl)); decide)
    | (with_reducible apply within_step (modBlotter_within _ _); decide)
    | split

theorem pushCause_within (s : State) (x : Nat) :
    Within [.eic] s (pushCause s x) := by
  unfold pushCause
  repeat' first
    | with_reducible apply within_refl
    | with_reducible assumption
    | (with_reducible apply within_ite <;> intro _)
    | (with_reducible apply within_dite <;> intro _)
    | (with_reducible apply within_step (modEic_within _ _); decide)
    | split

theorem deliverTo_within (unit : Nat) (s : State) (d : RouteDest) :
    Within [.eic, .raises, .blotter] s (deliverTo unit s d) := by
  unfold deliverTo
  repeat' first
    | with_reducible apply within_refl
    | with_reducible assumption
    | (with_reducible apply within_step (pushCause_within _ _); decide)
    | (with_reducible apply within_step (raiseFault_within _ _ _); decide)
    | split

theorem deliverEvent_within (s : State) (k : SrcKind) (i bit unit : Nat) :
    Within [.eic, .raises, .blotter] s (deliverEvent s k i bit unit) := by
  unfold deliverEvent
  repeat' first
    | with_reducible apply within_refl
    | with_reducible assumption
    | (with_reducible apply within_step (deliverTo_within _ _ _); decide)
    | (with_reducible apply within_forAll; intro _ _)

theorem raiseQuillEvent_within (s : State) (q : QuillIx) (bit : Nat) :
    Within [.inboxes, .eic, .raises, .blotter] s (raiseQuillEvent s q bit) := by
  unfold raiseQuillEvent
  repeat' first
    | with_reducible apply within_refl
    | with_reducible assumption
    | (with_reducible apply within_ite <;> intro _)
    | (extract_lets +onlyGivenNames u
       first
       | (refine within_cut (v := u) ?_ ?_
          all_goals (first | (with_reducible intro hu; revert hu; clear_value u; intro hu) | subst u))
       | clear_value u
       | subst u)
    | (with_reducible apply within_step (deliverEvent_within _ _ _ _ _); decide)
    | (with_reducible apply within_step (modQuill_keeps_rest _ _ _ ?hk); (case hk => first | with_reducible rfl | (simp only [restOfQuill]; done) | ((try dsimp only); (repeat' split) <;> (simp only [restOfQuill]; done))); decide)
    | (with_reducible apply within_step (modQuill_within _ _ _); decide)
    | split

theorem enqueue_within (s : State) (q : QuillIx) (record : W128) (group index : Nat) :
    Within [.inboxes, .eic, .raises, .blotter] s (enqueue s q record group index) := by
  unfold enqueue
  repeat' first
    | with_reducible apply within_refl
    | with_reducible assumption
    | (with_reducible apply within_ite <;> intro _)
    | (extract_lets +onlyGivenNames u
       first
       | (refine within_cut (v := u) ?_ ?_
          all_goals (first | (with_reducible intro hu; revert hu; clear_value u; intro hu) | subst u))
       | clear_value u
       | subst u)
    | (with_reducible apply within_step (modQuill_keeps_rest _ _ _ ?hk); (case hk => first | with_reducible rfl | (simp only [restOfQuill]; done) | ((try dsimp only); (repeat' split) <;> (simp only [restOfQuill]; done))); decide)
    | (with_reducible apply within_step (modQuill_within _ _ _); decide)
    | (with_reducible apply within_step (raiseFault_within _ _ _); decide)
    | (with_reducible apply within_step (raiseQuillEvent_within _ _ _); decide)
    | split

theorem deliverRecord_within (s : State) (k : SrcKind) (i bit : Nat) (record : W128) (group : Nat) :
    Within [.inboxes, .eic, .raises, .blotter] s (deliverRecord s k i bit record group) := by
  unfold deliverRecord
  repeat' first
    | with_reducible apply within_refl
    | with_reducible assumption
    | (with_reducible apply within_step (enqueue_within _ _ _ _ _); decide)
    | (with_reducible apply within_forAll; intro _ _)
    | split

theorem raiseAt_within (s : State) (src unit level : Nat) :
    Within [.raises, .blotter] s (raiseAt s src unit level) := by
  unfold raiseAt
  repeat' first
    | with_reducible apply within_refl
    | with_reducible assumption
    | (with_reducible apply within_step (modBlotter_keeps_queue _ _ ?hk); (case hk => first | with_unfolding_all rfl | with_reducible rfl | ((try dsimp only); (repeat' split) <;> with_reducible rfl)); decide)
    | (with_reducible apply within_step (modBlotter_keeps_rest _ _ ?hk); (case hk => first | with_unfolding_all rfl | with_reducible rfl | ((try dsimp only); (repeat' split) <;> with_reducible rfl)); decide)
    | (with_reducible apply within_step (modBlotter_within _ _); decide)
    | split

theorem noteExhausted_within (s : State) (m : Nat) (gone : Bool) :
    Within [.raises, .blotter, .pool] s (noteExhausted s m gone) := by
  unfold noteExhausted
  repeat' first
    | with_reducible apply within_refl
    | with_reducible assumption
    | (with_reducible apply within_ite <;> intro _)
    | (extract_lets +onlyGivenNames u
       first
       | (refine within_cut (v := u) ?_ ?_
          all_goals (first | (with_reducible intro hu; revert hu; clear_value u; intro hu) | subst u))
       | clear_value u
       | subst u)
    | (with_reducible apply within_step (modPool_within _ _); decide)
    | (with_reducible apply within_step (raiseFault_within _ _ _); decide)
    | split

theorem failureWithoutSpare_within (s : State) (unit : Nat) :
    Within [.raises, .blotter] s (failureWithoutSpare s unit) := by
  unfold failureWithoutSpare
  repeat' first
    | with_reducible apply within_refl
    | with_reducible assumption
    | (with_reducible apply within_step (raiseAt_within _ _ _ _); decide)

theorem addLedger_within (s : State) (kind index cause place : Nat) :
    Within [.raises, .blotter, .ink] s (addLedger s kind index cause place) := by
  unfold addLedger
  repeat' first
    | with_reducible apply within_refl
    | with_reducible assumption
    | (with_reducible apply within_ite <;> intro _)
    | (extract_lets +onlyGivenNames u
       first
       | (refine within_cut (v := u) ?_ ?_
          all_goals (first | (with_reducible intro hu; revert hu; clear_value u; intro hu) | subst u))
       | clear_value u
       | subst u)
    | (with_reducible apply within_step (modInk_keeps_cells _ _ ?hk); (case hk => first | with_reducible rfl | ((try dsimp only); (repeat' split) <;> with_reducible rfl)); decide)
    | (with_reducible apply within_step (raiseFault_within _ _ _); decide)
    | split

end Sys2Proof.Machine
end

