-- ==== Sys2Proof/Laws/PartsMicro.lean ====
section
/-! SUPPORT. The parts of the state that each operation of Machine/Micro.lean can change. -/
namespace Sys2Proof.Machine

theorem putStoreWord_within (s : State) (p : PhysIx) (a : Nat) (w : BitVec 176) :
    Within [.stores] s (putStoreWord s p a w) := by
  unfold putStoreWord
  repeat' first
    | with_reducible apply within_refl
    | with_reducible assumption
    | split
    | (intro k hk; cases k <;> first | exact absurd (by decide) hk | exact hu _ hk | rfl | exact ⟨rfl, rfl⟩ | exact ⟨rfl, rfl, rfl, rfl⟩)

end Sys2Proof.Machine
end

