-- ==== Sys2Proof/Laws/PartsInkOps.lean ====
section
/-! SUPPORT. The parts of the state that each operation of Machine/InkOps.lean can change. -/
namespace Sys2Proof.Machine

theorem countInjected_within (s : State) (clean : Bool) :
    Within [.blotter] s (countInjected s clean) := by
  unfold countInjected
  repeat' first
    | with_reducible apply within_refl
    | with_reducible assumption
    | (with_reducible apply within_ite <;> intro _)
    | (with_reducible apply within_step (modBlotter_keeps_queue _ _ ?hk); (case hk => first | with_unfolding_all rfl | with_reducible rfl | ((try dsimp only); (repeat' split) <;> with_reducible rfl)); decide)
    | split

theorem busTransfer_within (s : State) (inst : Nat) :
    Within [.raises, .blotter] s (busTransfer s inst) := by
  unfold busTransfer
  repeat' first
    | with_reducible apply within_refl
    | with_reducible assumption
    | (with_reducible apply within_ite <;> intro _)
    | (extract_lets +onlyGivenNames u
       first
       | (refine within_cut (v := u) ?_ ?_
          all_goals (first | (with_reducible intro hu; revert hu; clear_value u; intro hu) | subst u))
       | clear_value u
       | subst u)
    | (with_reducible apply within_step (countInjected_within _ _); decide)
    | (with_reducible apply within_step (modBlotter_keeps_queue _ _ ?hk); (case hk => first | with_unfolding_all rfl | with_reducible rfl | ((try dsimp only); (repeat' split) <;> with_reducible rfl)); decide)
    | (with_reducible apply within_step (raiseFault_within _ _ _); decide)
    | split

theorem regBlockRead_within (s : State) :
    Within [.raises, .blotter] s (regBlockRead s) := by
  unfold regBlockRead
  repeat' first
    | with_reducible apply within_refl
    | with_reducible assumption
    | (with_reducible apply within_ite <;> intro _)
    | (extract_lets +onlyGivenNames u
       first
       | (refine within_cut (v := u) ?_ ?_
          all_goals (first | (with_reducible intro hu; revert hu; clear_value u; intro hu) | subst u))
       | clear_value u
       | subst u)
    | (with_reducible apply within_step (countInjected_within _ _); decide)
    | (with_reducible apply within_step (modBlotter_keeps_queue _ _ ?hk); (case hk => first | with_unfolding_all rfl | with_reducible rfl | ((try dsimp only); (repeat' split) <;> with_reducible rfl)); decide)
    | (with_reducible apply within_step (raiseFault_within _ _ _); decide)
    | split

theorem raiseBankEvent_within (s : State) (b : InkIx) (bit : Nat) :
    Within [.ink] s (raiseBankEvent s b bit) := by
  unfold raiseBankEvent
  repeat' first
    | with_reducible apply within_refl
    | with_reducible assumption
    | (with_reducible apply within_step (modBank_within _ _ _); decide)
    | split

theorem noteEcc_within (s : State) (b : InkIx) (w : Fin 4096) (syn : BitVec 9) (unc : Bool) :
    Within [.ink] s (noteEcc s b w syn unc) := by
  unfold noteEcc
  repeat' first
    | with_reducible apply within_refl
    | with_reducible assumption
    | (with_reducible apply within_ite <;> intro _)
    | (extract_lets +onlyGivenNames u
       first
       | (refine within_cut (v := u) ?_ ?_
          all_goals (first | (with_reducible intro hu; revert hu; clear_value u; intro hu) | subst u))
       | clear_value u
       | subst u)
    | (with_reducible apply within_step (modBank_within _ _ _); decide)
    | (with_reducible apply within_step (raiseBankEvent_within _ _ _); decide)
    | split

theorem wantMigration_within (s : State) (b : InkIx) (cause : Nat) :
    Within [.ink] s (wantMigration s b cause) := by
  unfold wantMigration
  repeat' first
    | with_reducible apply within_refl
    | with_reducible assumption
    | (with_reducible apply within_ite <;> intro _)
    | (extract_lets +onlyGivenNames u
       first
       | (refine within_cut (v := u) ?_ ?_
          all_goals (first | (with_reducible intro hu; revert hu; clear_value u; intro hu) | subst u))
       | clear_value u
       | subst u)
    | (with_reducible apply within_step (modInk_keeps_cells _ _ ?hk); (case hk => first | with_reducible rfl | ((try dsimp only); (repeat' split) <;> with_reducible rfl)); decide)
    | split

theorem noteInjectedEcc_within (s : State) (b : InkIx) (w : Fin 4096) :
    Within [.blotter, .ink] s (noteInjectedEcc s b w) := by
  unfold noteInjectedEcc
  repeat' first
    | with_reducible apply within_refl
    | with_reducible assumption
    | (with_reducible apply within_step (countInjected_within _ _); decide)
    | (with_reducible apply within_step (noteEcc_within _ _ _ _ _); decide)

theorem losesBank_within (s : State) (b : InkIx) (w : Fin 4096) :
    Within [.ink, .co] s (losesBank s b w) := by
  unfold losesBank
  repeat' first
    | with_reducible apply within_refl
    | with_reducible assumption
    | (with_reducible apply within_ite <;> intro _)
    | (with_reducible apply within_step (modCo_within _ _); decide)
    | (with_reducible apply within_step (wantMigration_within _ _ _); decide)
    | split

theorem inkRead_within (s : State) (b : InkIx) (w : Fin 4096) :
    Within [.raises, .blotter, .ink, .co] s (inkRead s b w).2 := by
  unfold inkRead
  repeat' first
    | with_reducible apply within_refl
    | with_reducible assumption
    | (with_reducible apply within_ite <;> intro _)
    | (extract_lets +onlyGivenNames u
       first
       | (refine within_cut (v := u) ?_ ?_
          all_goals (first | (with_reducible intro hu; revert hu; clear_value u; intro hu) | subst u))
       | clear_value u
       | subst u)
    | (with_reducible apply within_step (countInjected_within _ _); decide)
    | (with_reducible apply within_step (losesBank_within _ _ _); decide)
    | (with_reducible apply within_step (noteEcc_within _ _ _ _ _); decide)
    | (with_reducible apply within_step (noteInjectedEcc_within _ _ _); decide)
    | (with_reducible apply within_step (raiseFault_within _ _ _); decide)
    | split

theorem copyRead_within (s : State) (b : InkIx) (w : Fin 4096) :
    Within [.raises, .blotter, .ink, .co] s (copyRead s b w).2 := by
  unfold copyRead
  repeat' first
    | with_reducible apply within_refl
    | with_reducible assumption
    | (with_reducible apply within_step (losesBank_within _ _ _); decide)
    | (with_reducible apply within_step (noteEcc_within _ _ _ _ _); decide)
    | (with_reducible apply within_step (raiseFault_within _ _ _); decide)
    | split

theorem putWhole_within (s : State) (p : Nat) (v : W128) :
    Within [.cells, .ink] s (putWhole s p v) := by
  unfold putWhole
  repeat' first
    | with_reducible apply within_refl
    | with_reducible assumption
    | (with_reducible apply within_step (modInk_keeps_cells _ _ ?hk); (case hk => first | with_reducible rfl | ((try dsimp only); (repeat' split) <;> with_reducible rfl)); decide)
    | (with_reducible apply within_step (modInk_keeps_rest _ _ ?hk); (case hk => first | with_reducible rfl | ((try dsimp only); (repeat' split) <;> with_reducible rfl)); decide)
    | (with_reducible apply within_step (modInk_within _ _); decide)
    | split

theorem dropCarry_within (s : State) (b : InkIx) (w : Fin 4096) :
    Within [.co] s (dropCarry s b w) := by
  unfold dropCarry
  repeat' first
    | with_reducible apply within_refl
    | with_reducible assumption
    | (with_reducible apply within_ite <;> intro _)
    | (with_reducible apply within_step (modCo_within _ _); decide)
    | split

theorem carryWord_within (s : State) (b : InkIx) (w : Fin 4096) (read : Bool) :
    Within [.raises, .blotter, .cells, .ink, .co] s (carryWord s b w read) := by
  unfold carryWord
  repeat' first
    | with_reducible apply within_refl
    | with_reducible assumption
    | (with_reducible apply within_ite <;> intro _)
    | (extract_lets +onlyGivenNames u
       first
       | (refine within_cut (v := u) ?_ ?_
          all_goals (first | (with_reducible intro hu; revert hu; clear_value u; intro hu) | subst u))
       | clear_value u
       | subst u)
    | (with_reducible apply within_step (copyRead_within _ _ _); decide)
    | (with_reducible apply within_snd (copyRead_within _ _ _); with_reducible assumption; decide)
    | (with_reducible apply within_step (dropCarry_within _ _ _); decide)
    | (with_reducible apply within_step (putWhole_within _ _ _); decide)
    | (with_reducible apply within_forAll; intro _ _)
    | split

theorem endCarry_within (s : State) (b : InkIx) (w : Fin 4096) (be : BitVec 16) :
    Within [.raises, .blotter, .cells, .ink, .co] s (endCarry s b w be) := by
  unfold endCarry
  repeat' first
    | with_reducible apply within_refl
    | with_reducible assumption
    | (with_reducible apply within_ite <;> intro _)
    | (extract_lets +onlyGivenNames u
       first
       | (refine within_cut (v := u) ?_ ?_
          all_goals (first | (with_reducible intro hu; revert hu; clear_value u; intro hu) | subst u))
       | clear_value u
       | subst u)
    | (with_reducible apply within_step (carryWord_within _ _ _ _); decide)
    | (with_reducible apply within_forAll; intro _ _)
    | split

theorem writePhys_within (s : State) (p : Nat) (be : BitVec 16) (d : W128) (portA : Bool) :
    Within [.cells, .ink] s (writePhys s p be d portA) := by
  unfold writePhys
  repeat' first
    | with_reducible apply within_refl
    | with_reducible assumption
    | (with_reducible apply within_ite <;> intro _)
    | (extract_lets +onlyGivenNames u
       first
       | (refine within_cut (v := u) ?_ ?_
          all_goals (first | (with_reducible intro hu; revert hu; clear_value u; intro hu) | subst u))
       | clear_value u
       | subst u)
    | (with_reducible apply within_step (modInk_keeps_cells _ _ ?hk); (case hk => first | with_reducible rfl | ((try dsimp only); (repeat' split) <;> with_reducible rfl)); decide)
    | (with_reducible apply within_step (modInk_keeps_rest _ _ ?hk); (case hk => first | with_reducible rfl | ((try dsimp only); (repeat' split) <;> with_reducible rfl)); decide)
    | (with_reducible apply within_step (modInk_within _ _); decide)
    | split

theorem noteCollision_within (s : State) (b : InkIx) :
    Within [.raises, .blotter, .ink] s (noteCollision s b) := by
  unfold noteCollision
  repeat' first
    | with_reducible apply within_refl
    | with_reducible assumption
    | (extract_lets +onlyGivenNames u
       first
       | (refine within_cut (v := u) ?_ ?_
          all_goals (first | (with_reducible intro hu; revert hu; clear_value u; intro hu) | subst u))
       | clear_value u
       | subst u)
    | (with_reducible apply within_step (modBank_within _ _ _); decide)
    | (with_reducible apply within_step (raiseBankEvent_within _ _ _); decide)
    | (with_reducible apply within_step (raiseFault_within _ _ _); decide)
    | split

theorem inkWriteWord_within (s : State) (b : InkIx) (w : Fin 4096) (be : BitVec 16) (d : W128) (portA : Bool) :
    Within [.raises, .blotter, .cells, .ink, .co] s (inkWriteWord s b w be d portA) := by
  unfold inkWriteWord
  repeat' first
    | with_reducible apply within_refl
    | with_reducible assumption
    | (with_reducible apply within_ite <;> intro _)
    | (extract_lets +onlyGivenNames u
       first
       | (refine within_cut (v := u) ?_ ?_
          all_goals (first | (with_reducible intro hu; revert hu; clear_value u; intro hu) | subst u))
       | clear_value u
       | subst u)
    | (with_reducible apply within_step (endCarry_within _ _ _ _); decide)
    | (with_reducible apply within_step (noteCollision_within _ _); decide)
    | (with_reducible apply within_step (writePhys_within _ _ _ _ _); decide)
    | (with_reducible apply within_forAll; intro _ _)
    | split

theorem denyAccess_within (s : State) (b : InkIx) (w : Fin 4096) (write : Bool) (who : Accessor) :
    Within [.raises, .blotter, .ink] s (denyAccess s b w write who) := by
  unfold denyAccess
  repeat' first
    | with_reducible apply within_refl
    | with_reducible assumption
    | (extract_lets +onlyGivenNames u
       first
       | (refine within_cut (v := u) ?_ ?_
          all_goals (first | (with_reducible intro hu; revert hu; clear_value u; intro hu) | subst u))
       | clear_value u
       | subst u)
    | (with_reducible apply within_step (modBank_within _ _ _); decide)
    | (with_reducible apply within_step (raiseBankEvent_within _ _ _); decide)
    | (with_reducible apply within_step (raiseFault_within _ _ _); decide)
    | split

theorem usePort_within (s : State) (b : InkIx) :
    Within [.ink] s (usePort s b) := by
  unfold usePort
  repeat' first
    | with_reducible apply within_refl
    | with_reducible assumption
    | (with_reducible apply within_ite <;> intro _)
    | (with_reducible apply within_step (modInk_keeps_cells _ _ ?hk); (case hk => first | with_reducible rfl | ((try dsimp only); (repeat' split) <;> with_reducible rfl)); decide)
    | split

theorem portTransfer_within (s : State) (b : InkIx) (who : Accessor) :
    Within [.raises, .blotter, .ink] s (portTransfer s b who) := by
  unfold portTransfer
  repeat' first
    | with_reducible apply within_refl
    | with_reducible assumption
    | (extract_lets +onlyGivenNames u
       first
       | (refine within_cut (v := u) ?_ ?_
          all_goals (first | (with_reducible intro hu; revert hu; clear_value u; intro hu) | subst u))
       | clear_value u
       | subst u)
    | (with_reducible apply within_step (busTransfer_within _ _); decide)
    | (with_reducible apply within_step (modBank_within _ _ _); decide)
    | (with_reducible apply within_step (usePort_within _ _); decide)
    | split

theorem inkReadBy_within (s : State) (b : InkIx) (w : Fin 4096) (who : Accessor) :
    Within [.raises, .blotter, .ink, .co] s (inkReadBy s b w who).2 := by
  unfold inkReadBy
  repeat' first
    | with_reducible apply within_refl
    | with_reducible assumption
    | (with_reducible apply within_ite <;> intro _)
    | (extract_lets +onlyGivenNames u
       first
       | (refine within_cut (v := u) ?_ ?_
          all_goals (first | (with_reducible intro hu; revert hu; clear_value u; intro hu) | subst u))
       | clear_value u
       | subst u)
    | (with_reducible apply within_step (denyAccess_within _ _ _ _ _); decide)
    | (with_reducible apply within_step (inkRead_within _ _ _); decide)
    | (with_reducible apply within_snd (inkRead_within _ _ _); with_reducible assumption; decide)
    | (with_reducible apply within_step (portTransfer_within _ _ _); decide)
    | split

theorem inkWriteBy_within (s : State) (b : InkIx) (w : Fin 4096) (be : BitVec 16) (d : W128) (who : Accessor) :
    Within [.raises, .blotter, .cells, .ink, .co] s (inkWriteBy s b w be d who) := by
  unfold inkWriteBy
  repeat' first
    | with_reducible apply within_refl
    | with_reducible assumption
    | (with_reducible apply within_ite <;> intro _)
    | (extract_lets +onlyGivenNames u
       first
       | (refine within_cut (v := u) ?_ ?_
          all_goals (first | (with_reducible intro hu; revert hu; clear_value u; intro hu) | subst u))
       | clear_value u
       | subst u)
    | (with_reducible apply within_step (denyAccess_within _ _ _ _ _); decide)
    | (with_reducible apply within_step (inkWriteWord_within _ _ _ _ _ _); decide)
    | (with_reducible apply within_step (portTransfer_within _ _ _); decide)
    | split

end Sys2Proof.Machine
end

