-- ==== Sys2Proof/Laws/PartsNibOps.lean ====
section
/-! SUPPORT. The parts of the state that each operation of Machine/NibOps.lean can change. -/
namespace Sys2Proof.Machine

theorem raiseNibEvent_within (s : State) (n : NibIx) (bit : Nat) :
    Within [.nibs, .eic, .raises, .blotter] s (raiseNibEvent s n bit) := by
  unfold raiseNibEvent
  repeat' first
    | with_reducible apply within_refl
    | with_reducible assumption
    | (with_reducible apply within_ite <;> intro _)
    | (extract_lets +onlyGivenNames u
       first
       | (refine within_cut (v := u) ?_ ?_
          all_goals (first | (with_reducible intro hu; revert hu; clear_value u; intro hu) | subst u))
       | clear_value u
       | subst u)
    | (with_reducible apply within_step (deliverEvent_within _ _ _ _ _); decide)
    | (with_reducible apply within_step (modNib_keeps_setup _ _ _ ?hk); (case hk => first | with_reducible rfl | (simp only [setupOf]; done) | ((try dsimp only); (repeat' split) <;> (simp only [setupOf]; done))); decide)
    | (with_reducible apply within_step (modNib_within _ _ _); decide)
    | split

theorem pushStream_within (s : State) (g : StreamIx) (record : W128) (group index : Nat) :
    Within [.streams, .eic, .raises, .blotter] s (pushStream s g record group index) := by
  unfold pushStream
  repeat' first
    | with_reducible apply within_refl
    | with_reducible assumption
    | (with_reducible apply within_ite <;> intro _)
    | (extract_lets +onlyGivenNames u
       first
       | (refine within_cut (v := u) ?_ ?_
          all_goals (first | (with_reducible intro hu; revert hu; clear_value u; intro hu) | subst u))
       | clear_value u
       | subst u)
    | (with_reducible apply within_step (deliverEvent_within _ _ _ _ _); decide)
    | (with_reducible apply within_step (modStream_within _ _ _); decide)
    | split

theorem writeStatus_within (s : State) (n : NibIx) (r : W128) (f : StrokeFlags) (st : StrokeStatus) (time : W64) :
    Within [.inboxes, .nibs, .streams, .eic, .raises, .blotter] s (writeStatus s n r f st time) := by
  unfold writeStatus
  repeat' first
    | with_reducible apply within_refl
    | with_reducible assumption
    | (with_reducible apply within_ite <;> intro _)
    | (extract_lets +onlyGivenNames u
       first
       | (refine within_cut (v := u) ?_ ?_
          all_goals (first | (with_reducible intro hu; revert hu; clear_value u; intro hu) | subst u))
       | clear_value u
       | subst u)
    | (with_reducible apply within_step (enqueue_within _ _ _ _ _); decide)
    | (with_reducible apply within_step (modNib_keeps_setup _ _ _ ?hk); (case hk => first | with_reducible rfl | (simp only [setupOf]; done) | ((try dsimp only); (repeat' split) <;> (simp only [setupOf]; done))); decide)
    | (with_reducible apply within_step (modNib_within _ _ _); decide)
    | (with_reducible apply within_step (pushStream_within _ _ _ _ _); decide)
    | split

theorem putSlot_within (s : State) (n : NibIx) (k : SlotIx) (v : Option StrokeSlot) :
    Within [.nibs] s (putSlot s n k v) := by
  unfold putSlot
  repeat' first
    | with_reducible apply within_refl
    | with_reducible assumption
    | (with_reducible apply within_step (modNib_keeps_setup _ _ _ ?hk); (case hk => first | with_reducible rfl | (simp only [setupOf]; done) | ((try dsimp only); (repeat' split) <;> (simp only [setupOf]; done))); decide)
    | (with_reducible apply within_step (modNib_within _ _ _); decide)
    | split

theorem modSlot_within (s : State) (n : NibIx) (k : SlotIx) (f : StrokeSlot → StrokeSlot) :
    Within [.nibs] s (modSlot s n k f) := by
  unfold modSlot
  repeat' first
    | with_reducible apply within_refl
    | with_reducible assumption
    | (with_reducible apply within_step (modNib_keeps_setup _ _ _ ?hk); (case hk => first | with_reducible rfl | (simp only [setupOf]; done) | ((try dsimp only); (repeat' split) <;> (simp only [setupOf]; done))); decide)
    | (with_reducible apply within_step (modNib_within _ _ _); decide)
    | split

theorem endStroke_within (s : State) (n : NibIx) (k : SlotIx) (v : StrokeSlot) (st : StrokeStatus) :
    Within [.inboxes, .nibs, .streams, .eic, .raises, .blotter] s (endStroke s n k v st) := by
  unfold endStroke
  repeat' first
    | with_reducible apply within_refl
    | with_reducible assumption
    | (with_reducible apply within_ite <;> intro _)
    | (extract_lets +onlyGivenNames u
       first
       | (refine within_cut (v := u) ?_ ?_
          all_goals (first | (with_reducible intro hu; revert hu; clear_value u; intro hu) | subst u))
       | clear_value u
       | subst u)
    | (with_reducible apply within_step (modNib_keeps_setup _ _ _ ?hk); (case hk => first | with_reducible rfl | (simp only [setupOf]; done) | ((try dsimp only); (repeat' split) <;> (simp only [setupOf]; done))); decide)
    | (with_reducible apply within_step (modNib_within _ _ _); decide)
    | (with_reducible apply within_step (putSlot_within _ _ _ _); decide)
    | (with_reducible apply within_step (writeStatus_within _ _ _ _ _ _); decide)
    | split

theorem notPlaced_within (s : State) (n : NibIx) (k : SlotIx) (v : StrokeSlot) (st : StrokeStatus) :
    Within [.inboxes, .nibs, .streams, .eic, .raises, .blotter] s (notPlaced s n k v st) := by
  unfold notPlaced
  repeat' first
    | with_reducible apply within_refl
    | with_reducible assumption
    | (extract_lets +onlyGivenNames u
       first
       | (refine within_cut (v := u) ?_ ?_
          all_goals (first | (with_reducible intro hu; revert hu; clear_value u; intro hu) | subst u))
       | clear_value u
       | subst u)
    | (with_reducible apply within_step (endStroke_within _ _ _ _ _); decide)
    | (with_reducible apply within_step (modNib_keeps_setup _ _ _ ?hk); (case hk => first | with_reducible rfl | (simp only [setupOf]; done) | ((try dsimp only); (repeat' split) <;> (simp only [setupOf]; done))); decide)
    | (with_reducible apply within_step (modNib_within _ _ _); decide)
    | (with_reducible apply within_step (raiseNibEvent_within _ _ _); decide)
    | split

theorem lockStroke_within (s : State) (n : NibIx) (k : SlotIx) (crossing limit : W64) :
    Within [.inboxes, .nibs, .streams, .eic, .raises, .blotter] s (lockStroke s n k crossing limit) := by
  unfold lockStroke
  repeat' first
    | with_reducible apply within_refl
    | with_reducible assumption
    | (with_reducible apply within_ite <;> intro _)
    | (extract_lets +onlyGivenNames u
       first
       | (refine within_cut (v := u) ?_ ?_
          all_goals (first | (with_reducible intro hu; revert hu; clear_value u; intro hu) | subst u))
       | clear_value u
       | subst u)
    | (with_reducible apply within_step (modNib_keeps_setup _ _ _ ?hk); (case hk => first | with_reducible rfl | (simp only [setupOf]; done) | ((try dsimp only); (repeat' split) <;> (simp only [setupOf]; done))); decide)
    | (with_reducible apply within_step (modNib_within _ _ _); decide)
    | (with_reducible apply within_step (notPlaced_within _ _ _ _ _); decide)
    | (with_reducible apply within_step (putSlot_within _ _ _ _); decide)
    | (with_reducible apply within_step (raiseFault_within _ _ _); decide)
    | (with_reducible apply within_step (raiseNibEvent_within _ _ _); decide)
    | split

theorem setDrive_within (s : State) (n : NibIx) (d : Drive) :
    Within [.nibs, .nibSetup] s (setDrive s n d) := by
  unfold setDrive
  repeat' first
    | with_reducible apply within_refl
    | with_reducible assumption
    | (with_reducible apply within_step (modNib_keeps_setup _ _ _ ?hk); (case hk => first | ((try dsimp only); unfold driven; (repeat' split) <;> (simp only [setupOf]; done)) | with_reducible rfl | (simp only [setupOf]; done) | ((try dsimp only); (repeat' split) <;> (simp only [setupOf]; done))); decide)
    | (with_reducible apply within_step (modNib_within _ _ _); decide)
    | split

theorem placeEdge_within (s : State) (n : NibIx) (plan t : W64) (d : Drive) :
    Within [.nibs] s (placeEdge s n plan t d) := by
  unfold placeEdge
  repeat' first
    | with_reducible apply within_refl
    | with_reducible assumption
    | (extract_lets +onlyGivenNames u
       first
       | (refine within_cut (v := u) ?_ ?_
          all_goals (first | (with_reducible intro hu; revert hu; clear_value u; intro hu) | subst u))
       | clear_value u
       | subst u)
    | (with_reducible apply within_step (modNib_keeps_setup _ _ _ ?hk); (case hk => first | ((try dsimp only); unfold driven; (repeat' split) <;> (simp only [setupOf]; done)) | with_reducible rfl | (simp only [setupOf]; done) | ((try dsimp only); (repeat' split) <;> (simp only [setupOf]; done))); decide)
    | (with_reducible apply within_step (modNib_within _ _ _); decide)
    | split

theorem driveAt_within (s : State) (n : NibIx) (t : W64) (d : Drive) :
    Within [.nibs] s (driveAt s n t d) := by
  unfold driveAt
  repeat' first
    | with_reducible apply within_refl
    | with_reducible assumption
    | (with_reducible apply within_ite <;> intro _)
    | (with_reducible apply within_step (placeEdge_within _ _ _ _ _); decide)
    | split

theorem closeWindows_within (s : State) (n : NibIx) (now : W64) :
    Within [.nibs] s (closeWindows s n now) := by
  unfold closeWindows
  repeat' first
    | with_reducible apply within_refl
    | with_reducible assumption
    | (with_reducible apply within_step (modNibIn_keeps_setup _ _ _ ?hk); (case hk => first | with_reducible rfl | (simp only [setupOf]; done) | ((try dsimp only); (repeat' split) <;> (simp only [setupOf]; done))); decide)
    | (with_reducible apply within_step (modNibIn_within _ _ _); decide)
    | split

theorem endHeld_within (s : State) (n : NibIx) (k : SlotIx) :
    Within [.inboxes, .nibs, .streams, .eic, .raises, .blotter] s (endHeld s n k) := by
  unfold endHeld
  repeat' first
    | with_reducible apply within_refl
    | with_reducible assumption
    | (with_reducible apply within_ite <;> intro _)
    | (with_reducible apply within_step (endStroke_within _ _ _ _ _); decide)
    | (with_reducible apply within_forAll; intro _ _)
    | split

theorem fireLevel_within (s : State) (n : NibIx) (k : SlotIx) (v : StrokeSlot) (d : Drive) :
    Within [.inboxes, .nibs, .streams, .eic, .raises, .blotter] s (fireLevel s n k v d) := by
  unfold fireLevel
  repeat' first
    | with_reducible apply within_refl
    | with_reducible assumption
    | (extract_lets +onlyGivenNames u
       first
       | (refine within_cut (v := u) ?_ ?_
          all_goals (first | (with_reducible intro hu; revert hu; clear_value u; intro hu) | subst u))
       | clear_value u
       | subst u)
    | (with_reducible apply within_step (endHeld_within _ _ _); decide)
    | (with_reducible apply within_step (endStroke_within _ _ _ _ _); decide)
    | (with_reducible apply within_step (placeEdge_within _ _ _ _ _); decide)
    | split

theorem firePulse_within (s : State) (n : NibIx) (k : SlotIx) (v : StrokeSlot) (d : Drive) (fin : Option W64) :
    Within [.inboxes, .nibs, .streams, .eic, .raises, .blotter] s (firePulse s n k v d fin) := by
  unfold firePulse
  repeat' first
    | with_reducible apply within_refl
    | with_reducible assumption
    | (with_reducible apply within_ite <;> intro _)
    | (extract_lets +onlyGivenNames u
       first
       | (refine within_cut (v := u) ?_ ?_
          all_goals (first | (with_reducible intro hu; revert hu; clear_value u; intro hu) | subst u))
       | clear_value u
       | subst u)
    | (with_reducible apply within_step (endHeld_within _ _ _); decide)
    | (with_reducible apply within_step (notPlaced_within _ _ _ _ _); decide)
    | (with_reducible apply within_step (placeEdge_within _ _ _ _ _); decide)
    | (with_reducible apply within_step (putSlot_within _ _ _ _); decide)
    | split

theorem fireBurst_within (s : State) (n : NibIx) (k : SlotIx) (v : StrokeSlot) :
    Within [.inboxes, .nibs, .streams, .eic, .raises, .blotter] s (fireBurst s n k v) := by
  unfold fireBurst
  repeat' first
    | with_reducible apply within_refl
    | with_reducible assumption
    | (with_reducible apply within_ite <;> intro _)
    | (extract_lets +onlyGivenNames u
       first
       | (refine within_cut (v := u) ?_ ?_
          all_goals (first | (with_reducible intro hu; revert hu; clear_value u; intro hu) | subst u))
       | clear_value u
       | subst u)
    | (with_reducible apply within_step (endHeld_within _ _ _); decide)
    | (with_reducible apply within_step (notPlaced_within _ _ _ _ _); decide)
    | (with_reducible apply within_step (placeEdge_within _ _ _ _ _); decide)
    | (with_reducible apply within_step (putSlot_within _ _ _ _); decide)
    | split

theorem firePwmLoad_within (s : State) (n : NibIx) (k : SlotIx) (v : StrokeSlot) :
    Within [.inboxes, .nibs, .streams, .eic, .raises, .blotter] s (firePwmLoad s n k v) := by
  unfold firePwmLoad
  repeat' first
    | with_reducible apply within_refl
    | with_reducible assumption
    | (extract_lets +onlyGivenNames u
       first
       | (refine within_cut (v := u) ?_ ?_
          all_goals (first | (with_reducible intro hu; revert hu; clear_value u; intro hu) | subst u))
       | clear_value u
       | subst u)
    | (with_reducible apply within_step (endStroke_within _ _ _ _ _); decide)
    | (with_reducible apply within_step (modNib_keeps_setup _ _ _ ?hk); (case hk => first | with_reducible rfl | (simp only [setupOf]; done) | ((try dsimp only); (repeat' split) <;> (simp only [setupOf]; done))); decide)
    | (with_reducible apply within_step (modNib_within _ _ _); decide)
    | split

theorem patternWord_within (s : State) (n : NibIx) (start : Fin 4096) (i : Nat) :
    Within [.raises, .blotter, .ink, .co] s (patternWord s n start i).2 := by
  unfold patternWord
  repeat' first
    | with_reducible apply within_refl
    | with_reducible assumption
    | (extract_lets +onlyGivenNames u
       first
       | (refine within_cut (v := u) ?_ ?_
          all_goals (first | (with_reducible intro hu; revert hu; clear_value u; intro hu) | subst u))
       | clear_value u
       | subst u)
    | (with_reducible apply within_step (inkRead_within _ _ _); decide)
    | (with_reducible apply within_snd (inkRead_within _ _ _); with_reducible assumption; decide)
    | (with_reducible apply within_step (usePort_within _ _); decide)
    | split

theorem firePatternStart_within (s : State) (n : NibIx) (k : SlotIx) (v : StrokeSlot) :
    Within [.inboxes, .nibs, .streams, .eic, .raises, .blotter, .ink, .co] s (firePatternStart s n k v) := by
  unfold firePatternStart
  repeat' first
    | with_reducible apply within_refl
    | with_reducible assumption
    | (with_reducible apply within_ite <;> intro _)
    | (extract_lets +onlyGivenNames u
       first
       | (refine within_cut (v := u) ?_ ?_
          all_goals (first | (with_reducible intro hu; revert hu; clear_value u; intro hu) | subst u))
       | clear_value u
       | subst u)
    | (with_reducible apply within_step (endStroke_within _ _ _ _ _); decide)
    | (with_reducible apply within_step (modNib_keeps_setup _ _ _ ?hk); (case hk => first | with_reducible rfl | (simp only [setupOf]; done) | ((try dsimp only); (repeat' split) <;> (simp only [setupOf]; done))); decide)
    | (with_reducible apply within_step (modNib_within _ _ _); decide)
    | (with_reducible apply within_step (patternWord_within _ _ _ _); decide)
    | (with_reducible apply within_snd (patternWord_within _ _ _ _); with_reducible assumption; decide)
    | (with_reducible apply within_step (placeEdge_within _ _ _ _ _); decide)
    | (with_reducible apply within_step (putSlot_within _ _ _ _); decide)
    | split

theorem finishPattern_within (s : State) (n : NibIx) :
    Within [.inboxes, .nibs, .streams, .eic, .raises, .blotter] s (finishPattern s n) := by
  unfold finishPattern
  repeat' first
    | with_reducible apply within_refl
    | with_reducible assumption
    | (extract_lets +onlyGivenNames u
       first
       | (refine within_cut (v := u) ?_ ?_
          all_goals (first | (with_reducible intro hu; revert hu; clear_value u; intro hu) | subst u))
       | clear_value u
       | subst u)
    | (with_reducible apply within_step (endStroke_within _ _ _ _ _); decide)
    | (with_reducible apply within_step (modNib_keeps_setup _ _ _ ?hk); (case hk => first | with_reducible rfl | (simp only [setupOf]; done) | ((try dsimp only); (repeat' split) <;> (simp only [setupOf]; done))); decide)
    | (with_reducible apply within_step (modNib_within _ _ _); decide)
    | (with_reducible apply within_step (raiseNibEvent_within _ _ _); decide)
    | split

theorem patternBit_within (s : State) (n : NibIx) (p : PatternRun) (i : Nat) (base t : W64) :
    Within [.nibs, .raises, .blotter, .ink, .co] s (patternBit s n p i base t) := by
  unfold patternBit
  repeat' first
    | with_reducible apply within_refl
    | with_reducible assumption
    | (with_reducible apply within_ite <;> intro _)
    | (extract_lets +onlyGivenNames u
       first
       | (refine within_cut (v := u) ?_ ?_
          all_goals (first | (with_reducible intro hu; revert hu; clear_value u; intro hu) | subst u))
       | clear_value u
       | subst u)
    | (with_reducible apply within_step (driveAt_within _ _ _ _); decide)
    | (with_reducible apply within_step (modNib_keeps_setup _ _ _ ?hk); (case hk => first | with_reducible rfl | (simp only [setupOf]; done) | ((try dsimp only); (repeat' split) <;> (simp only [setupOf]; done))); decide)
    | (with_reducible apply within_step (modNib_within _ _ _); decide)
    | (with_reducible apply within_step (patternWord_within _ _ _ _); decide)
    | (with_reducible apply within_snd (patternWord_within _ _ _ _); with_reducible assumption; decide)
    | split

theorem patternStep_within (s : State) (n : NibIx) :
    Within [.inboxes, .nibs, .streams, .eic, .raises, .blotter, .ink, .co] s (patternStep s n) := by
  unfold patternStep
  repeat' first
    | with_reducible apply within_refl
    | with_reducible assumption
    | (with_reducible apply within_ite <;> intro _)
    | (extract_lets +onlyGivenNames u
       first
       | (refine within_cut (v := u) ?_ ?_
          all_goals (first | (with_reducible intro hu; revert hu; clear_value u; intro hu) | subst u))
       | clear_value u
       | subst u)
    | (with_reducible apply within_step (driveAt_within _ _ _ _); decide)
    | (with_reducible apply within_step (finishPattern_within _ _); decide)
    | (with_reducible apply within_step (patternBit_within _ _ _ _ _ _); decide)
    | split

theorem endReflex_within (s : State) (n : NibIx) :
    Within [.nibs] s (endReflex s n) := by
  unfold endReflex
  repeat' first
    | with_reducible apply within_refl
    | with_reducible assumption
    | (with_reducible apply within_step (modNib_keeps_setup _ _ _ ?hk); (case hk => first | with_reducible rfl | (simp only [setupOf]; done) | ((try dsimp only); (repeat' split) <;> (simp only [setupOf]; done))); decide)
    | (with_reducible apply within_step (modNib_within _ _ _); decide)
    | (with_reducible apply within_step (placeEdge_within _ _ _ _ _); decide)
    | split

theorem firePatternStop_within (s : State) (n : NibIx) (k : SlotIx) (v : StrokeSlot) :
    Within [.inboxes, .nibs, .streams, .eic, .raises, .blotter] s (firePatternStop s n k v) := by
  unfold firePatternStop
  repeat' first
    | with_reducible apply within_refl
    | with_reducible assumption
    | (with_reducible apply within_step (finishPattern_within _ _); decide)
    | (with_reducible apply within_step (fireLevel_within _ _ _ _ _); decide)

theorem fireCaptureArm_within (s : State) (n : NibIx) (k : SlotIx) (v : StrokeSlot) :
    Within [.inboxes, .nibs, .streams, .eic, .raises, .blotter] s (fireCaptureArm s n k v) := by
  unfold fireCaptureArm
  repeat' first
    | with_reducible apply within_refl
    | with_reducible assumption
    | (with_reducible apply within_ite <;> intro _)
    | (extract_lets +onlyGivenNames u
       first
       | (refine within_cut (v := u) ?_ ?_
          all_goals (first | (with_reducible intro hu; revert hu; clear_value u; intro hu) | subst u))
       | clear_value u
       | subst u)
    | (with_reducible apply within_step (closeWindows_within _ _ _); decide)
    | (with_reducible apply within_step (endStroke_within _ _ _ _ _); decide)
    | (with_reducible apply within_step (modNibIn_keeps_setup _ _ _ ?hk); (case hk => first | with_reducible rfl | (simp only [setupOf]; done) | ((try dsimp only); (repeat' split) <;> (simp only [setupOf]; done))); decide)
    | (with_reducible apply within_step (modNibIn_within _ _ _); decide)
    | split

theorem fireReflexArm_within (s : State) (n : NibIx) (k : SlotIx) (v : StrokeSlot) :
    Within [.inboxes, .nibs, .links, .streams, .eic, .raises, .blotter] s (fireReflexArm s n k v) := by
  unfold fireReflexArm
  extract_lets a l x t
  refine within_step (endStroke_within _ _ _ _ _) (by decide) ?_
  subst t
  refine within_ite (fun _ => ?_) (fun _ => within_refl _ _)
  exact within_mono (modLink_within _ _ _) (by decide)

theorem fireAction_within (s : State) (n : NibIx) (k : SlotIx) (v : StrokeSlot) (a : Action) :
    Within [.inboxes, .nibs, .links, .streams, .eic, .raises, .blotter, .ink, .co] s (fireAction s n k v a) := by
  unfold fireAction
  repeat' first
    | with_reducible apply within_refl
    | with_reducible assumption
    | (with_reducible apply within_step (fireBurst_within _ _ _ _); decide)
    | (with_reducible apply within_step (fireCaptureArm_within _ _ _ _); decide)
    | (with_reducible apply within_step (fireLevel_within _ _ _ _ _); decide)
    | (with_reducible apply within_step (firePatternStart_within _ _ _ _); decide)
    | (with_reducible apply within_step (firePatternStop_within _ _ _ _); decide)
    | (with_reducible apply within_step (firePulse_within _ _ _ _ _ _); decide)
    | (with_reducible apply within_step (firePwmLoad_within _ _ _ _); decide)
    | (with_reducible apply within_step (fireReflexArm_within _ _ _ _); decide)
    | split

theorem fireEnd_within (s : State) (n : NibIx) (k : SlotIx) (v : StrokeSlot) (t : W64) :
    Within [.inboxes, .nibs, .streams, .eic, .raises, .blotter] s (fireEnd s n k v t) := by
  unfold fireEnd
  repeat' first
    | with_reducible apply within_refl
    | with_reducible assumption
    | (with_reducible apply within_ite <;> intro _)
    | (extract_lets +onlyGivenNames u
       first
       | (refine within_cut (v := u) ?_ ?_
          all_goals (first | (with_reducible intro hu; revert hu; clear_value u; intro hu) | subst u))
       | clear_value u
       | subst u)
    | (with_reducible apply within_step (endHeld_within _ _ _); decide)
    | (with_reducible apply within_step (endStroke_within _ _ _ _ _); decide)
    | (with_reducible apply within_step (placeEdge_within _ _ _ _ _); decide)
    | split

theorem fireBurstEdge_within (s : State) (n : NibIx) (k : SlotIx) (v : StrokeSlot) (t : W64) :
    Within [.inboxes, .nibs, .streams, .eic, .raises, .blotter] s (fireBurstEdge s n k v t) := by
  unfold fireBurstEdge
  repeat' first
    | with_reducible apply within_refl
    | with_reducible assumption
    | (with_reducible apply within_ite <;> intro _)
    | (extract_lets +onlyGivenNames u
       first
       | (refine within_cut (v := u) ?_ ?_
          all_goals (first | (with_reducible intro hu; revert hu; clear_value u; intro hu) | subst u))
       | clear_value u
       | subst u)
    | (with_reducible apply within_step (endHeld_within _ _ _); decide)
    | (with_reducible apply within_step (placeEdge_within _ _ _ _ _); decide)
    | (with_reducible apply within_step (putSlot_within _ _ _ _); decide)
    | split

theorem fireSlot_within (s : State) (n : NibIx) (k : SlotIx) :
    Within [.inboxes, .nibs, .links, .streams, .eic, .raises, .blotter, .ink, .co] s (fireSlot s n k) := by
  unfold fireSlot
  repeat' first
    | with_reducible apply within_refl
    | with_reducible assumption
    | (with_reducible apply within_ite <;> intro _)
    | (with_reducible apply within_step (fireAction_within _ _ _ _ _); decide)
    | (with_reducible apply within_step (fireBurstEdge_within _ _ _ _ _); decide)
    | (with_reducible apply within_step (fireEnd_within _ _ _ _ _); decide)
    | split

theorem outStep_within (s : State) (n : NibIx) (e : OutEvent) : Within [.inboxes, .nibs, .links, .streams, .eic, .raises, .blotter, .ink, .co] s (outStep s n e) := by
  cases e
  · exact within_mono (fireSlot_within _ _ _) (by decide)
  · exact within_mono (patternStep_within _ _) (by decide)
  · exact within_mono (endReflex_within _ _) (by decide)

theorem fireBefore_within (s : State) (n : NibIx) (cut : W64) (fuel : Nat) :
    Within [.inboxes, .nibs, .links, .streams, .eic, .raises, .blotter, .ink, .co] s (fireBefore s n cut fuel) := by
  induction fuel generalizing s with
  | zero => exact within_refl _ _
  | succ k ih =>
    unfold fireBefore
    split
    · split
      · exact within_step (ih _) (List.Subset.refl _) (within_mono (outStep_within _ _ _) (by decide))
      · exact within_refl _ _
    · exact within_refl _ _

theorem cancelSlot_within (s : State) (n : NibIx) (k : SlotIx) (st : StrokeStatus) :
    Within [.inboxes, .nibs, .streams, .eic, .raises, .blotter] s (cancelSlot s n k st) := by
  unfold cancelSlot
  repeat' first
    | with_reducible apply within_refl
    | with_reducible assumption
    | (with_reducible apply within_ite <;> intro _)
    | (extract_lets +onlyGivenNames u
       first
       | (refine within_cut (v := u) ?_ ?_
          all_goals (first | (with_reducible intro hu; revert hu; clear_value u; intro hu) | subst u))
       | clear_value u
       | subst u)
    | (with_reducible apply within_step (endStroke_within _ _ _ _ _); decide)
    | (with_reducible apply within_step (raiseNibEvent_within _ _ _); decide)
    | split

theorem cancelAll_within (s : State) (n : NibIx) (st : StrokeStatus) :
    Within [.inboxes, .nibs, .streams, .eic, .raises, .blotter] s (cancelAll s n st) := by
  unfold cancelAll
  repeat' first
    | with_reducible apply within_refl
    | with_reducible assumption
    | (extract_lets +onlyGivenNames u
       first
       | (refine within_cut (v := u) ?_ ?_
          all_goals (first | (with_reducible intro hu; revert hu; clear_value u; intro hu) | subst u))
       | clear_value u
       | subst u)
    | (with_reducible apply within_step (cancelSlot_within _ _ _ _); decide)
    | (with_reducible apply within_forAll; intro _ _)
    | split

theorem endPattern_within (s : State) (n : NibIx) :
    Within [.nibs, .eic, .raises, .blotter] s (endPattern s n) := by
  unfold endPattern
  repeat' first
    | with_reducible apply within_refl
    | with_reducible assumption
    | (with_reducible apply within_ite <;> intro _)
    | (with_reducible apply within_step (modNib_keeps_setup _ _ _ ?hk); (case hk => first | with_reducible rfl | (simp only [setupOf]; done) | ((try dsimp only); (repeat' split) <;> (simp only [setupOf]; done))); decide)
    | (with_reducible apply within_step (modNib_within _ _ _); decide)
    | (with_reducible apply within_step (raiseNibEvent_within _ _ _); decide)
    | split

theorem stopOutput_within (s : State) (n : NibIx) (st : StrokeStatus) :
    Within [.inboxes, .nibs, .streams, .eic, .raises, .blotter] s (stopOutput s n st) := by
  unfold stopOutput
  repeat' first
    | with_reducible apply within_refl
    | with_reducible assumption
    | (extract_lets +onlyGivenNames u
       first
       | (refine within_cut (v := u) ?_ ?_
          all_goals (first | (with_reducible intro hu; revert hu; clear_value u; intro hu) | subst u))
       | clear_value u
       | subst u)
    | (with_reducible apply within_step (cancelAll_within _ _ _); decide)
    | (with_reducible apply within_step (endPattern_within _ _); decide)
    | (with_reducible apply within_step (modNib_keeps_setup _ _ _ ?hk); (case hk => first | ((try dsimp only); unfold driven; (repeat' split) <;> (simp only [setupOf]; done)) | with_reducible rfl | (simp only [setupOf]; done) | ((try dsimp only); (repeat' split) <;> (simp only [setupOf]; done))); decide)
    | (with_reducible apply within_step (modNib_within _ _ _); decide)
    | split

theorem enterSafe_within (s : State) (n : NibIx) (cut : W64) :
    Within [.inboxes, .nibs, .links, .streams, .eic, .raises, .blotter, .ink, .co] s (enterSafe s n cut) := by
  unfold enterSafe
  repeat' first
    | with_reducible apply within_refl
    | with_reducible assumption
    | (with_reducible apply within_ite <;> intro _)
    | (extract_lets +onlyGivenNames u
       first
       | (refine within_cut (v := u) ?_ ?_
          all_goals (first | (with_reducible intro hu; revert hu; clear_value u; intro hu) | subst u))
       | clear_value u
       | subst u)
    | (with_reducible apply within_step (closeWindows_within _ _ _); decide)
    | (with_reducible apply within_step (fireBefore_within _ _ _ _); decide)
    | (with_reducible apply within_step (modNib_keeps_setup _ _ _ ?hk); (case hk => first | with_reducible rfl | (simp only [setupOf]; done) | ((try dsimp only); (repeat' split) <;> (simp only [setupOf]; done))); decide)
    | (with_reducible apply within_step (modNib_within _ _ _); decide)
    | (with_reducible apply within_step (raiseNibEvent_within _ _ _); decide)
    | (with_reducible apply within_step (stopOutput_within _ _ _); decide)
    | split

theorem reviewSafe_within (s : State) :
    Within [.inboxes, .nibs, .links, .streams, .eic, .raises, .blotter, .ink, .co] s (reviewSafe s) := by
  unfold reviewSafe
  repeat' first
    | with_reducible apply within_refl
    | with_reducible assumption
    | (with_reducible apply within_ite <;> intro _)
    | (with_reducible apply within_step (enterSafe_within _ _ _); decide)
    | (with_reducible apply within_forAll; intro _ _)
    | split

theorem leaveSafe_within (s : State) :
    Within [.nibs] s (leaveSafe s) := by
  unfold leaveSafe
  repeat' first
    | with_reducible apply within_refl
    | with_reducible assumption
    | (with_reducible apply within_ite <;> intro _)
    | (with_reducible apply within_step (modNib_keeps_setup _ _ _ ?hk); (case hk => first | with_reducible rfl | (simp only [setupOf]; done) | ((try dsimp only); (repeat' split) <;> (simp only [setupOf]; done))); decide)
    | (with_reducible apply within_step (modNib_within _ _ _); decide)
    | (with_reducible apply within_forAll; intro _ _)
    | split

theorem holdNib_within (s : State) (n : NibIx) :
    Within [.inboxes, .nibs, .streams, .eic, .raises, .blotter] s (holdNib s n) := by
  unfold holdNib
  repeat' first
    | with_reducible apply within_refl
    | with_reducible assumption
    | (with_reducible apply within_ite <;> intro _)
    | (with_reducible apply within_step (modNib_keeps_setup _ _ _ ?hk); (case hk => first | with_reducible rfl | (simp only [setupOf]; done) | ((try dsimp only); (repeat' split) <;> (simp only [setupOf]; done))); decide)
    | (with_reducible apply within_step (modNib_within _ _ _); decide)
    | (with_reducible apply within_step (stopOutput_within _ _ _); decide)
    | split

theorem holdOwned_within (s : State) (q : QuillIx) :
    Within [.inboxes, .nibs, .streams, .eic, .raises, .blotter] s (holdOwned s q) := by
  unfold holdOwned
  repeat' first
    | with_reducible apply within_refl
    | with_reducible assumption
    | (with_reducible apply within_ite <;> intro _)
    | (with_reducible apply within_step (holdNib_within _ _); decide)
    | (with_reducible apply within_forAll; intro _ _)
    | split

theorem disableNib_within (s : State) (n : NibIx) :
    Within [.inboxes, .nibs, .nibSetup, .streams, .eic, .raises, .blotter] s (disableNib s n) := by
  unfold disableNib
  repeat' first
    | with_reducible apply within_refl
    | with_reducible assumption
    | (with_reducible apply within_step (modNib_keeps_setup _ _ _ ?hk); (case hk => first | with_reducible rfl | (simp only [setupOf]; done) | ((try dsimp only); (repeat' split) <;> (simp only [setupOf]; done))); decide)
    | (with_reducible apply within_step (modNib_keeps_doing _ _ _ ?hk); (case hk => first | with_reducible rfl | (simp only [doingOf]; done) | ((try dsimp only); (repeat' split) <;> (simp only [doingOf]; done))); decide)
    | (with_reducible apply within_step (modNib_within _ _ _); decide)
    | (with_reducible apply within_step (stopOutput_within _ _ _); decide)
    | split

theorem enableNib_within (s : State) (n : NibIx) :
    Within [.nibs, .nibSetup] s (enableNib s n) := by
  unfold enableNib
  repeat' first
    | with_reducible apply within_refl
    | with_reducible assumption
    | (with_reducible apply within_step (modNib_keeps_setup _ _ _ ?hk); (case hk => first | with_reducible rfl | (simp only [setupOf]; done) | ((try dsimp only); (repeat' split) <;> (simp only [setupOf]; done))); decide)
    | (with_reducible apply within_step (modNib_keeps_doing _ _ _ ?hk); (case hk => first | with_reducible rfl | (simp only [doingOf]; done) | ((try dsimp only); (repeat' split) <;> (simp only [doingOf]; done))); decide)
    | (with_reducible apply within_step (modNib_within _ _ _); decide)
    | split

end Sys2Proof.Machine
end

