-- ==== Sys2Proof/Laws/PartsBlotter.lean ====
section
/-! SUPPORT. The parts of the state that each operation of Machine/Blotter.lean can change. -/
namespace Sys2Proof.Machine

theorem takeRaise_within (s : State) (r : Raise) :
    Within [.inboxes, .nibs, .links, .streams, .eic, .raises, .blotter, .ink, .co] s (takeRaise s r) := by
  unfold takeRaise
  repeat' first
    | with_reducible apply within_refl
    | with_reducible assumption
    | (with_reducible apply within_ite <;> intro _)
    | (extract_lets +onlyGivenNames u
       first
       | (refine within_cut (v := u) ?_ ?_
          all_goals (first | (with_reducible intro hu; revert hu; clear_value u; intro hu) | subst u))
       | clear_value u
       | subst u)
    | (with_reducible apply within_step (modBlotter_keeps_queue _ _ ?hk); (case hk => first | with_unfolding_all rfl | with_reducible rfl | ((try dsimp only); (repeat' split) <;> with_reducible rfl)); decide)
    | (with_reducible apply within_step (modClass_within _ _ _); decide)
    | (with_reducible apply within_step (modEic_within _ _); decide)
    | (with_reducible apply within_step (pushCause_within _ _); decide)
    | (with_reducible apply within_step (reviewSafe_within _); decide)
    | split

theorem settleFor_within (fuel : Nat) (s : State) :
    Within [.inboxes, .nibs, .links, .streams, .eic, .raises, .blotter, .ink, .co] s (settleFor fuel s) := by
  induction fuel generalizing s with
  | zero => exact within_mono (modBlotter_within _ _) (by decide)
  | succ k ih =>
    unfold settleFor
    split
    · exact within_refl _ _
    · exact within_step (ih _) (List.Subset.refl _)
        (within_step (takeRaise_within _ _) (by decide) (within_mono (modBlotter_within _ _) (by decide)))

theorem settle_within (s : State) :
    Within [.inboxes, .nibs, .links, .streams, .eic, .raises, .blotter, .ink, .co] s (settle s) := by
  unfold settle
  repeat' first
    | with_reducible apply within_refl
    | with_reducible assumption
    | (with_reducible apply within_step (settleFor_within _ _); decide)

theorem acknowledge_within (s : State) (src : Nat) (all : Bool) :
    Within [.blotter] s (acknowledge s src all) := by
  unfold acknowledge
  repeat' first
    | with_reducible apply within_refl
    | with_reducible assumption
    | (with_reducible apply within_step (modBlotter_keeps_queue _ _ ?hk); (case hk => first | with_unfolding_all rfl | with_reducible rfl | ((try dsimp only); (repeat' split) <;> with_reducible rfl)); decide)
    | split

theorem writeAck_within (s : State) (v : Word) :
    Within [.blotter] s (writeAck s v) := by
  unfold writeAck
  repeat' first
    | with_reducible apply within_refl
    | with_reducible assumption
    | (with_reducible apply within_step (modBlotter_keeps_queue _ _ ?hk); (case hk => first | with_unfolding_all rfl | with_reducible rfl | ((try dsimp only); (repeat' split) <;> with_reducible rfl)); decide)
    | split

theorem toggleAlive_within (s : State) :
    Within [.blotter] s (toggleAlive s) := by
  unfold toggleAlive
  repeat' first
    | with_reducible apply within_refl
    | with_reducible assumption
    | (with_reducible apply within_ite <;> intro _)
    | (extract_lets +onlyGivenNames u
       first
       | (refine within_cut (v := u) ?_ ?_
          all_goals (first | (with_reducible intro hu; revert hu; clear_value u; intro hu) | subst u))
       | clear_value u
       | subst u)
    | (with_reducible apply within_step (modBlotter_keeps_queue _ _ ?hk); (case hk => first | with_unfolding_all rfl | with_reducible rfl | ((try dsimp only); (repeat' split) <;> with_reducible rfl)); decide)
    | split

end Sys2Proof.Machine
end

