-- ==== Sys2Proof/Laws/PartsBlotterRegs.lean ====
section
/-! SUPPORT. The parts of the state that each operation of Machine/BlotterRegs.lean can change. -/
namespace Sys2Proof.Machine

theorem blotterReadClear_within (s : State) (off : Nat) :
    Within [.blotter] s (blotterReadClear s off) := by
  unfold blotterReadClear
  repeat' first
    | with_reducible apply within_refl
    | with_reducible assumption
    | (with_reducible apply within_ite <;> intro _)
    | (with_reducible apply within_step (modBlotter_keeps_queue _ _ ?hk); (case hk => first | with_unfolding_all rfl | with_reducible rfl | ((try dsimp only); (repeat' split) <;> with_reducible rfl)); decide)
    | split

theorem blotterWrite_within (s : State) (off : Nat) (v : Word) :
    Within [.blotter] s (blotterWrite s off v) := by
  unfold blotterWrite
  repeat' first
    | with_reducible apply within_refl
    | with_reducible assumption
    | (with_reducible apply within_ite <;> intro _)
    | (with_reducible apply within_step (modBlotter_keeps_queue _ _ ?hk); (case hk => first | with_unfolding_all rfl | with_reducible rfl | ((try dsimp only); (repeat' split) <;> with_reducible rfl)); decide)
    | (with_reducible apply within_step (modClass_within _ _ _); decide)
    | (with_reducible apply within_step (writeAck_within _ _); decide)
    | split

theorem blotterConfig_within (s : State) (off : Nat) (v : Word) :
    Within [.blotter] s (blotterConfig s off v) := by
  unfold blotterConfig
  repeat' first
    | with_reducible apply within_refl
    | with_reducible assumption
    | (with_reducible apply within_step (modBlotter_keeps_queue _ _ ?hk); (case hk => first | with_unfolding_all rfl | with_reducible rfl | ((try dsimp only); (repeat' split) <;> with_reducible rfl)); decide)
    | split

end Sys2Proof.Machine
end

