-- ==== Sys2Proof/Laws/PartsEic.lean ====
section
/-! SUPPORT. The parts of the state that each operation of Machine/Eic.lean can change. -/
namespace Sys2Proof.Machine

theorem putSource_within (s : State) (x : SrcIx) (y : EicSource) :
    Within [.eic] s (putSource s x y) := by
  unfold putSource
  repeat' first
    | with_reducible apply within_refl
    | with_reducible assumption
    | (with_reducible apply within_ite <;> intro _)
    | (extract_lets +onlyGivenNames u
       first
       | (refine within_cut (v := u) ?_ ?_
          all_goals (first | (with_reducible intro hu; revert hu; clear_value u; intro hu) | subst u))
       | clear_value u
       | subst u)
    | (with_reducible apply within_step (modEic_within _ _); decide)
    | (with_reducible apply within_step (modSource_within _ _ _); decide)
    | (with_reducible apply within_forAll; intro _ _)
    | split

theorem releaseGroup_within (s : State) (g : Fin 64) :
    Within [.eic] s (releaseGroup s g) := by
  unfold releaseGroup
  repeat' first
    | with_reducible apply within_refl
    | with_reducible assumption
    | (with_reducible apply within_ite <;> intro _)
    | (extract_lets +onlyGivenNames u
       first
       | (refine within_cut (v := u) ?_ ?_
          all_goals (first | (with_reducible intro hu; revert hu; clear_value u; intro hu) | subst u))
       | clear_value u
       | subst u)
    | (with_reducible apply within_step (modGroup_within _ _ _); decide)
    | (with_reducible apply within_step (putSource_within _ _ _); decide)
    | (with_reducible apply within_forAll; intro _ _)
    | split

theorem groupArrival_within (s : State) (g : Fin 64) :
    Within [.eic] s (groupArrival s g) := by
  unfold groupArrival
  repeat' first
    | with_reducible apply within_refl
    | with_reducible assumption
    | (with_reducible apply within_ite <;> intro _)
    | (extract_lets +onlyGivenNames u
       first
       | (refine within_cut (v := u) ?_ ?_
          all_goals (first | (with_reducible intro hu; revert hu; clear_value u; intro hu) | subst u))
       | clear_value u
       | subst u)
    | (with_reducible apply within_step (modGroup_within _ _ _); decide)
    | (with_reducible apply within_step (releaseGroup_within _ _); decide)
    | split

theorem countArrival_within (s : State) (x : SrcIx) :
    Within [.eic] s (countArrival s x) := by
  unfold countArrival
  repeat' first
    | with_reducible apply within_refl
    | with_reducible assumption
    | (with_reducible apply within_ite <;> intro _)
    | (with_reducible apply within_step (modEic_within _ _); decide)
    | (with_reducible apply within_step (modSource_within _ _ _); decide)
    | split

theorem becomePending_within (s : State) (x : SrcIx) (y : EicSource) :
    Within [.eic] s (becomePending s x y) := by
  unfold becomePending
  repeat' first
    | with_reducible apply within_refl
    | with_reducible assumption
    | (with_reducible apply within_ite <;> intro _)
    | (extract_lets +onlyGivenNames u
       first
       | (refine within_cut (v := u) ?_ ?_
          all_goals (first | (with_reducible intro hu; revert hu; clear_value u; intro hu) | subst u))
       | clear_value u
       | subst u)
    | (with_reducible apply within_step (groupArrival_within _ _); decide)
    | (with_reducible apply within_step (putSource_within _ _ _); decide)
    | split

theorem arrive_within (s : State) (x : SrcIx) (byWrite : Bool) :
    Within [.eic] s (arrive s x byWrite) := by
  unfold arrive
  repeat' first
    | with_reducible apply within_refl
    | with_reducible assumption
    | (with_reducible apply within_ite <;> intro _)
    | (extract_lets +onlyGivenNames u
       first
       | (refine within_cut (v := u) ?_ ?_
          all_goals (first | (with_reducible intro hu; revert hu; clear_value u; intro hu) | subst u))
       | clear_value u
       | subst u)
    | (with_reducible apply within_step (becomePending_within _ _ _); decide)
    | (with_reducible apply within_step (countArrival_within _ _); decide)
    | (with_reducible apply within_step (groupArrival_within _ _); decide)
    | split

theorem inputFalls_within (s : State) (x : SrcIx) :
    Within [.eic] s (inputFalls s x) := by
  unfold inputFalls
  repeat' first
    | with_reducible apply within_refl
    | with_reducible assumption
    | (with_reducible apply within_ite <;> intro _)
    | (extract_lets +onlyGivenNames u
       first
       | (refine within_cut (v := u) ?_ ?_
          all_goals (first | (with_reducible intro hu; revert hu; clear_value u; intro hu) | subst u))
       | clear_value u
       | subst u)
    | (with_reducible apply within_step (modEic_within _ _); decide)
    | (with_reducible apply within_step (modSource_within _ _ _); decide)
    | (with_reducible apply within_step (putSource_within _ _ _); decide)
    | split

theorem claim_within (s : State) (k : Fin 9) (fast : Bool) :
    Within [.eic] s (claim s k fast) := by
  unfold claim
  repeat' first
    | with_reducible apply within_refl
    | with_reducible assumption
    | (extract_lets +onlyGivenNames u
       first
       | (refine within_cut (v := u) ?_ ?_
          all_goals (first | (with_reducible intro hu; revert hu; clear_value u; intro hu) | subst u))
       | clear_value u
       | subst u)
    | (with_reducible apply within_step (modEic_within _ _); decide)
    | (with_reducible apply within_step (putSource_within _ _ _); decide)
    | split

theorem complete_within (s : State) (k : Fin 9) (fast : Bool) (v : Word) :
    Within [.eic] s (complete s k fast v) := by
  unfold complete
  repeat' first
    | with_reducible apply within_refl
    | with_reducible assumption
    | (with_reducible apply within_ite <;> intro _)
    | (extract_lets +onlyGivenNames u
       first
       | (refine within_cut (v := u) ?_ ?_
          all_goals (first | (with_reducible intro hu; revert hu; clear_value u; intro hu) | subst u))
       | clear_value u
       | subst u)
    | (with_reducible apply within_step (becomePending_within _ _ _); decide)
    | (with_reducible apply within_step (modEic_within _ _); decide)
    | (with_reducible apply within_step (putSource_within _ _ _); decide)
    | split

theorem writeSrcCfg_within (s : State) (x : SrcIx) (v : Word) (input : Bool) :
    Within [.eic] s (writeSrcCfg s x v input) := by
  unfold writeSrcCfg
  repeat' first
    | with_reducible apply within_refl
    | with_reducible assumption
    | (with_reducible apply within_ite <;> intro _)
    | (extract_lets +onlyGivenNames u
       first
       | (refine within_cut (v := u) ?_ ?_
          all_goals (first | (with_reducible intro hu; revert hu; clear_value u; intro hu) | subst u))
       | clear_value u
       | subst u)
    | (with_reducible apply within_step (modEic_within _ _); decide)
    | (with_reducible apply within_step (putSource_within _ _ _); decide)
    | split

theorem writeGrpCfg_within (s : State) (g : Fin 64) (v : Word) :
    Within [.eic] s (writeGrpCfg s g v) := by
  unfold writeGrpCfg
  repeat' first
    | with_reducible apply within_refl
    | with_reducible assumption
    | (with_reducible apply within_ite <;> intro _)
    | (extract_lets +onlyGivenNames u
       first
       | (refine within_cut (v := u) ?_ ?_
          all_goals (first | (with_reducible intro hu; revert hu; clear_value u; intro hu) | subst u))
       | clear_value u
       | subst u)
    | (with_reducible apply within_step (modGroup_within _ _ _); decide)
    | (with_reducible apply within_step (releaseGroup_within _ _); decide)
    | split

theorem writeAwake_within (s : State) (v : Word) :
    Within [.eic] s (writeAwake s v) := by
  unfold writeAwake
  repeat' first
    | with_reducible apply within_refl
    | with_reducible assumption
    | (with_reducible apply within_ite <;> intro _)
    | (extract_lets +onlyGivenNames u
       first
       | (refine within_cut (v := u) ?_ ?_
          all_goals (first | (with_reducible intro hu; revert hu; clear_value u; intro hu) | subst u))
       | clear_value u
       | subst u)
    | (with_reducible apply within_step (modEic_within _ _); decide)
    | (with_reducible apply within_step (modSource_within _ _ _); decide)
    | (with_reducible apply within_forAll; intro _ _)
    | split

theorem claimBy_within (s : State) (p : Path) (k : Fin 9) (fast : Bool) :
    Within [.eic] s (claimBy s p k fast).2 := by
  unfold claimBy
  repeat' first
    | with_reducible apply within_refl
    | with_reducible assumption
    | (with_reducible apply within_ite <;> intro _)
    | (with_reducible apply within_step (claim_within _ _ _); decide)
    | split

theorem completeBy_within (s : State) (p : Path) (k : Fin 9) (fast : Bool) (v : Word) :
    Within [.eic] s (completeBy s p k fast v) := by
  unfold completeBy
  repeat' first
    | with_reducible apply within_refl
    | with_reducible assumption
    | (with_reducible apply within_ite <;> intro _)
    | (with_reducible apply within_step (complete_within _ _ _ _); decide)
    | split

theorem fallBack_within (s : State) (x : SrcIx) :
    Within [.eic] s (fallBack s x) := by
  unfold fallBack
  repeat' first
    | with_reducible apply within_refl
    | with_reducible assumption
    | (with_reducible apply within_ite <;> intro _)
    | (extract_lets +onlyGivenNames u
       first
       | (refine within_cut (v := u) ?_ ?_
          all_goals (first | (with_reducible intro hu; revert hu; clear_value u; intro hu) | subst u))
       | clear_value u
       | subst u)
    | (with_reducible apply within_step (modEic_within _ _); decide)
    | (with_reducible apply within_step (putSource_within _ _ _); decide)
    | split

end Sys2Proof.Machine
end

