-- ==== Sys2Proof/Laws/PartsStrokeTrack.lean ====
section
/-! SUPPORT. The parts of the state that each operation of Machine/StrokeTrack.lean can change. -/
namespace Sys2Proof.Machine

theorem forStrokes_within {ps : List Part} {s t : State} {i : TrackIx}
    {f : State → NibIx → SlotIx → StrokeSlot → State} (g : ∀ u n k v, Within ps u (f u n k v)) (h : Within ps s t) :
    Within ps s (forStrokes t i f) := by
  refine within_forAll (fun u n => within_forAll (fun w k => ?_) (within_refl _ _)) h
  split
  · split
    · exact g _ _ _ _
    · exact within_refl _ _
  · exact within_refl _ _

theorem mapStrokes_within (s : State) (i : TrackIx) (f : StrokeSlot → StrokeSlot) :
    Within [.nibs, .nibSetup] s (mapStrokes s i f) := by
  unfold mapStrokes
  repeat' first
    | with_reducible apply within_refl
    | with_reducible assumption
    | (with_reducible apply within_ite <;> intro _)
    | (extract_lets +onlyGivenNames u
       first
       | (refine within_cut (v := u) ?_ ?_
          all_goals (first | (with_reducible intro hu; revert hu; clear_value u; intro hu) | subst u))
       | clear_value u
       | subst u)
    | split
    | (intro k hk; cases k <;> first | exact absurd (by decide) hk | exact hu _ hk | rfl | exact ⟨rfl, rfl⟩ | exact ⟨rfl, rfl, rfl, rfl⟩)

theorem reportJudged_within (s : State) (n : NibIx) (k : SlotIx) :
    Within [.inboxes, .nibs, .streams, .eic, .raises, .blotter] s (reportJudged s n k) := by
  unfold reportJudged
  repeat' first
    | with_reducible apply within_refl
    | with_reducible assumption
    | (with_reducible apply within_ite <;> intro _)
    | (with_reducible apply within_step (modSlot_within _ _ _ _); decide)
    | (with_reducible apply within_step (writeStatus_within _ _ _ _ _ _); decide)
    | split

theorem flushJudged_within (s : State) :
    Within [.inboxes, .nibs, .streams, .eic, .raises, .blotter] s (flushJudged s) := by
  unfold flushJudged
  repeat' first
    | with_reducible apply within_refl
    | with_reducible assumption
    | (with_reducible apply within_ite <;> intro _)
    | (extract_lets +onlyGivenNames u
       first
       | (refine within_cut (v := u) ?_ ?_
          all_goals (first | (with_reducible intro hu; revert hu; clear_value u; intro hu) | subst u))
       | clear_value u
       | subst u)
    | (with_reducible apply within_step (modNib_keeps_setup _ _ _ ?hk); (case hk => first | with_reducible rfl | (simp only [setupOf]; done) | ((try dsimp only); (repeat' split) <;> (simp only [setupOf]; done))); decide)
    | (with_reducible apply within_step (modNib_within _ _ _); decide)
    | (with_reducible apply within_step (reportJudged_within _ _ _); decide)
    | (with_reducible apply within_step (writeStatus_within _ _ _ _ _ _); decide)
    | (with_reducible apply within_forAll; intro _ _)
    | split

theorem noteEntry_within (s : State) (i : TrackIx) (entry : Nat) (time : W64) (synth : Bool) :
    Within [.inboxes, .nibs, .nibSetup, .streams, .eic, .raises, .blotter] s (noteEntry s i entry time synth) := by
  unfold noteEntry
  repeat' first
    | with_reducible apply within_refl
    | with_reducible assumption
    | (with_reducible apply within_ite <;> intro _)
    | (extract_lets +onlyGivenNames u
       first
       | (refine within_cut (v := u) ?_ ?_
          all_goals (first | (with_reducible intro hu; revert hu; clear_value u; intro hu) | subst u))
       | clear_value u
       | subst u)
    | (with_reducible apply within_step (flushJudged_within _); decide)
    | (with_reducible apply within_step (mapStrokes_within _ _ _); decide)
    | split

theorem noteDoubt_within (s : State) (i : TrackIx) :
    Within [.nibs, .nibSetup] s (noteDoubt s i) := by
  unfold noteDoubt
  repeat' first
    | with_reducible apply within_refl
    | with_reducible assumption
    | (with_reducible apply within_ite <;> intro _)
    | (with_reducible apply within_step (mapStrokes_within _ _ _); decide)
    | split

theorem judgeStrokes_within (s : State) (i : TrackIx) (shift teeth : Nat) (time : W64) :
    Within [.inboxes, .nibs, .nibSetup, .streams, .eic, .raises, .blotter] s (judgeStrokes s i shift teeth time) := by
  unfold judgeStrokes
  repeat' first
    | with_reducible apply within_refl
    | with_reducible assumption
    | (with_reducible apply within_ite <;> intro _)
    | (extract_lets +onlyGivenNames u
       first
       | (refine within_cut (v := u) ?_ ?_
          all_goals (first | (with_reducible intro hu; revert hu; clear_value u; intro hu) | subst u))
       | clear_value u
       | subst u)
    | (with_reducible apply within_step (flushJudged_within _); decide)
    | (with_reducible apply within_step (mapStrokes_within _ _ _); decide)
    | split

theorem leaveUnjudged_within (s : State) (i : TrackIx) :
    Within [.inboxes, .nibs, .nibSetup, .streams, .eic, .raises, .blotter] s (leaveUnjudged s i) := by
  unfold leaveUnjudged
  repeat' first
    | with_reducible apply within_refl
    | with_reducible assumption
    | (with_reducible apply within_ite <;> intro _)
    | (with_reducible apply within_step (flushJudged_within _); decide)
    | (with_reducible apply within_step (mapStrokes_within _ _ _); decide)
    | split

theorem lockAngle_within (s : State) (n : NibIx) (k : SlotIx) (t : Tracker) (rev : Bool) (crossing limit : W64) (pos : Pos) :
    Within [.inboxes, .nibs, .streams, .eic, .raises, .blotter] s (lockAngle s n k t rev crossing limit pos) := by
  unfold lockAngle
  repeat' first
    | with_reducible apply within_refl
    | with_reducible assumption
    | (extract_lets +onlyGivenNames u
       first
       | (refine within_cut (v := u) ?_ ?_
          all_goals (first | (with_reducible intro hu; revert hu; clear_value u; intro hu) | subst u))
       | clear_value u
       | subst u)
    | (with_reducible apply within_step (lockStroke_within _ _ _ _ _); decide)
    | (with_reducible apply within_step (modSlot_within _ _ _ _); decide)
    | split

theorem lockEnd_within (s : State) (n : NibIx) (k : SlotIx) (crossing limit : W64) (startSide : Bool) :
    Within [.nibs] s (lockEnd s n k crossing limit startSide) := by
  unfold lockEnd
  repeat' first
    | with_reducible apply within_refl
    | with_reducible assumption
    | (with_reducible apply within_ite <;> intro _)
    | (extract_lets +onlyGivenNames u
       first
       | (refine within_cut (v := u) ?_ ?_
          all_goals (first | (with_reducible intro hu; revert hu; clear_value u; intro hu) | subst u))
       | clear_value u
       | subst u)
    | (with_reducible apply within_step (modSlot_within _ _ _ _); decide)
    | split

theorem crossStrokes_within (s : State) (i : TrackIx) (t : Tracker) (old new : Pos) (rev : Bool) (time : W64) (jump : Bool) :
    Within [.inboxes, .nibs, .streams, .eic, .raises, .blotter] s (crossStrokes s i t old new rev time jump) := by
  unfold crossStrokes
  repeat' first
    | with_reducible apply within_refl
    | with_reducible assumption
    | (with_reducible apply within_ite <;> intro _)
    | (extract_lets +onlyGivenNames u
       first
       | (refine within_cut (v := u) ?_ ?_
          all_goals (first | (with_reducible intro hu; revert hu; clear_value u; intro hu) | subst u))
       | clear_value u
       | subst u)
    | (with_reducible apply forStrokes_within; intro _ _ _ _)
    | (with_reducible apply within_step (lockAngle_within _ _ _ _ _ _ _ _); decide)
    | (with_reducible apply within_step (lockEnd_within _ _ _ _ _ _); decide)
    | (with_reducible apply within_step (modSlot_within _ _ _ _); decide)
    | split

theorem predictStart_within (s : State) (n : NibIx) (k : SlotIx) (v : StrokeSlot) (i : TrackIx) :
    Within [.inboxes, .nibs, .streams, .eic, .raises, .blotter] s (predictStart s n k v i) := by
  unfold predictStart
  repeat' first
    | with_reducible apply within_refl
    | with_reducible assumption
    | (with_reducible apply within_ite <;> intro _)
    | (extract_lets +onlyGivenNames u
       first
       | (refine within_cut (v := u) ?_ ?_
          all_goals (first | (with_reducible intro hu; revert hu; clear_value u; intro hu) | subst u))
       | clear_value u
       | subst u)
    | (with_reducible apply within_step (lockAngle_within _ _ _ _ _ _ _ _); decide)
    | (with_reducible apply within_step (modSlot_within _ _ _ _); decide)
    | split

theorem predictPulseEnd_within (s : State) (n : NibIx) (k : SlotIx) (v : StrokeSlot) (i : TrackIx) :
    Within [.nibs] s (predictPulseEnd s n k v i) := by
  unfold predictPulseEnd
  repeat' first
    | with_reducible apply within_refl
    | with_reducible assumption
    | (with_reducible apply within_ite <;> intro _)
    | (extract_lets +onlyGivenNames u
       first
       | (refine within_cut (v := u) ?_ ?_
          all_goals (first | (with_reducible intro hu; revert hu; clear_value u; intro hu) | subst u))
       | clear_value u
       | subst u)
    | (with_reducible apply within_step (lockEnd_within _ _ _ _ _ _); decide)
    | split

theorem predictAll_within (s : State) :
    Within [.inboxes, .nibs, .streams, .eic, .raises, .blotter] s (predictAll s) := by
  unfold predictAll
  repeat' first
    | with_reducible apply within_refl
    | with_reducible assumption
    | (with_reducible apply within_ite <;> intro _)
    | (extract_lets +onlyGivenNames u
       first
       | (refine within_cut (v := u) ?_ ?_
          all_goals (first | (with_reducible intro hu; revert hu; clear_value u; intro hu) | subst u))
       | clear_value u
       | subst u)
    | (with_reducible apply forStrokes_within; intro _ _ _ _)
    | (with_reducible apply within_step (predictPulseEnd_within _ _ _ _ _); decide)
    | (with_reducible apply within_step (predictStart_within _ _ _ _ _); decide)
    | (with_reducible apply within_forAll; intro _ _)
    | split

theorem cancelUnlocked_within (s : State) (i : TrackIx) (st : StrokeStatus) :
    Within [.inboxes, .nibs, .streams, .eic, .raises, .blotter] s (cancelUnlocked s i st) := by
  unfold cancelUnlocked
  repeat' first
    | with_reducible apply within_refl
    | with_reducible assumption
    | (with_reducible apply within_ite <;> intro _)
    | (with_reducible apply within_step (cancelSlot_within _ _ _ _); decide)
    | (with_reducible apply forStrokes_within; intro _ _ _ _)
    | split

theorem stallPulse_within (s : State) (n : NibIx) (k : SlotIx) (v : StrokeSlot) (hold : Bool) :
    Within [.inboxes, .nibs, .streams, .eic, .raises, .blotter] s (stallPulse s n k v hold) := by
  unfold stallPulse
  repeat' first
    | with_reducible apply within_refl
    | with_reducible assumption
    | (with_reducible apply within_ite <;> intro _)
    | (extract_lets +onlyGivenNames u
       first
       | (refine within_cut (v := u) ?_ ?_
          all_goals (first | (with_reducible intro hu; revert hu; clear_value u; intro hu) | subst u))
       | clear_value u
       | subst u)
    | (with_reducible apply within_step (endStroke_within _ _ _ _ _); decide)
    | (with_reducible apply within_step (modSlot_within _ _ _ _); decide)
    | split

theorem stallPulses_within (s : State) (i : TrackIx) (hold : Bool) :
    Within [.inboxes, .nibs, .streams, .eic, .raises, .blotter] s (stallPulses s i hold) := by
  unfold stallPulses
  repeat' first
    | with_reducible apply within_refl
    | with_reducible assumption
    | (with_reducible apply within_ite <;> intro _)
    | (with_reducible apply forStrokes_within; intro _ _ _ _)
    | (with_reducible apply within_step (stallPulse_within _ _ _ _ _); decide)
    | split

end Sys2Proof.Machine
end

