-- ==== Sys2Proof/Laws/PartsEmulator.lean ====
section
/-! SUPPORT. The parts of the state that each operation of Machine/Emulator.lean can change. -/
namespace Sys2Proof.Machine

theorem raiseFbEvent_within (s : State) (b : FbIx) (bit : Nat) (angle : Word) (time : W64) :
    Within [.inboxes, .channels, .eic, .raises, .blotter] s (raiseFbEvent s b bit angle time) := by
  unfold raiseFbEvent
  repeat' first
    | with_reducible apply within_refl
    | with_reducible assumption
    | (with_reducible apply within_ite <;> intro _)
    | (extract_lets +onlyGivenNames u
       first
       | (refine within_cut (v := u) ?_ ?_
          all_goals (first | (with_reducible intro hu; revert hu; clear_value u; intro hu) | subst u))
       | clear_value u
       | subst u)
    | (with_reducible apply within_step (deliverEvent_within _ _ _ _ _); decide)
    | (with_reducible apply within_step (deliverRecord_within _ _ _ _ _ _); decide)
    | (with_reducible apply within_step (modFb_within _ _ _); decide)
    | split

theorem emuDrive_within (s : State) (b : FbIx) (old : Emulator) (t : W64) :
    Within [.nibs] s (emuDrive s b old t) := by
  unfold emuDrive
  repeat' first
    | with_reducible apply within_refl
    | with_reducible assumption
    | (with_reducible apply within_ite <;> intro _)
    | (extract_lets +onlyGivenNames u
       first
       | (refine within_cut (v := u) ?_ ?_
          all_goals (first | (with_reducible intro hu; revert hu; clear_value u; intro hu) | subst u))
       | clear_value u
       | subst u)
    | (with_reducible apply within_step (driveAt_within _ _ _ _); decide)
    | (with_reducible apply within_forAll; intro _ _)
    | split

theorem emuRebase_within (s : State) (b : FbIx) (old : Emulator) (time : W64) :
    Within [.inboxes, .nibs, .channels, .eic, .raises, .blotter] s (emuRebase s b old time) := by
  unfold emuRebase
  repeat' first
    | with_reducible apply within_refl
    | with_reducible assumption
    | (with_reducible apply within_ite <;> intro _)
    | (extract_lets +onlyGivenNames u
       first
       | (refine within_cut (v := u) ?_ ?_
          all_goals (first | (with_reducible intro hu; revert hu; clear_value u; intro hu) | subst u))
       | clear_value u
       | subst u)
    | (with_reducible apply within_step (emuDrive_within _ _ _ _); decide)
    | (with_reducible apply within_step (modEmu_within _ _ _); decide)
    | (with_reducible apply within_step (raiseFbEvent_within _ _ _ _ _); decide)
    | split

theorem emuFollow_within (s : State) (b : FbIx) (time : W64) :
    Within [.inboxes, .nibs, .channels, .eic, .raises, .blotter] s (emuFollow s b time) := by
  unfold emuFollow
  repeat' first
    | with_reducible apply within_refl
    | with_reducible assumption
    | (with_reducible apply within_ite <;> intro _)
    | (extract_lets +onlyGivenNames u
       first
       | (refine within_cut (v := u) ?_ ?_
          all_goals (first | (with_reducible intro hu; revert hu; clear_value u; intro hu) | subst u))
       | clear_value u
       | subst u)
    | (with_reducible apply within_step (emuRebase_within _ _ _ _); decide)
    | (with_reducible apply within_step (modEmu_within _ _ _); decide)
    | split

theorem emuFollowAll_within (s : State) (time : W64) :
    Within [.inboxes, .nibs, .channels, .eic, .raises, .blotter] s (emuFollowAll s time) := by
  unfold emuFollowAll
  repeat' first
    | with_reducible apply within_refl
    | with_reducible assumption
    | (with_reducible apply within_ite <;> intro _)
    | (with_reducible apply within_step (emuFollow_within _ _ _); decide)
    | (with_reducible apply within_forAll; intro _ _)
    | split

theorem emuStart_within (s : State) :
    Within [.nibs] s (emuStart s) := by
  unfold emuStart
  repeat' first
    | with_reducible apply within_refl
    | with_reducible assumption
    | (with_reducible apply within_ite <;> intro _)
    | (extract_lets +onlyGivenNames u
       first
       | (refine within_cut (v := u) ?_ ?_
          all_goals (first | (with_reducible intro hu; revert hu; clear_value u; intro hu) | subst u))
       | clear_value u
       | subst u)
    | (with_reducible apply within_step (modNib_keeps_setup _ _ _ ?hk); (case hk => first | with_reducible rfl | (simp only [setupOf]; done) | ((try dsimp only); (repeat' split) <;> (simp only [setupOf]; done))); decide)
    | (with_reducible apply within_step (modNib_within _ _ _); decide)
    | (with_reducible apply within_forAll; intro _ _)
    | split

theorem emuBegin_within (s : State) (b : FbIx) :
    Within [.nibs] s (emuBegin s b) := by
  unfold emuBegin
  repeat' first
    | with_reducible apply within_refl
    | with_reducible assumption
    | (with_reducible apply within_ite <;> intro _)
    | (extract_lets +onlyGivenNames u
       first
       | (refine within_cut (v := u) ?_ ?_
          all_goals (first | (with_reducible intro hu; revert hu; clear_value u; intro hu) | subst u))
       | clear_value u
       | subst u)
    | (with_reducible apply within_step (driveAt_within _ _ _ _); decide)
    | (with_reducible apply within_step (modNib_keeps_setup _ _ _ ?hk); (case hk => first | with_reducible rfl | (simp only [setupOf]; done) | ((try dsimp only); (repeat' split) <;> (simp only [setupOf]; done))); decide)
    | (with_reducible apply within_step (modNib_within _ _ _); decide)
    | (with_reducible apply within_forAll; intro _ _)
    | split

theorem emuStep_within (s : State) (b : FbIx) :
    Within [.inboxes, .nibs, .channels, .eic, .raises, .blotter] s (emuStep s b) := by
  unfold emuStep
  repeat' first
    | with_reducible apply within_refl
    | with_reducible assumption
    | (with_reducible apply within_ite <;> intro _)
    | (extract_lets +onlyGivenNames u
       first
       | (refine within_cut (v := u) ?_ ?_
          all_goals (first | (with_reducible intro hu; revert hu; clear_value u; intro hu) | subst u))
       | clear_value u
       | subst u)
    | (with_reducible apply within_step (emuDrive_within _ _ _ _); decide)
    | (with_reducible apply within_step (modEmu_within _ _ _); decide)
    | (with_reducible apply within_step (modFb_within _ _ _); decide)
    | (with_reducible apply within_step (raiseFbEvent_within _ _ _ _ _); decide)
    | split

theorem fbCfgErr_within (s : State) (b : FbIx) :
    Within [.inboxes, .channels, .eic, .raises, .blotter] s (fbCfgErr s b) := by
  unfold fbCfgErr
  repeat' first
    | with_reducible apply within_refl
    | with_reducible assumption
    | (with_reducible apply within_step (modFb_within _ _ _); decide)
    | (with_reducible apply within_step (raiseFbEvent_within _ _ _ _ _); decide)
    | split

theorem emuEnable_within (s : State) (b : FbIx) :
    Within [.inboxes, .nibs, .channels, .eic, .raises, .blotter] s (emuEnable s b) := by
  unfold emuEnable
  repeat' first
    | with_reducible apply within_refl
    | with_reducible assumption
    | (with_reducible apply within_ite <;> intro _)
    | (extract_lets +onlyGivenNames u
       first
       | (refine within_cut (v := u) ?_ ?_
          all_goals (first | (with_reducible intro hu; revert hu; clear_value u; intro hu) | subst u))
       | clear_value u
       | subst u)
    | (with_reducible apply within_step (emuDrive_within _ _ _ _); decide)
    | (with_reducible apply within_step (emuRebase_within _ _ _ _); decide)
    | (with_reducible apply within_step (modEmu_within _ _ _); decide)
    | split

theorem emuOff_within (s : State) (b : FbIx) :
    Within [.nibs, .channels] s (emuOff s b) := by
  unfold emuOff
  repeat' first
    | with_reducible apply within_refl
    | with_reducible assumption
    | (extract_lets +onlyGivenNames u
       first
       | (refine within_cut (v := u) ?_ ?_
          all_goals (first | (with_reducible intro hu; revert hu; clear_value u; intro hu) | subst u))
       | clear_value u
       | subst u)
    | (with_reducible apply within_step (emuDrive_within _ _ _ _); decide)
    | (with_reducible apply within_step (modEmu_within _ _ _); decide)
    | split

theorem emuReview_within (s : State) (b : FbIx) :
    Within [.inboxes, .nibs, .channels, .eic, .raises, .blotter] s (emuReview s b) := by
  unfold emuReview
  repeat' first
    | with_reducible apply within_refl
    | with_reducible assumption
    | (with_reducible apply within_ite <;> intro _)
    | (extract_lets +onlyGivenNames u
       first
       | (refine within_cut (v := u) ?_ ?_
          all_goals (first | (with_reducible intro hu; revert hu; clear_value u; intro hu) | subst u))
       | clear_value u
       | subst u)
    | (with_reducible apply within_step (emuEnable_within _ _); decide)
    | (with_reducible apply within_step (emuOff_within _ _); decide)
    | split

theorem writeEmuCtrl_within (s : State) (b : FbIx) (v : Word) :
    Within [.inboxes, .nibs, .channels, .eic, .raises, .blotter] s (writeEmuCtrl s b v) := by
  unfold writeEmuCtrl
  repeat' first
    | with_reducible apply within_refl
    | with_reducible assumption
    | (with_reducible apply within_ite <;> intro _)
    | (extract_lets +onlyGivenNames u
       first
       | (refine within_cut (v := u) ?_ ?_
          all_goals (first | (with_reducible intro hu; revert hu; clear_value u; intro hu) | subst u))
       | clear_value u
       | subst u)
    | (with_reducible apply within_step (emuReview_within _ _); decide)
    | (with_reducible apply within_step (fbCfgErr_within _ _); decide)
    | (with_reducible apply within_step (modEmu_within _ _ _); decide)
    | split

theorem writeEmuLines_within (s : State) (b : FbIx) (v : Word) :
    Within [.inboxes, .channels, .eic, .raises, .blotter] s (writeEmuLines s b v) := by
  unfold writeEmuLines
  repeat' first
    | with_reducible apply within_refl
    | with_reducible assumption
    | (with_reducible apply within_ite <;> intro _)
    | (extract_lets +onlyGivenNames u
       first
       | (refine within_cut (v := u) ?_ ?_
          all_goals (first | (with_reducible intro hu; revert hu; clear_value u; intro hu) | subst u))
       | clear_value u
       | subst u)
    | (with_reducible apply within_step (fbCfgErr_within _ _); decide)
    | (with_reducible apply within_step (modEmu_within _ _ _); decide)
    | split

end Sys2Proof.Machine
end

