-- ==== Sys2Proof/Laws/PartsTrack.lean ====
section
/-! SUPPORT. The parts of the state that each operation of Machine/Track.lean can change. -/
namespace Sys2Proof.Machine

theorem raiseTrackEvent_within (s : State) (i : TrackIx) (bit : Nat) (time : W64) :
    Within [.inboxes, .trackers, .eic, .raises, .blotter] s (raiseTrackEvent s i bit time) := by
  unfold raiseTrackEvent
  repeat' first
    | with_reducible apply within_refl
    | with_reducible assumption
    | (with_reducible apply within_ite <;> intro _)
    | (extract_lets +onlyGivenNames u
       first
       | (refine within_cut (v := u) ?_ ?_
          all_goals (first | (with_reducible intro hu; revert hu; clear_value u; intro hu) | subst u))
       | clear_value u
       | subst u)
    | (with_reducible apply within_step (deliverEvent_within _ _ _ _ _); decide)
    | (with_reducible apply within_step (deliverRecord_within _ _ _ _ _ _); decide)
    | (with_reducible apply within_step (modTrack_within _ _ _); decide)
    | split
    | (intro k hk; cases k <;> first | exact absurd (by decide) hk | exact hu _ hk | rfl | exact ⟨rfl, rfl⟩ | exact ⟨rfl, rfl, rfl, rfl⟩)

theorem trackCfgErr_within (s : State) (i : TrackIx) :
    Within [.inboxes, .trackers, .eic, .raises, .blotter] s (trackCfgErr s i) := by
  unfold trackCfgErr
  repeat' first
    | with_reducible apply within_refl
    | with_reducible assumption
    | (with_reducible apply within_step (modTrack_within _ _ _); decide)
    | (with_reducible apply within_step (raiseTrackEvent_within _ _ _ _); decide)
    | split
    | (intro k hk; cases k <;> first | exact absurd (by decide) hk | exact hu _ hk | rfl | exact ⟨rfl, rfl⟩ | exact ⟨rfl, rfl, rfl, rfl⟩)

theorem takeState_within (s : State) (i : TrackIx) (new : TrackState) :
    Within [.inboxes, .nibs, .nibSetup, .streams, .trackers, .eic, .raises, .blotter] s (takeState s i new) := by
  unfold takeState
  repeat' first
    | with_reducible apply within_refl
    | with_reducible assumption
    | (with_reducible apply within_ite <;> intro _)
    | (extract_lets +onlyGivenNames u
       first
       | (refine within_cut (v := u) ?_ ?_
          all_goals (first | (with_reducible intro hu; revert hu; clear_value u; intro hu) | subst u))
       | clear_value u
       | subst u)
    | (with_reducible apply within_step (cancelUnlocked_within _ _ _); decide)
    | (with_reducible apply within_step (leaveUnjudged_within _ _); decide)
    | (with_reducible apply within_step (modTrack_within _ _ _); decide)
    | (with_reducible apply within_step (stallPulses_within _ _ _); decide)
    | split
    | (intro k hk; cases k <;> first | exact absurd (by decide) hk | exact hu _ hk | rfl | exact ⟨rfl, rfl⟩ | exact ⟨rfl, rfl, rfl, rfl⟩)

theorem noteState_within (s : State) (i : TrackIx) (old : TrackState) (time : W64) :
    Within [.inboxes, .trackers, .eic, .raises, .blotter] s (noteState s i old time) := by
  unfold noteState
  repeat' first
    | with_reducible apply within_refl
    | with_reducible assumption
    | (with_reducible apply within_ite <;> intro _)
    | (extract_lets +onlyGivenNames u
       first
       | (refine within_cut (v := u) ?_ ?_
          all_goals (first | (with_reducible intro hu; revert hu; clear_value u; intro hu) | subst u))
       | clear_value u
       | subst u)
    | (with_reducible apply within_step (raiseTrackEvent_within _ _ _ _); decide)
    | split

theorem enterState_within (s : State) (i : TrackIx) (new : TrackState) (time : W64) :
    Within [.inboxes, .nibs, .nibSetup, .streams, .trackers, .eic, .raises, .blotter] s (enterState s i new time) := by
  unfold enterState
  repeat' first
    | with_reducible apply within_refl
    | with_reducible assumption
    | (with_reducible apply within_step (noteState_within _ _ _ _); decide)
    | (with_reducible apply within_step (takeState_within _ _ _); decide)

theorem turnTo_within (s : State) (i : TrackIx) (rev : Bool) :
    Within [.trackers] s (turnTo s i rev) := by
  unfold turnTo
  repeat' first
    | with_reducible apply within_refl
    | with_reducible assumption
    | (with_reducible apply within_ite <;> intro _)
    | (extract_lets +onlyGivenNames u
       first
       | (refine within_cut (v := u) ?_ ?_
          all_goals (first | (with_reducible intro hu; revert hu; clear_value u; intro hu) | subst u))
       | clear_value u
       | subst u)
    | (with_reducible apply within_step (modTrack_within _ _ _); decide)
    | split
    | (intro k hk; cases k <;> first | exact absurd (by decide) hk | exact hu _ hk | rfl | exact ⟨rfl, rfl⟩ | exact ⟨rfl, rfl, rfl, rfl⟩)

theorem noteTurn_within (s : State) (i : TrackIx) (t : Tracker) (time : W64) :
    Within [.inboxes, .trackers, .eic, .raises, .blotter] s (noteTurn s i t time) := by
  unfold noteTurn
  repeat' first
    | with_reducible apply within_refl
    | with_reducible assumption
    | (with_reducible apply within_ite <;> intro _)
    | (extract_lets +onlyGivenNames u
       first
       | (refine within_cut (v := u) ?_ ?_
          all_goals (first | (with_reducible intro hu; revert hu; clear_value u; intro hu) | subst u))
       | clear_value u
       | subst u)
    | (with_reducible apply within_step (raiseTrackEvent_within _ _ _ _); decide)
    | split

theorem setDirection_within (s : State) (i : TrackIx) (rev : Bool) (time : W64) :
    Within [.inboxes, .trackers, .eic, .raises, .blotter] s (setDirection s i rev time) := by
  unfold setDirection
  repeat' first
    | with_reducible apply within_refl
    | with_reducible assumption
    | (with_reducible apply within_step (noteTurn_within _ _ _ _); decide)
    | (with_reducible apply within_step (turnTo_within _ _ _); decide)

theorem followOne_within (s : State) (i : TrackIx) (time : W64) :
    Within [.inboxes, .nibs, .nibSetup, .streams, .trackers, .eic, .raises, .blotter] s (followOne s i time) := by
  unfold followOne
  repeat' first
    | with_reducible apply within_refl
    | with_reducible assumption
    | (with_reducible apply within_ite <;> intro _)
    | (extract_lets +onlyGivenNames u
       first
       | (refine within_cut (v := u) ?_ ?_
          all_goals (first | (with_reducible intro hu; revert hu; clear_value u; intro hu) | subst u))
       | clear_value u
       | subst u)
    | (with_reducible apply within_step (enterState_within _ _ _ _); decide)
    | (with_reducible apply within_step (setDirection_within _ _ _ _); decide)
    | split

theorem followMasters_within (s : State) (time : W64) :
    Within [.inboxes, .nibs, .nibSetup, .streams, .trackers, .eic, .raises, .blotter] s (followMasters s time) := by
  unfold followMasters
  repeat' first
    | with_reducible apply within_refl
    | with_reducible assumption
    | (with_reducible apply within_ite <;> intro _)
    | (with_reducible apply within_step (followOne_within _ _ _); decide)
    | (with_reducible apply within_forAll; intro _ _)
    | split

theorem logPos_within (s : State) (i : TrackIx) :
    Within [.trackers] s (logPos s i) := by
  unfold logPos
  repeat' first
    | with_reducible apply within_refl
    | with_reducible assumption
    | (extract_lets +onlyGivenNames u
       first
       | (refine within_cut (v := u) ?_ ?_
          all_goals (first | (with_reducible intro hu; revert hu; clear_value u; intro hu) | subst u))
       | clear_value u
       | subst u)
    | (with_reducible apply within_step (modTrack_within _ _ _); decide)
    | split
    | (intro k hk; cases k <;> first | exact absurd (by decide) hk | exact hu _ hk | rfl | exact ⟨rfl, rfl⟩ | exact ⟨rfl, rfl, rfl, rfl⟩)

theorem trackMoved_within (before : State) (s : State) (time : W64) (jump : Bool) :
    Within [.inboxes, .nibs, .streams, .trackers, .channels, .eic, .raises, .blotter] s (trackMoved before s time jump) := by
  unfold trackMoved
  repeat' first
    | with_reducible apply within_refl
    | with_reducible assumption
    | (with_reducible apply within_ite <;> intro _)
    | (extract_lets +onlyGivenNames u
       first
       | (refine within_cut (v := u) ?_ ?_
          all_goals (first | (with_reducible intro hu; revert hu; clear_value u; intro hu) | subst u))
       | clear_value u
       | subst u)
    | (with_reducible apply within_step (crossStrokes_within _ _ _ _ _ _ _ _); decide)
    | (with_reducible apply within_step (emuFollowAll_within _ _); decide)
    | (with_reducible apply within_step (logPos_within _ _); decide)
    | (with_reducible apply within_step (raiseTrackEvent_within _ _ _ _); decide)
    | (with_reducible apply within_forAll; intro _ _)
    | split

theorem trackChanged_within (before : State) (s : State) (time : W64) (jump : Bool) :
    Within [.inboxes, .nibs, .nibSetup, .streams, .trackers, .channels, .eic, .raises, .blotter] s (trackChanged before s time jump) := by
  unfold trackChanged
  repeat' first
    | with_reducible apply within_refl
    | with_reducible assumption
    | (with_reducible apply within_step (followMasters_within _ _); decide)
    | (with_reducible apply within_step (trackMoved_within _ _ _ _); decide)

theorem phaseReference_within (s : State) (i : TrackIx) (time : W64) :
    Within [.inboxes, .trackers, .eic, .raises, .blotter] s (phaseReference s i time) := by
  unfold phaseReference
  repeat' first
    | with_reducible apply within_refl
    | with_reducible assumption
    | (with_reducible apply within_ite <;> intro _)
    | (extract_lets +onlyGivenNames u
       first
       | (refine within_cut (v := u) ?_ ?_
          all_goals (first | (with_reducible intro hu; revert hu; clear_value u; intro hu) | subst u))
       | clear_value u
       | subst u)
    | (with_reducible apply within_step (modTrack_within _ _ _); decide)
    | (with_reducible apply within_step (raiseTrackEvent_within _ _ _ _); decide)
    | (with_reducible apply within_forAll; intro _ _)
    | split
    | (intro k hk; cases k <;> first | exact absurd (by decide) hk | exact hu _ hk | rfl | exact ⟨rfl, rfl⟩ | exact ⟨rfl, rfl, rfl, rfl⟩)

theorem learnTooth_within (s : State) (i : TrackIx) (entry : Nat) (time : W64) :
    Within [.inboxes, .trackers, .eic, .raises, .blotter] s (learnTooth s i entry time) := by
  unfold learnTooth
  repeat' first
    | with_reducible apply within_refl
    | with_reducible assumption
    | (with_reducible apply within_ite <;> intro _)
    | (extract_lets +onlyGivenNames u
       first
       | (refine within_cut (v := u) ?_ ?_
          all_goals (first | (with_reducible intro hu; revert hu; clear_value u; intro hu) | subst u))
       | clear_value u
       | subst u)
    | (with_reducible apply within_step (modTrack_within _ _ _); decide)
    | (with_reducible apply within_step (raiseTrackEvent_within _ _ _ _); decide)
    | split
    | (intro k hk; cases k <;> first | exact absurd (by decide) hk | exact hu _ hk | rfl | exact ⟨rfl, rfl⟩ | exact ⟨rfl, rfl, rfl, rfl⟩)

theorem spoilLearning_within (s : State) (i : TrackIx) :
    Within [.trackers] s (spoilLearning s i) := by
  unfold spoilLearning
  repeat' first
    | with_reducible apply within_refl
    | with_reducible assumption
    | (with_reducible apply within_step (modTrack_within _ _ _); decide)
    | split
    | (intro k hk; cases k <;> first | exact absurd (by decide) hk | exact hu _ hk | rfl | exact ⟨rfl, rfl⟩ | exact ⟨rfl, rfl, rfl, rfl⟩)

theorem discardPulse_within (s : State) (i : TrackIx) (time : W64) :
    Within [.inboxes, .nibs, .nibSetup, .trackers, .eic, .raises, .blotter] s (discardPulse s i time) := by
  unfold discardPulse
  repeat' first
    | with_reducible apply within_refl
    | with_reducible assumption
    | (extract_lets +onlyGivenNames u
       first
       | (refine within_cut (v := u) ?_ ?_
          all_goals (first | (with_reducible intro hu; revert hu; clear_value u; intro hu) | subst u))
       | clear_value u
       | subst u)
    | (with_reducible apply within_step (modTrack_within _ _ _); decide)
    | (with_reducible apply within_step (noteDoubt_within _ _); decide)
    | (with_reducible apply within_step (raiseTrackEvent_within _ _ _ _); decide)
    | (with_reducible apply within_step (spoilLearning_within _ _); decide)
    | split
    | (intro k hk; cases k <;> first | exact absurd (by decide) hk | exact hu _ hk | rfl | exact ⟨rfl, rfl⟩ | exact ⟨rfl, rfl, rfl, rfl⟩)

theorem noteResync_within (s : State) (i : TrackIx) (time : W64) :
    Within [.inboxes, .trackers, .eic, .raises, .blotter] s (noteResync s i time) := by
  unfold noteResync
  repeat' first
    | with_reducible apply within_refl
    | with_reducible assumption
    | (with_reducible apply within_step (modTrack_within _ _ _); decide)
    | (with_reducible apply within_step (raiseTrackEvent_within _ _ _ _); decide)
    | (with_reducible apply within_step (spoilLearning_within _ _); decide)
    | split
    | (intro k hk; cases k <;> first | exact absurd (by decide) hk | exact hu _ hk | rfl | exact ⟨rfl, rfl⟩ | exact ⟨rfl, rfl, rfl, rfl⟩)

theorem noteError_within (s : State) (i : TrackIx) (err : Word) (time : W64) :
    Within [.inboxes, .trackers, .eic, .raises, .blotter] s (noteError s i err time) := by
  unfold noteError
  repeat' first
    | with_reducible apply within_refl
    | with_reducible assumption
    | (with_reducible apply within_ite <;> intro _)
    | (extract_lets +onlyGivenNames u
       first
       | (refine within_cut (v := u) ?_ ?_
          all_goals (first | (with_reducible intro hu; revert hu; clear_value u; intro hu) | subst u))
       | clear_value u
       | subst u)
    | (with_reducible apply within_step (modTrack_within _ _ _); decide)
    | (with_reducible apply within_step (raiseTrackEvent_within _ _ _ _); decide)
    | split
    | (intro k hk; cases k <;> first | exact absurd (by decide) hk | exact hu _ hk | rfl | exact ⟨rfl, rfl⟩ | exact ⟨rfl, rfl, rfl, rfl⟩)

theorem acceptSynced_within (s : State) (i : TrackIx) (x : ToothIn) :
    Within [.inboxes, .nibs, .nibSetup, .streams, .trackers, .channels, .eic, .raises, .blotter] s (acceptSynced s i x) := by
  unfold acceptSynced
  repeat' first
    | with_reducible apply within_refl
    | with_reducible assumption
    | (with_reducible apply within_ite <;> intro _)
    | (extract_lets +onlyGivenNames u
       first
       | (refine within_cut (v := u) ?_ ?_
          all_goals (first | (with_reducible intro hu; revert hu; clear_value u; intro hu) | subst u))
       | clear_value u
       | subst u)
    | (with_reducible apply within_step (enterState_within _ _ _ _); decide)
    | (with_reducible apply within_step (judgeStrokes_within _ _ _ _ _); decide)
    | (with_reducible apply within_step (learnTooth_within _ _ _ _); decide)
    | (with_reducible apply within_step (modTrack_within _ _ _); decide)
    | (with_reducible apply within_step (noteDoubt_within _ _); decide)
    | (with_reducible apply within_step (noteEntry_within _ _ _ _ _); decide)
    | (with_reducible apply within_step (noteError_within _ _ _ _); decide)
    | (with_reducible apply within_step (noteResync_within _ _ _); decide)
    | (with_reducible apply within_step (phaseReference_within _ _ _); decide)
    | (with_reducible apply within_step (raiseTrackEvent_within _ _ _ _); decide)
    | (with_reducible apply within_step (spoilLearning_within _ _); decide)
    | (with_reducible apply within_step (trackChanged_within _ _ _ _); decide)
    | split
    | (intro k hk; cases k <;> first | exact absurd (by decide) hk | exact hu _ hk | rfl | exact ⟨rfl, rfl⟩ | exact ⟨rfl, rfl, rfl, rfl⟩)

theorem syncAt_within (s : State) (i : TrackIx) (r : Nat) (time : W64) :
    Within [.inboxes, .nibs, .nibSetup, .streams, .trackers, .channels, .eic, .raises, .blotter] s (syncAt s i r time) := by
  unfold syncAt
  repeat' first
    | with_reducible apply within_refl
    | with_reducible assumption
    | (with_reducible apply within_ite <;> intro _)
    | (extract_lets +onlyGivenNames u
       first
       | (refine within_cut (v := u) ?_ ?_
          all_goals (first | (with_reducible intro hu; revert hu; clear_value u; intro hu) | subst u))
       | clear_value u
       | subst u)
    | (with_reducible apply within_step (enterState_within _ _ _ _); decide)
    | (with_reducible apply within_step (modTrack_within _ _ _); decide)
    | (with_reducible apply within_step (trackChanged_within _ _ _ _); decide)
    | split

theorem acceptCounting_within (s : State) (i : TrackIx) (x : ToothIn) :
    Within [.inboxes, .nibs, .nibSetup, .streams, .trackers, .channels, .eic, .raises, .blotter] s (acceptCounting s i x) := by
  unfold acceptCounting
  repeat' first
    | with_reducible apply within_refl
    | with_reducible assumption
    | (with_reducible apply within_ite <;> intro _)
    | (extract_lets +onlyGivenNames u
       first
       | (refine within_cut (v := u) ?_ ?_
          all_goals (first | (with_reducible intro hu; revert hu; clear_value u; intro hu) | subst u))
       | clear_value u
       | subst u)
    | (with_reducible apply within_step (modTrack_within _ _ _); decide)
    | (with_reducible apply within_step (phaseReference_within _ _ _); decide)
    | (with_reducible apply within_step (syncAt_within _ _ _ _); decide)
    | split
    | (intro k hk; cases k <;> first | exact absurd (by decide) hk | exact hu _ hk | rfl | exact ⟨rfl, rfl⟩ | exact ⟨rfl, rfl, rfl, rfl⟩)

theorem acceptTooth_within (s : State) (i : TrackIx) (x : ToothIn) :
    Within [.inboxes, .nibs, .nibSetup, .streams, .trackers, .channels, .eic, .raises, .blotter] s (acceptTooth s i x) := by
  unfold acceptTooth
  repeat' first
    | with_reducible apply within_refl
    | with_reducible assumption
    | (with_reducible apply within_ite <;> intro _)
    | (extract_lets +onlyGivenNames u
       first
       | (refine within_cut (v := u) ?_ ?_
          all_goals (first | (with_reducible intro hu; revert hu; clear_value u; intro hu) | subst u))
       | clear_value u
       | subst u)
    | (with_reducible apply within_step (acceptCounting_within _ _ _); decide)
    | (with_reducible apply within_step (acceptSynced_within _ _ _); decide)
    | (with_reducible apply within_step (enterState_within _ _ _ _); decide)
    | (with_reducible apply within_step (modTrack_within _ _ _); decide)
    | (with_reducible apply within_step (noteState_within _ _ _ _); decide)
    | (with_reducible apply within_step (takeState_within _ _ _); decide)
    | (with_reducible apply within_step (trackChanged_within _ _ _ _); decide)
    | split
    | (intro k hk; cases k <;> first | exact absurd (by decide) hk | exact hu _ hk | rfl | exact ⟨rfl, rfl⟩ | exact ⟨rfl, rfl, rfl, rfl⟩)

theorem processPulse_within (s : State) (i : TrackIx) (x : ToothIn) :
    Within [.inboxes, .nibs, .nibSetup, .streams, .trackers, .channels, .eic, .raises, .blotter] s (processPulse s i x) := by
  unfold processPulse
  repeat' first
    | with_reducible apply within_refl
    | with_reducible assumption
    | (with_reducible apply within_ite <;> intro _)
    | (extract_lets +onlyGivenNames u
       first
       | (refine within_cut (v := u) ?_ ?_
          all_goals (first | (with_reducible intro hu; revert hu; clear_value u; intro hu) | subst u))
       | clear_value u
       | subst u)
    | (with_reducible apply within_step (acceptTooth_within _ _ _); decide)
    | (with_reducible apply within_step (discardPulse_within _ _ _); decide)
    | (with_reducible apply within_step (enterState_within _ _ _ _); decide)
    | (with_reducible apply within_step (noteTurn_within _ _ _ _); decide)
    | (with_reducible apply within_step (trackChanged_within _ _ _ _); decide)
    | (with_reducible apply within_step (turnTo_within _ _ _); decide)
    | split

theorem noteMissing_within (s : State) (i : TrackIx) (time : W64) :
    Within [.inboxes, .trackers, .eic, .raises, .blotter] s (noteMissing s i time) := by
  unfold noteMissing
  repeat' first
    | with_reducible apply within_refl
    | with_reducible assumption
    | (with_reducible apply within_ite <;> intro _)
    | (extract_lets +onlyGivenNames u
       first
       | (refine within_cut (v := u) ?_ ?_
          all_goals (first | (with_reducible intro hu; revert hu; clear_value u; intro hu) | subst u))
       | clear_value u
       | subst u)
    | (with_reducible apply within_step (modTrack_within _ _ _); decide)
    | (with_reducible apply within_step (raiseTrackEvent_within _ _ _ _); decide)
    | split
    | (intro k hk; cases k <;> first | exact absurd (by decide) hk | exact hu _ hk | rfl | exact ⟨rfl, rfl⟩ | exact ⟨rfl, rfl, rfl, rfl⟩)

theorem processCount_within (s : State) (i : TrackIx) (x : ToothIn) (p : W64) :
    Within [.inboxes, .nibs, .nibSetup, .streams, .trackers, .channels, .eic, .raises, .blotter] s (processCount s i x p) := by
  unfold processCount
  repeat' first
    | with_reducible apply within_refl
    | with_reducible assumption
    | (with_reducible apply within_ite <;> intro _)
    | (extract_lets +onlyGivenNames u
       first
       | (refine within_cut (v := u) ?_ ?_
          all_goals (first | (with_reducible intro hu; revert hu; clear_value u; intro hu) | subst u))
       | clear_value u
       | subst u)
    | (with_reducible apply within_step (modTrack_within _ _ _); decide)
    | (with_reducible apply within_step (noteMissing_within _ _ _); decide)
    | (with_reducible apply within_step (noteState_within _ _ _ _); decide)
    | (with_reducible apply within_step (noteTurn_within _ _ _ _); decide)
    | (with_reducible apply within_step (takeState_within _ _ _); decide)
    | (with_reducible apply within_step (trackChanged_within _ _ _ _); decide)
    | (with_reducible apply within_step (turnTo_within _ _ _); decide)
    | split
    | (intro k hk; cases k <;> first | exact absurd (by decide) hk | exact hu _ hk | rfl | exact ⟨rfl, rfl⟩ | exact ⟨rfl, rfl, rfl, rfl⟩)

theorem processReference_within (s : State) (i : TrackIx) (p : W64) (time : W64) :
    Within [.inboxes, .nibs, .nibSetup, .streams, .trackers, .channels, .eic, .raises, .blotter] s (processReference s i p time) := by
  unfold processReference
  repeat' first
    | with_reducible apply within_refl
    | with_reducible assumption
    | (with_reducible apply within_ite <;> intro _)
    | (extract_lets +onlyGivenNames u
       first
       | (refine within_cut (v := u) ?_ ?_
          all_goals (first | (with_reducible intro hu; revert hu; clear_value u; intro hu) | subst u))
       | clear_value u
       | subst u)
    | (with_reducible apply within_step (enterState_within _ _ _ _); decide)
    | (with_reducible apply within_step (modTrack_within _ _ _); decide)
    | (with_reducible apply within_step (noteError_within _ _ _ _); decide)
    | (with_reducible apply within_step (noteResync_within _ _ _); decide)
    | (with_reducible apply within_step (phaseReference_within _ _ _); decide)
    | (with_reducible apply within_step (trackChanged_within _ _ _ _); decide)
    | split
    | (intro k hk; cases k <;> first | exact absurd (by decide) hk | exact hu _ hk | rfl | exact ⟨rfl, rfl⟩ | exact ⟨rfl, rfl, rfl, rfl⟩)

end Sys2Proof.Machine
end

