-- ==== Sys2Proof/Laws/PartsTracker.lean ====
section
/-! SUPPORT. The parts of the state that each operation of Machine/Tracker.lean can change. -/
namespace Sys2Proof.Machine

theorem pushTooth_within (s : State) (i : TrackIx) (x : ToothIn) :
    Within [.trackers] s (pushTooth s i x) := by
  unfold pushTooth
  repeat' first
    | with_reducible apply within_refl
    | with_reducible assumption
    | (with_reducible apply within_step (modTrack_within _ _ _); decide)
    | split
    | (intro k hk; cases k <;> first | exact absurd (by decide) hk | exact hu _ hk | rfl | exact ⟨rfl, rfl⟩ | exact ⟨rfl, rfl, rfl, rfl⟩)

theorem edgeToTracker_within (s : State) (i : TrackIx) (rising : Bool) (time : W64) :
    Within [.trackers] s (edgeToTracker s i rising time) := by
  unfold edgeToTracker
  repeat' first
    | with_reducible apply within_refl
    | with_reducible assumption
    | (with_reducible apply within_ite <;> intro _)
    | (extract_lets +onlyGivenNames u
       first
       | (refine within_cut (v := u) ?_ ?_
          all_goals (first | (with_reducible intro hu; revert hu; clear_value u; intro hu) | subst u))
       | clear_value u
       | subst u)
    | (with_reducible apply within_step (modTrack_within _ _ _); decide)
    | (with_reducible apply within_step (pushTooth_within _ _ _); decide)
    | split
    | (intro k hk; cases k <;> first | exact absurd (by decide) hk | exact hu _ hk | rfl | exact ⟨rfl, rfl⟩ | exact ⟨rfl, rfl, rfl, rfl⟩)

theorem edgeToTrackers_within (s : State) (n : NibIx) (rising : Bool) (time : W64) :
    Within [.trackers] s (edgeToTrackers s n rising time) := by
  unfold edgeToTrackers
  repeat' first
    | with_reducible apply within_refl
    | with_reducible assumption
    | (with_reducible apply within_ite <;> intro _)
    | (extract_lets +onlyGivenNames u
       first
       | (refine within_cut (v := u) ?_ ?_
          all_goals (first | (with_reducible intro hu; revert hu; clear_value u; intro hu) | subst u))
       | clear_value u
       | subst u)
    | (with_reducible apply within_step (edgeToTracker_within _ _ _ _); decide)
    | (with_reducible apply within_forAll; intro _ _)
    | split

theorem externalEvent_within (s : State) (src : Nat) (fits : Tracker → Bool) (time : W64) :
    Within [.trackers] s (externalEvent s src fits time) := by
  unfold externalEvent
  repeat' first
    | with_reducible apply within_refl
    | with_reducible assumption
    | (with_reducible apply within_ite <;> intro _)
    | (extract_lets +onlyGivenNames u
       first
       | (refine within_cut (v := u) ?_ ?_
          all_goals (first | (with_reducible intro hu; revert hu; clear_value u; intro hu) | subst u))
       | clear_value u
       | subst u)
    | (with_reducible apply within_step (modTrack_within _ _ _); decide)
    | (with_reducible apply within_step (pushTooth_within _ _ _); decide)
    | (with_reducible apply within_forAll; intro _ _)
    | split
    | (intro k hk; cases k <;> first | exact absurd (by decide) hk | exact hu _ hk | rfl | exact ⟨rfl, rfl⟩ | exact ⟨rfl, rfl, rfl, rfl⟩)

theorem causeReflex_within (s : State) (src : Nat) (quals : List Nat) :
    Within [.reflexDue] s (causeReflex s src quals) := by
  unfold causeReflex
  repeat' first
    | with_reducible apply within_refl
    | with_reducible assumption
    | (extract_lets +onlyGivenNames u
       first
       | (refine within_cut (v := u) ?_ ?_
          all_goals (first | (with_reducible intro hu; revert hu; clear_value u; intro hu) | subst u))
       | clear_value u
       | subst u)
    | split
    | (intro k hk; cases k <;> first | exact absurd (by decide) hk | exact hu _ hk | rfl | exact ⟨rfl, rfl⟩ | exact ⟨rfl, rfl, rfl, rfl⟩)

theorem processNext_within (s : State) (i : TrackIx) :
    Within [.inboxes, .nibs, .nibSetup, .streams, .trackers, .channels, .eic, .raises, .blotter] s (processNext s i) := by
  unfold processNext
  repeat' first
    | with_reducible apply within_refl
    | with_reducible assumption
    | (with_reducible apply within_ite <;> intro _)
    | (extract_lets +onlyGivenNames u
       first
       | (refine within_cut (v := u) ?_ ?_
          all_goals (first | (with_reducible intro hu; revert hu; clear_value u; intro hu) | subst u))
       | clear_value u
       | subst u)
    | (with_reducible apply within_step (modTrack_within _ _ _); decide)
    | (with_reducible apply within_step (processCount_within _ _ _ _); decide)
    | (with_reducible apply within_step (processPulse_within _ _ _); decide)
    | (with_reducible apply within_step (processReference_within _ _ _ _); decide)
    | split
    | (intro k hk; cases k <;> first | exact absurd (by decide) hk | exact hu _ hk | rfl | exact ⟨rfl, rfl⟩ | exact ⟨rfl, rfl, rfl, rfl⟩)

theorem microStep_within (s : State) (i : TrackIx) :
    Within [.inboxes, .nibs, .nibSetup, .streams, .trackers, .channels, .eic, .raises, .blotter] s (microStep s i) := by
  unfold microStep
  repeat' first
    | with_reducible apply within_refl
    | with_reducible assumption
    | (extract_lets +onlyGivenNames u
       first
       | (refine within_cut (v := u) ?_ ?_
          all_goals (first | (with_reducible intro hu; revert hu; clear_value u; intro hu) | subst u))
       | clear_value u
       | subst u)
    | (with_reducible apply within_step (modTrack_within _ _ _); decide)
    | (with_reducible apply within_step (trackChanged_within _ _ _ _); decide)
    | split
    | (intro k hk; cases k <;> first | exact absurd (by decide) hk | exact hu _ hk | rfl | exact ⟨rfl, rfl⟩ | exact ⟨rfl, rfl, rfl, rfl⟩)

theorem synthesize_within (s : State) (i : TrackIx) :
    Within [.inboxes, .nibs, .nibSetup, .streams, .trackers, .channels, .eic, .raises, .blotter] s (synthesize s i) := by
  unfold synthesize
  repeat' first
    | with_reducible apply within_refl
    | with_reducible assumption
    | (with_reducible apply within_ite <;> intro _)
    | (extract_lets +onlyGivenNames u
       first
       | (refine within_cut (v := u) ?_ ?_
          all_goals (first | (with_reducible intro hu; revert hu; clear_value u; intro hu) | subst u))
       | clear_value u
       | subst u)
    | (with_reducible apply within_step (enterState_within _ _ _ _); decide)
    | (with_reducible apply within_step (modTrack_within _ _ _); decide)
    | (with_reducible apply within_step (noteDoubt_within _ _); decide)
    | (with_reducible apply within_step (noteEntry_within _ _ _ _ _); decide)
    | (with_reducible apply within_step (raiseTrackEvent_within _ _ _ _); decide)
    | (with_reducible apply within_step (spoilLearning_within _ _); decide)
    | (with_reducible apply within_step (trackChanged_within _ _ _ _); decide)
    | split
    | (intro k hk; cases k <;> first | exact absurd (by decide) hk | exact hu _ hk | rfl | exact ⟨rfl, rfl⟩ | exact ⟨rfl, rfl, rfl, rfl⟩)

theorem dropUnsynced_within (s : State) (i : TrackIx) (all : Bool) :
    Within [.inboxes, .nibs, .nibSetup, .streams, .trackers, .channels, .eic, .raises, .blotter] s (dropUnsynced s i all) := by
  unfold dropUnsynced
  repeat' first
    | with_reducible apply within_refl
    | with_reducible assumption
    | (with_reducible apply within_ite <;> intro _)
    | (extract_lets +onlyGivenNames u
       first
       | (refine within_cut (v := u) ?_ ?_
          all_goals (first | (with_reducible intro hu; revert hu; clear_value u; intro hu) | subst u))
       | clear_value u
       | subst u)
    | (with_reducible apply within_step (enterState_within _ _ _ _); decide)
    | (with_reducible apply within_step (modTrack_within _ _ _); decide)
    | (with_reducible apply within_step (trackChanged_within _ _ _ _); decide)
    | split
    | (intro k hk; cases k <;> first | exact absurd (by decide) hk | exact hu _ hk | rfl | exact ⟨rfl, rfl⟩ | exact ⟨rfl, rfl, rfl, rfl⟩)

theorem trackOn_within (s : State) (i : TrackIx) :
    Within [.inboxes, .nibs, .nibSetup, .streams, .trackers, .channels, .eic, .raises, .blotter] s (trackOn s i) := by
  unfold trackOn
  repeat' first
    | with_reducible apply within_refl
    | with_reducible assumption
    | (extract_lets +onlyGivenNames u
       first
       | (refine within_cut (v := u) ?_ ?_
          all_goals (first | (with_reducible intro hu; revert hu; clear_value u; intro hu) | subst u))
       | clear_value u
       | subst u)
    | (with_reducible apply within_step (modTrack_within _ _ _); decide)
    | (with_reducible apply within_step (trackChanged_within _ _ _ _); decide)
    | split
    | (intro k hk; cases k <;> first | exact absurd (by decide) hk | exact hu _ hk | rfl | exact ⟨rfl, rfl⟩ | exact ⟨rfl, rfl, rfl, rfl⟩)

theorem trackOff_within (s : State) (i : TrackIx) :
    Within [.inboxes, .nibs, .nibSetup, .streams, .trackers, .channels, .eic, .raises, .blotter] s (trackOff s i) := by
  unfold trackOff
  repeat' first
    | with_reducible apply within_refl
    | with_reducible assumption
    | (extract_lets +onlyGivenNames u
       first
       | (refine within_cut (v := u) ?_ ?_
          all_goals (first | (with_reducible intro hu; revert hu; clear_value u; intro hu) | subst u))
       | clear_value u
       | subst u)
    | (with_reducible apply within_step (cancelUnlocked_within _ _ _); decide)
    | (with_reducible apply within_step (enterState_within _ _ _ _); decide)
    | (with_reducible apply within_step (modTrack_within _ _ _); decide)
    | (with_reducible apply within_step (trackChanged_within _ _ _ _); decide)
    | split
    | (intro k hk; cases k <;> first | exact absurd (by decide) hk | exact hu _ hk | rfl | exact ⟨rfl, rfl⟩ | exact ⟨rfl, rfl, rfl, rfl⟩)

theorem trackReview_within (s : State) (i : TrackIx) :
    Within [.inboxes, .nibs, .nibSetup, .streams, .trackers, .channels, .eic, .raises, .blotter] s (trackReview s i) := by
  unfold trackReview
  repeat' first
    | with_reducible apply within_refl
    | with_reducible assumption
    | (with_reducible apply within_ite <;> intro _)
    | (extract_lets +onlyGivenNames u
       first
       | (refine within_cut (v := u) ?_ ?_
          all_goals (first | (with_reducible intro hu; revert hu; clear_value u; intro hu) | subst u))
       | clear_value u
       | subst u)
    | (with_reducible apply within_step (modTrack_within _ _ _); decide)
    | (with_reducible apply within_step (trackCfgErr_within _ _); decide)
    | (with_reducible apply within_step (trackOff_within _ _); decide)
    | (with_reducible apply within_step (trackOn_within _ _); decide)
    | split
    | (intro k hk; cases k <;> first | exact absurd (by decide) hk | exact hu _ hk | rfl | exact ⟨rfl, rfl⟩ | exact ⟨rfl, rfl, rfl, rfl⟩)

theorem processWaiting_within (s : State) (i : TrackIx) :
    Within [.inboxes, .nibs, .nibSetup, .streams, .trackers, .channels, .eic, .raises, .blotter] s (processWaiting s i) := by
  unfold processWaiting
  repeat' first
    | with_reducible apply within_refl
    | with_reducible assumption
    | (with_reducible apply within_step (processNext_within _ _); decide)
    | (with_reducible apply within_forAll; intro _ _)
    | split

theorem resync_within (s : State) (i : TrackIx) :
    Within [.inboxes, .nibs, .nibSetup, .streams, .trackers, .channels, .eic, .raises, .blotter] s (resync s i) := by
  unfold resync
  repeat' first
    | with_reducible apply within_refl
    | with_reducible assumption
    | (with_reducible apply within_ite <;> intro _)
    | (extract_lets +onlyGivenNames u
       first
       | (refine within_cut (v := u) ?_ ?_
          all_goals (first | (with_reducible intro hu; revert hu; clear_value u; intro hu) | subst u))
       | clear_value u
       | subst u)
    | (with_reducible apply within_step (dropUnsynced_within _ _ _); decide)
    | (with_reducible apply within_step (enterState_within _ _ _ _); decide)
    | (with_reducible apply within_step (modTrack_within _ _ _); decide)
    | (with_reducible apply within_step (processWaiting_within _ _); decide)
    | (with_reducible apply within_step (trackChanged_within _ _ _ _); decide)
    | split
    | (intro k hk; cases k <;> first | exact absurd (by decide) hk | exact hu _ hk | rfl | exact ⟨rfl, rfl⟩ | exact ⟨rfl, rfl, rfl, rfl⟩)

theorem writeTrackCtrl_within (s : State) (i : TrackIx) (v : Word) :
    Within [.inboxes, .nibs, .nibSetup, .streams, .trackers, .channels, .eic, .raises, .blotter] s (writeTrackCtrl s i v) := by
  unfold writeTrackCtrl
  repeat' first
    | with_reducible apply within_refl
    | with_reducible assumption
    | (with_reducible apply within_ite <;> intro _)
    | (extract_lets +onlyGivenNames u
       first
       | (refine within_cut (v := u) ?_ ?_
          all_goals (first | (with_reducible intro hu; revert hu; clear_value u; intro hu) | subst u))
       | clear_value u
       | subst u)
    | (with_reducible apply within_step (modTrack_within _ _ _); decide)
    | (with_reducible apply within_step (resync_within _ _); decide)
    | (with_reducible apply within_step (trackCfgErr_within _ _); decide)
    | (with_reducible apply within_step (trackReview_within _ _); decide)
    | split
    | (intro k hk; cases k <;> first | exact absurd (by decide) hk | exact hu _ hk | rfl | exact ⟨rfl, rfl⟩ | exact ⟨rfl, rfl, rfl, rfl⟩)

theorem wantGearing_within (s : State) (i : TrackIx) :
    Within [.trackers] s (wantGearing s i) := by
  unfold wantGearing
  repeat' first
    | with_reducible apply within_refl
    | with_reducible assumption
    | (with_reducible apply within_step (modTrack_within _ _ _); decide)
    | split
    | (intro k hk; cases k <;> first | exact absurd (by decide) hk | exact hu _ hk | rfl | exact ⟨rfl, rfl⟩ | exact ⟨rfl, rfl, rfl, rfl⟩)

theorem writeSlaveCtrl_within (s : State) (i : TrackIx) (v : Word) :
    Within [.inboxes, .trackers, .eic, .raises, .blotter] s (writeSlaveCtrl s i v) := by
  unfold writeSlaveCtrl
  repeat' first
    | with_reducible apply within_refl
    | with_reducible assumption
    | (with_reducible apply within_ite <;> intro _)
    | (extract_lets +onlyGivenNames u
       first
       | (refine within_cut (v := u) ?_ ?_
          all_goals (first | (with_reducible intro hu; revert hu; clear_value u; intro hu) | subst u))
       | clear_value u
       | subst u)
    | (with_reducible apply within_step (modTrack_within _ _ _); decide)
    | (with_reducible apply within_step (trackCfgErr_within _ _); decide)
    | (with_reducible apply within_step (wantGearing_within _ _); decide)
    | split
    | (intro k hk; cases k <;> first | exact absurd (by decide) hk | exact hu _ hk | rfl | exact ⟨rfl, rfl⟩ | exact ⟨rfl, rfl, rfl, rfl⟩)

theorem applyGearing_within (s : State) :
    Within [.inboxes, .nibs, .nibSetup, .streams, .trackers, .channels, .eic, .raises, .blotter] s (applyGearing s) := by
  unfold applyGearing
  repeat' first
    | with_reducible apply within_refl
    | with_reducible assumption
    | (with_reducible apply within_ite <;> intro _)
    | (extract_lets +onlyGivenNames u
       first
       | (refine within_cut (v := u) ?_ ?_
          all_goals (first | (with_reducible intro hu; revert hu; clear_value u; intro hu) | subst u))
       | clear_value u
       | subst u)
    | (with_reducible apply within_step (modTrack_within _ _ _); decide)
    | (with_reducible apply within_step (trackChanged_within _ _ _ _); decide)
    | (with_reducible apply within_forAll; intro _ _)
    | split
    | (intro k hk; cases k <;> first | exact absurd (by decide) hk | exact hu _ hk | rfl | exact ⟨rfl, rfl⟩ | exact ⟨rfl, rfl, rfl, rfl⟩)

theorem writeLearnCtrl_within (s : State) (i : TrackIx) (v : Word) :
    Within [.inboxes, .trackers, .eic, .raises, .blotter] s (writeLearnCtrl s i v) := by
  unfold writeLearnCtrl
  repeat' first
    | with_reducible apply within_refl
    | with_reducible assumption
    | (with_reducible apply within_ite <;> intro _)
    | (extract_lets +onlyGivenNames u
       first
       | (refine within_cut (v := u) ?_ ?_
          all_goals (first | (with_reducible intro hu; revert hu; clear_value u; intro hu) | subst u))
       | clear_value u
       | subst u)
    | (with_reducible apply within_step (modTrack_within _ _ _); decide)
    | (with_reducible apply within_step (trackCfgErr_within _ _); decide)
    | split
    | (intro k hk; cases k <;> first | exact absurd (by decide) hk | exact hu _ hk | rfl | exact ⟨rfl, rfl⟩ | exact ⟨rfl, rfl, rfl, rfl⟩)

theorem writeMap_within (s : State) (i : TrackIx) (f : MapEntry → MapEntry) :
    Within [.inboxes, .trackers, .eic, .raises, .blotter] s (writeMap s i f) := by
  unfold writeMap
  repeat' first
    | with_reducible apply within_refl
    | with_reducible assumption
    | (with_reducible apply within_ite <;> intro _)
    | (extract_lets +onlyGivenNames u
       first
       | (refine within_cut (v := u) ?_ ?_
          all_goals (first | (with_reducible intro hu; revert hu; clear_value u; intro hu) | subst u))
       | clear_value u
       | subst u)
    | (with_reducible apply within_step (modTrack_within _ _ _); decide)
    | (with_reducible apply within_step (trackCfgErr_within _ _); decide)
    | split
    | (intro k hk; cases k <;> first | exact absurd (by decide) hk | exact hu _ hk | rfl | exact ⟨rfl, rfl⟩ | exact ⟨rfl, rfl, rfl, rfl⟩)

theorem writeMapFlags_within (s : State) (i : TrackIx) (v : Word) :
    Within [.inboxes, .trackers, .eic, .raises, .blotter] s (writeMapFlags s i v) := by
  unfold writeMapFlags
  repeat' first
    | with_reducible apply within_refl
    | with_reducible assumption
    | (with_reducible apply within_step (modTrack_within _ _ _); decide)
    | (with_reducible apply within_step (writeMap_within _ _ _); decide)
    | split

theorem readMapFlags_within (s : State) (i : TrackIx) :
    Within [.trackers] s (readMapFlags s i).2 := by
  unfold readMapFlags
  repeat' first
    | with_reducible apply within_refl
    | with_reducible assumption
    | (extract_lets +onlyGivenNames u
       first
       | (refine within_cut (v := u) ?_ ?_
          all_goals (first | (with_reducible intro hu; revert hu; clear_value u; intro hu) | subst u))
       | clear_value u
       | subst u)
    | (with_reducible apply within_step (modTrack_within _ _ _); decide)
    | split

theorem writeMapCorr_within (s : State) (i : TrackIx) (v : Word) :
    Within [.inboxes, .trackers, .eic, .raises, .blotter] s (writeMapCorr s i v) := by
  unfold writeMapCorr
  repeat' first
    | with_reducible apply within_refl
    | with_reducible assumption
    | (with_reducible apply within_ite <;> intro _)
    | (with_reducible apply within_step (trackCfgErr_within _ _); decide)
    | (with_reducible apply within_step (writeMap_within _ _ _); decide)
    | split

theorem writeLocked_within (s : State) (i : TrackIx) (ok : Bool) (f : TrackCfg → TrackCfg) :
    Within [.inboxes, .trackers, .eic, .raises, .blotter] s (writeLocked s i ok f) := by
  unfold writeLocked
  repeat' first
    | with_reducible apply within_refl
    | with_reducible assumption
    | (with_reducible apply within_ite <;> intro _)
    | (with_reducible apply within_step (modTrack_within _ _ _); decide)
    | (with_reducible apply within_step (trackCfgErr_within _ _); decide)
    | split
    | (intro k hk; cases k <;> first | exact absurd (by decide) hk | exact hu _ hk | rfl | exact ⟨rfl, rfl⟩ | exact ⟨rfl, rfl, rfl, rfl⟩)

theorem virtualUpdate_within (s : State) (i : TrackIx) (u : VirtualUpd) :
    Within [.inboxes, .nibs, .nibSetup, .streams, .trackers, .channels, .eic, .raises, .blotter] s (virtualUpdate s i u) := by
  unfold virtualUpdate
  repeat' first
    | with_reducible apply within_refl
    | with_reducible assumption
    | (with_reducible apply within_ite <;> intro _)
    | (extract_lets +onlyGivenNames u
       first
       | (refine within_cut (v := u) ?_ ?_
          all_goals (first | (with_reducible intro hu; revert hu; clear_value u; intro hu) | subst u))
       | clear_value u
       | subst u)
    | (with_reducible apply within_step (enterState_within _ _ _ _); decide)
    | (with_reducible apply within_step (modTrack_within _ _ _); decide)
    | (with_reducible apply within_step (setDirection_within _ _ _ _); decide)
    | (with_reducible apply within_step (trackChanged_within _ _ _ _); decide)
    | split
    | (intro k hk; cases k <;> first | exact absurd (by decide) hk | exact hu _ hk | rfl | exact ⟨rfl, rfl⟩ | exact ⟨rfl, rfl, rfl, rfl⟩)

end Sys2Proof.Machine
end

