-- ==== Sys2Proof/Laws/PartsFeedback.lean ====
section
/-! SUPPORT. The parts of the state that each operation of Machine/Feedback.lean can change. -/
namespace Sys2Proof.Machine

theorem fbMoving_within (s : State) (b : FbIx) (time : W64) :
    Within [.inboxes, .channels, .eic, .raises, .blotter] s (fbMoving s b time) := by
  unfold fbMoving
  repeat' first
    | with_reducible apply within_refl
    | with_reducible assumption
    | (with_reducible apply within_ite <;> intro _)
    | (with_reducible apply within_step (modFb_within _ _ _); decide)
    | (with_reducible apply within_step (raiseFbEvent_within _ _ _ _ _); decide)
    | split

theorem fbToTrackers_within (s : State) (b : FbIx) (kind : TrackSrc) (x : ToothIn) (fits : Tracker → Bool) :
    Within [.trackers] s (fbToTrackers s b kind x fits) := by
  unfold fbToTrackers
  repeat' first
    | with_reducible apply within_refl
    | with_reducible assumption
    | (with_reducible apply within_ite <;> intro _)
    | (extract_lets +onlyGivenNames u
       first
       | (refine within_cut (v := u) ?_ ?_
          all_goals (first | (with_reducible intro hu; revert hu; clear_value u; intro hu) | subst u))
       | clear_value u
       | subst u)
    | (with_reducible apply within_step (pushTooth_within _ _ _); decide)
    | (with_reducible apply within_forAll; intro _ _)
    | split

theorem fbCount_within (s : State) (b : FbIx) (down : Bool) (time : W64) :
    Within [.inboxes, .nibs, .trackers, .channels, .eic, .raises, .blotter, .reflexDue] s (fbCount s b down time) := by
  unfold fbCount
  repeat' first
    | with_reducible apply within_refl
    | with_reducible assumption
    | (with_reducible apply within_ite <;> intro _)
    | (extract_lets +onlyGivenNames u
       first
       | (refine within_cut (v := u) ?_ ?_
          all_goals (first | (with_reducible intro hu; revert hu; clear_value u; intro hu) | subst u))
       | clear_value u
       | subst u)
    | (with_reducible apply within_step (causeReflex_within _ _ _); decide)
    | (with_reducible apply within_step (emuFollowAll_within _ _); decide)
    | (with_reducible apply within_step (fbMoving_within _ _ _); decide)
    | (with_reducible apply within_step (fbToTrackers_within _ _ _ _ _); decide)
    | (with_reducible apply within_step (modFb_within _ _ _); decide)
    | (with_reducible apply within_step (raiseFbEvent_within _ _ _ _ _); decide)
    | split

theorem fbQerr_within (s : State) (b : FbIx) (time : W64) :
    Within [.inboxes, .nibs, .trackers, .channels, .eic, .raises, .blotter, .reflexDue] s (fbQerr s b time) := by
  unfold fbQerr
  repeat' first
    | with_reducible apply within_refl
    | with_reducible assumption
    | (extract_lets +onlyGivenNames u
       first
       | (refine within_cut (v := u) ?_ ?_
          all_goals (first | (with_reducible intro hu; revert hu; clear_value u; intro hu) | subst u))
       | clear_value u
       | subst u)
    | (with_reducible apply within_step (causeReflex_within _ _ _); decide)
    | (with_reducible apply within_step (fbCount_within _ _ _ _); decide)
    | (with_reducible apply within_step (modFb_within _ _ _); decide)
    | (with_reducible apply within_step (raiseFault_within _ _ _); decide)
    | (with_reducible apply within_step (raiseFbEvent_within _ _ _ _ _); decide)
    | split

theorem fbQuad_within (s : State) (b : FbIx) (la lb : Bool) (time : W64) :
    Within [.inboxes, .nibs, .trackers, .channels, .eic, .raises, .blotter, .reflexDue] s (fbQuad s b la lb time) := by
  unfold fbQuad
  repeat' first
    | with_reducible apply within_refl
    | with_reducible assumption
    | (extract_lets +onlyGivenNames u
       first
       | (refine within_cut (v := u) ?_ ?_
          all_goals (first | (with_reducible intro hu; revert hu; clear_value u; intro hu) | subst u))
       | clear_value u
       | subst u)
    | (with_reducible apply within_step (fbCount_within _ _ _ _); decide)
    | (with_reducible apply within_step (fbQerr_within _ _ _); decide)
    | split

theorem fbSetPos_within (s : State) (b : FbIx) (p : W64) :
    Within [.inboxes, .nibs, .trackers, .channels, .eic, .raises, .blotter] s (fbSetPos s b p) := by
  unfold fbSetPos
  repeat' first
    | with_reducible apply within_refl
    | with_reducible assumption
    | (with_reducible apply within_ite <;> intro _)
    | (extract_lets +onlyGivenNames u
       first
       | (refine within_cut (v := u) ?_ ?_
          all_goals (first | (with_reducible intro hu; revert hu; clear_value u; intro hu) | subst u))
       | clear_value u
       | subst u)
    | (with_reducible apply within_step (emuFollowAll_within _ _); decide)
    | (with_reducible apply within_step (modFb_within _ _ _); decide)
    | (with_reducible apply within_step (modTrack_within _ _ _); decide)
    | (with_reducible apply within_forAll; intro _ _)
    | split
    | (intro k hk; cases k <;> first | exact absurd (by decide) hk | exact hu _ hk | rfl | exact ⟨rfl, rfl⟩ | exact ⟨rfl, rfl, rfl, rfl⟩)

theorem idxJudge_within (s : State) (b : FbIx) (p time : W64) (check : Bool) :
    Within [.inboxes, .channels, .eic, .raises, .blotter] s (idxJudge s b p time check) := by
  unfold idxJudge
  repeat' first
    | with_reducible apply within_refl
    | with_reducible assumption
    | (with_reducible apply within_ite <;> intro _)
    | (extract_lets +onlyGivenNames u
       first
       | (refine within_cut (v := u) ?_ ?_
          all_goals (first | (with_reducible intro hu; revert hu; clear_value u; intro hu) | subst u))
       | clear_value u
       | subst u)
    | (with_reducible apply within_step (modFb_within _ _ _); decide)
    | (with_reducible apply within_step (raiseFault_within _ _ _); decide)
    | (with_reducible apply within_step (raiseFbEvent_within _ _ _ _ _); decide)
    | split

theorem idxMode_within (s : State) (b : FbIx) (p time : W64) :
    Within [.inboxes, .nibs, .trackers, .channels, .eic, .raises, .blotter] s (idxMode s b p time) := by
  unfold idxMode
  repeat' first
    | with_reducible apply within_refl
    | with_reducible assumption
    | (with_reducible apply within_ite <;> intro _)
    | (extract_lets +onlyGivenNames u
       first
       | (refine within_cut (v := u) ?_ ?_
          all_goals (first | (with_reducible intro hu; revert hu; clear_value u; intro hu) | subst u))
       | clear_value u
       | subst u)
    | (with_reducible apply within_step (fbSetPos_within _ _ _); decide)
    | (with_reducible apply within_step (idxArmed_within _ _); decide)
    | (with_reducible apply within_step (idxJudge_within _ _ _ _ _); decide)
    | (with_reducible apply within_step (modFb_within _ _ _); decide)
    | split

theorem fbIndex_within (s : State) (b : FbIx) (time : W64) :
    Within [.inboxes, .nibs, .trackers, .channels, .eic, .raises, .blotter, .reflexDue] s (fbIndex s b time) := by
  unfold fbIndex
  repeat' first
    | with_reducible apply within_refl
    | with_reducible assumption
    | (with_reducible apply within_ite <;> intro _)
    | (extract_lets +onlyGivenNames u
       first
       | (refine within_cut (v := u) ?_ ?_
          all_goals (first | (with_reducible intro hu; revert hu; clear_value u; intro hu) | subst u))
       | clear_value u
       | subst u)
    | (with_reducible apply within_step (causeReflex_within _ _ _); decide)
    | (with_reducible apply within_step (externalEvent_within _ _ _ _); decide)
    | (with_reducible apply within_step (fbToTrackers_within _ _ _ _ _); decide)
    | (with_reducible apply within_step (idxMode_within _ _ _ _); decide)
    | (with_reducible apply within_step (modFb_within _ _ _); decide)
    | (with_reducible apply within_step (raiseFbEvent_within _ _ _ _ _); decide)
    | split

theorem fbTooth_within (s : State) (b : FbIx) (rising : Bool) (time : W64) :
    Within [.inboxes, .nibs, .trackers, .channels, .eic, .raises, .blotter] s (fbTooth s b rising time) := by
  unfold fbTooth
  repeat' first
    | with_reducible apply within_refl
    | with_reducible assumption
    | (with_reducible apply within_ite <;> intro _)
    | (extract_lets +onlyGivenNames u
       first
       | (refine within_cut (v := u) ?_ ?_
          all_goals (first | (with_reducible intro hu; revert hu; clear_value u; intro hu) | subst u))
       | clear_value u
       | subst u)
    | (with_reducible apply within_step (emuFollowAll_within _ _); decide)
    | (with_reducible apply within_step (fbMoving_within _ _ _); decide)
    | (with_reducible apply within_step (fbToTrackers_within _ _ _ _ _); decide)
    | (with_reducible apply within_step (modFb_within _ _ _); decide)
    | split

theorem fbChange_within (s : State) (b : FbIx) (la lb lz : Bool) (time : W64) :
    Within [.inboxes, .nibs, .trackers, .channels, .eic, .raises, .blotter, .reflexDue] s (fbChange s b la lb lz time) := by
  unfold fbChange
  repeat' first
    | with_reducible apply within_refl
    | with_reducible assumption
    | (with_reducible apply within_ite <;> intro _)
    | (extract_lets +onlyGivenNames u
       first
       | (refine within_cut (v := u) ?_ ?_
          all_goals (first | (with_reducible intro hu; revert hu; clear_value u; intro hu) | subst u))
       | clear_value u
       | subst u)
    | (with_reducible apply within_step (fbIndex_within _ _ _); decide)
    | (with_reducible apply within_step (fbQuad_within _ _ _ _ _); decide)
    | (with_reducible apply within_step (fbTooth_within _ _ _ _); decide)
    | (with_reducible apply within_step (modFb_within _ _ _); decide)
    | split

theorem fbSample_within (s : State) (b : FbIx) (la lb lz : Bool) :
    Within [.channels] s (fbSample s b la lb lz) := by
  unfold fbSample
  repeat' first
    | with_reducible apply within_refl
    | with_reducible assumption
    | (with_reducible apply within_ite <;> intro _)
    | (extract_lets +onlyGivenNames u
       first
       | (refine within_cut (v := u) ?_ ?_
          all_goals (first | (with_reducible intro hu; revert hu; clear_value u; intro hu) | subst u))
       | clear_value u
       | subst u)
    | (with_reducible apply within_step (modFb_within _ _ _); decide)
    | split

theorem fbAct_within (s : State) (b : FbIx) :
    Within [.inboxes, .nibs, .trackers, .channels, .eic, .raises, .blotter, .reflexDue] s (fbAct s b) := by
  unfold fbAct
  repeat' first
    | with_reducible apply within_refl
    | with_reducible assumption
    | (extract_lets +onlyGivenNames u
       first
       | (refine within_cut (v := u) ?_ ?_
          all_goals (first | (with_reducible intro hu; revert hu; clear_value u; intro hu) | subst u))
       | clear_value u
       | subst u)
    | (with_reducible apply within_step (fbChange_within _ _ _ _ _ _); decide)
    | (with_reducible apply within_step (modFb_within _ _ _); decide)
    | split

theorem ssiError_within (s : State) (b : FbIx) (kind : Nat) (time : W64) :
    Within [.inboxes, .channels, .eic, .raises, .blotter] s (ssiError s b kind time) := by
  unfold ssiError
  repeat' first
    | with_reducible apply within_refl
    | with_reducible assumption
    | (with_reducible apply within_ite <;> intro _)
    | (extract_lets +onlyGivenNames u
       first
       | (refine within_cut (v := u) ?_ ?_
          all_goals (first | (with_reducible intro hu; revert hu; clear_value u; intro hu) | subst u))
       | clear_value u
       | subst u)
    | (with_reducible apply within_step (modFb_within _ _ _); decide)
    | (with_reducible apply within_step (raiseFault_within _ _ _); decide)
    | (with_reducible apply within_step (raiseFbEvent_within _ _ _ _ _); decide)
    | split

theorem ssiTick_within (s : State) (b : FbIx) :
    Within [.inboxes, .channels, .eic, .raises, .blotter] s (ssiTick s b) := by
  unfold ssiTick
  repeat' first
    | with_reducible apply within_refl
    | with_reducible assumption
    | (with_reducible apply within_ite <;> intro _)
    | (extract_lets +onlyGivenNames u
       first
       | (refine within_cut (v := u) ?_ ?_
          all_goals (first | (with_reducible intro hu; revert hu; clear_value u; intro hu) | subst u))
       | clear_value u
       | subst u)
    | (with_reducible apply within_step (modFb_within _ _ _); decide)
    | (with_reducible apply within_step (ssiError_within _ _ _ _); decide)
    | split

theorem ssiSample_within (s : State) (b : FbIx) (v : Nat) (time : W64) :
    Within [.inboxes, .nibs, .trackers, .channels, .eic, .raises, .blotter] s (ssiSample s b v time) := by
  unfold ssiSample
  repeat' first
    | with_reducible apply within_refl
    | with_reducible assumption
    | (extract_lets +onlyGivenNames u
       first
       | (refine within_cut (v := u) ?_ ?_
          all_goals (first | (with_reducible intro hu; revert hu; clear_value u; intro hu) | subst u))
       | clear_value u
       | subst u)
    | (with_reducible apply within_step (emuFollowAll_within _ _); decide)
    | (with_reducible apply within_step (fbMoving_within _ _ _); decide)
    | (with_reducible apply within_step (fbToTrackers_within _ _ _ _ _); decide)
    | (with_reducible apply within_step (modFb_within _ _ _); decide)
    | split

theorem ssiFrame_within (s : State) (b : FbIx) :
    Within [.inboxes, .nibs, .trackers, .channels, .eic, .raises, .blotter] s (ssiFrame s b) := by
  unfold ssiFrame
  repeat' first
    | with_reducible apply within_refl
    | with_reducible assumption
    | (with_reducible apply within_ite <;> intro _)
    | (extract_lets +onlyGivenNames u
       first
       | (refine within_cut (v := u) ?_ ?_
          all_goals (first | (with_reducible intro hu; revert hu; clear_value u; intro hu) | subst u))
       | clear_value u
       | subst u)
    | (with_reducible apply within_step (modFb_within _ _ _); decide)
    | (with_reducible apply within_step (ssiError_within _ _ _ _); decide)
    | (with_reducible apply within_step (ssiSample_within _ _ _ _); decide)
    | split

theorem overspeed_within (s : State) (b : FbIx) (time : W64) :
    Within [.inboxes, .channels, .eic, .raises, .blotter] s (overspeed s b time) := by
  unfold overspeed
  repeat' first
    | with_reducible apply within_refl
    | with_reducible assumption
    | (with_reducible apply within_ite <;> intro _)
    | (extract_lets +onlyGivenNames u
       first
       | (refine within_cut (v := u) ?_ ?_
          all_goals (first | (with_reducible intro hu; revert hu; clear_value u; intro hu) | subst u))
       | clear_value u
       | subst u)
    | (with_reducible apply within_step (modFb_within _ _ _); decide)
    | (with_reducible apply within_step (raiseFault_within _ _ _); decide)
    | (with_reducible apply within_step (raiseFbEvent_within _ _ _ _ _); decide)
    | split

theorem fbTick_within (s : State) (b : FbIx) :
    Within [.inboxes, .channels, .eic, .raises, .blotter, .free] s (fbTick s b) := by
  unfold fbTick
  repeat' first
    | with_reducible apply within_refl
    | with_reducible assumption
    | (with_reducible apply within_ite <;> intro _)
    | (extract_lets +onlyGivenNames u
       first
       | (refine within_cut (v := u) ?_ ?_
          all_goals (first | (with_reducible intro hu; revert hu; clear_value u; intro hu) | subst u))
       | clear_value u
       | subst u)
    | (with_reducible apply within_step (drawFree_within _); decide)
    | (with_reducible apply within_step (modFb_within _ _ _); decide)
    | (with_reducible apply within_step (overspeed_within _ _ _); decide)
    | (with_reducible apply within_step (ssiTick_within _ _); decide)
    | split

theorem fbOn_within (s : State) (b : FbIx) :
    Within [.inboxes, .channels, .eic, .raises, .blotter] s (fbOn s b) := by
  unfold fbOn
  repeat' first
    | with_reducible apply within_refl
    | with_reducible assumption
    | (with_reducible apply within_step (modFb_within _ _ _); decide)
    | (with_reducible apply within_step (overspeed_within _ _ _); decide)
    | split

theorem fbOff_within (s : State) (b : FbIx) :
    Within [.channels] s (fbOff s b) := by
  unfold fbOff
  repeat' first
    | with_reducible apply within_refl
    | with_reducible assumption
    | (with_reducible apply within_step (modFb_within _ _ _); decide)
    | split

theorem fbReview_within (s : State) (b : FbIx) :
    Within [.inboxes, .channels, .eic, .raises, .blotter] s (fbReview s b) := by
  unfold fbReview
  repeat' first
    | with_reducible apply within_refl
    | with_reducible assumption
    | (with_reducible apply within_ite <;> intro _)
    | (extract_lets +onlyGivenNames u
       first
       | (refine within_cut (v := u) ?_ ?_
          all_goals (first | (with_reducible intro hu; revert hu; clear_value u; intro hu) | subst u))
       | clear_value u
       | subst u)
    | (with_reducible apply within_step (fbOff_within _ _); decide)
    | (with_reducible apply within_step (fbOn_within _ _); decide)
    | split

theorem idxArmed_within (s : State) (b : FbIx) :
    Within [.channels] s (idxArmed s b) := by
  unfold idxArmed
  repeat' first
    | with_reducible apply within_refl
    | with_reducible assumption
    | (with_reducible apply within_ite <;> intro _)
    | (with_reducible apply within_step (modFb_within _ _ _); decide)
    | split

theorem writeFbCtrl_within (s : State) (b : FbIx) (v : Word) :
    Within [.inboxes, .channels, .eic, .raises, .blotter] s (writeFbCtrl s b v) := by
  unfold writeFbCtrl
  repeat' first
    | with_reducible apply within_refl
    | with_reducible assumption
    | (with_reducible apply within_ite <;> intro _)
    | (extract_lets +onlyGivenNames u
       first
       | (refine within_cut (v := u) ?_ ?_
          all_goals (first | (with_reducible intro hu; revert hu; clear_value u; intro hu) | subst u))
       | clear_value u
       | subst u)
    | (with_reducible apply within_step (fbCfgErr_within _ _); decide)
    | (with_reducible apply within_step (fbReview_within _ _); decide)
    | (with_reducible apply within_step (idxArmed_within _ _); decide)
    | (with_reducible apply within_step (modFb_within _ _ _); decide)
    | split

theorem fbReadClear_within (s : State) (b : FbIx) (off : Nat) :
    Within [.channels] s (fbReadClear s b off) := by
  unfold fbReadClear
  repeat' first
    | with_reducible apply within_refl
    | with_reducible assumption
    | (with_reducible apply within_step (modFb_within _ _ _); decide)
    | split

theorem writeFbLocked_within (s : State) (b : FbIx) (f : Feedback → Feedback) :
    Within [.inboxes, .channels, .eic, .raises, .blotter] s (writeFbLocked s b f) := by
  unfold writeFbLocked
  repeat' first
    | with_reducible apply within_refl
    | with_reducible assumption
    | (with_reducible apply within_ite <;> intro _)
    | (with_reducible apply within_step (fbCfgErr_within _ _); decide)
    | (with_reducible apply within_step (modFb_within _ _ _); decide)
    | split

theorem fbWrite_within (s : State) (b : FbIx) (off : Nat) (v : Word) :
    Within [.inboxes, .nibs, .channels, .eic, .raises, .blotter] s (fbWrite s b off v) := by
  unfold fbWrite
  repeat' first
    | with_reducible apply within_refl
    | with_reducible assumption
    | (with_reducible apply within_step (modEmu_within _ _ _); decide)
    | (with_reducible apply within_step (modFb_within _ _ _); decide)
    | (with_reducible apply within_step (writeEmuCtrl_within _ _ _); decide)
    | (with_reducible apply within_step (writeEmuLines_within _ _ _); decide)
    | (with_reducible apply within_step (writeFbCtrl_within _ _ _); decide)
    | (with_reducible apply within_step (writeFbLocked_within _ _ _); decide)
    | split

theorem fbWide_within (s : State) (b : FbIx) (off : Nat) (v : W64) :
    Within [.inboxes, .nibs, .trackers, .channels, .eic, .raises, .blotter] s (fbWide s b off v) := by
  unfold fbWide
  repeat' first
    | with_reducible apply within_refl
    | with_reducible assumption
    | (with_reducible apply within_ite <;> intro _)
    | (with_reducible apply within_step (fbCfgErr_within _ _); decide)
    | (with_reducible apply within_step (fbSetPos_within _ _ _); decide)
    | (with_reducible apply within_step (modFb_within _ _ _); decide)
    | split

theorem emuOffsetTick_within (s : State) :
    Within [.inboxes, .nibs, .channels, .eic, .raises, .blotter] s (emuOffsetTick s) := by
  unfold emuOffsetTick
  repeat' first
    | with_reducible apply within_refl
    | with_reducible assumption
    | (with_reducible apply within_ite <;> intro _)
    | (with_reducible apply within_step (emuFollow_within _ _ _); decide)
    | (with_reducible apply within_step (modEmu_within _ _ _); decide)
    | (with_reducible apply within_forAll; intro _ _)
    | split

end Sys2Proof.Machine
end

