-- ==== Sys2Proof/Laws/PartsAnalog.lean ====
section
/-! SUPPORT. The parts of the state that each operation of Machine/Analog.lean can change. -/
namespace Sys2Proof.Machine

theorem raiseCompEvent_within (s : State) (c : AcIx) (bit : Nat) :
    Within [.comparators, .eic, .raises, .blotter] s (raiseCompEvent s c bit) := by
  unfold raiseCompEvent
  repeat' first
    | with_reducible apply within_refl
    | with_reducible assumption
    | (with_reducible apply within_ite <;> intro _)
    | (extract_lets +onlyGivenNames u
       first
       | (refine within_cut (v := u) ?_ ?_
          all_goals (first | (with_reducible intro hu; revert hu; clear_value u; intro hu) | subst u))
       | clear_value u
       | subst u)
    | (with_reducible apply within_step (deliverEvent_within _ _ _ _ _); decide)
    | (with_reducible apply within_step (modComp_within _ _ _); decide)
    | split

theorem compRecord_within (s : State) (c : AcIx) (bit : Nat) (record : W128) (group index : Nat) :
    Within [.inboxes, .comparators, .eic, .raises, .blotter] s (compRecord s c bit record group index) := by
  unfold compRecord
  repeat' first
    | with_reducible apply within_refl
    | with_reducible assumption
    | (with_reducible apply within_ite <;> intro _)
    | (extract_lets +onlyGivenNames u
       first
       | (refine within_cut (v := u) ?_ ?_
          all_goals (first | (with_reducible intro hu; revert hu; clear_value u; intro hu) | subst u))
       | clear_value u
       | subst u)
    | (with_reducible apply within_step (enqueue_within _ _ _ _ _); decide)
    | (with_reducible apply within_step (modComp_within _ _ _); decide)
    | (with_reducible apply within_step (raiseCompEvent_within _ _ _); decide)
    | (with_reducible apply within_forAll; intro _ _)
    | split

theorem compEnter_within (s : State) (c : AcIx) (new : CompState) (time : W64) :
    Within [.inboxes, .trackers, .comparators, .eic, .raises, .blotter, .power, .reflexDue] s (compEnter s c new time) := by
  unfold compEnter
  repeat' first
    | with_reducible apply within_refl
    | with_reducible assumption
    | (with_reducible apply within_ite <;> intro _)
    | (extract_lets +onlyGivenNames u
       first
       | (refine within_cut (v := u) ?_ ?_
          all_goals (first | (with_reducible intro hu; revert hu; clear_value u; intro hu) | subst u))
       | clear_value u
       | subst u)
    | (with_reducible apply within_step (causeReflex_within _ _ _); decide)
    | (with_reducible apply within_step (compRecord_within _ _ _ _ _ _); decide)
    | (with_reducible apply within_step (externalEvent_within _ _ _ _); decide)
    | (with_reducible apply within_step (modComp_within _ _ _); decide)
    | (with_reducible apply within_step (noteWake_within _ _); decide)
    | split

theorem compEvaluate_within (s : State) (c : AcIx) (uv : Int) (time : W64) :
    Within [.inboxes, .trackers, .comparators, .eic, .raises, .blotter, .power, .reflexDue] s (compEvaluate s c uv time) := by
  unfold compEvaluate
  repeat' first
    | with_reducible apply within_refl
    | with_reducible assumption
    | (with_reducible apply within_ite <;> intro _)
    | (extract_lets +onlyGivenNames u
       first
       | (refine within_cut (v := u) ?_ ?_
          all_goals (first | (with_reducible intro hu; revert hu; clear_value u; intro hu) | subst u))
       | clear_value u
       | subst u)
    | (with_reducible apply within_step (compEnter_within _ _ _ _); decide)
    | (with_reducible apply within_step (modComp_within _ _ _); decide)
    | split

theorem compEvaluateOld_within (s : State) (c : AcIx) (uv : Int) (time : W64) :
    Within [.inboxes, .trackers, .comparators, .eic, .raises, .blotter, .power, .reflexDue] s (compEvaluateOld s c uv time) := by
  unfold compEvaluateOld
  repeat' first
    | with_reducible apply within_refl
    | with_reducible assumption
    | (with_reducible apply within_ite <;> intro _)
    | (extract_lets +onlyGivenNames u
       first
       | (refine within_cut (v := u) ?_ ?_
          all_goals (first | (with_reducible intro hu; revert hu; clear_value u; intro hu) | subst u))
       | clear_value u
       | subst u)
    | (with_reducible apply within_step (compEvaluate_within _ _ _ _); decide)
    | (with_reducible apply within_step (modComp_within _ _ _); decide)
    | split

theorem compSample_within (s : State) (c : AcIx) (uv : Int) :
    Within [.inboxes, .nibs, .links, .streams, .trackers, .comparators, .eic, .raises, .blotter, .ink, .co, .power, .reflexDue] s (compSample s c uv) := by
  unfold compSample
  repeat' first
    | with_reducible apply within_refl
    | with_reducible assumption
    | (with_reducible apply within_ite <;> intro _)
    | (extract_lets +onlyGivenNames u
       first
       | (refine within_cut (v := u) ?_ ?_
          all_goals (first | (with_reducible intro hu; revert hu; clear_value u; intro hu) | subst u))
       | clear_value u
       | subst u)
    | (with_reducible apply within_step (compEvaluateOld_within _ _ _ _); decide)
    | (with_reducible apply within_step (modComp_within _ _ _); decide)
    | (with_reducible apply within_step (settle_within _); decide)
    | split

theorem compCfgErr_within (s : State) (c : AcIx) :
    Within [.comparators, .eic, .raises, .blotter] s (compCfgErr s c) := by
  unfold compCfgErr
  repeat' first
    | with_reducible apply within_refl
    | with_reducible assumption
    | (with_reducible apply within_step (modComp_within _ _ _); decide)
    | (with_reducible apply within_step (raiseCompEvent_within _ _ _); decide)
    | split

theorem writeThr_within (s : State) (c : AcIx) (v : Word) :
    Within [.comparators, .eic, .raises, .blotter] s (writeThr s c v) := by
  unfold writeThr
  repeat' first
    | with_reducible apply within_refl
    | with_reducible assumption
    | (with_reducible apply within_ite <;> intro _)
    | (with_reducible apply within_step (compCfgErr_within _ _); decide)
    | (with_reducible apply within_step (modComp_within _ _ _); decide)
    | split

theorem compReview_within (s : State) (c : AcIx) :
    Within [.inboxes, .nibs, .links, .streams, .comparators, .eic, .raises, .blotter, .ink, .co] s (compReview s c) := by
  unfold compReview
  repeat' first
    | with_reducible apply within_refl
    | with_reducible assumption
    | (with_reducible apply within_ite <;> intro _)
    | (extract_lets +onlyGivenNames u
       first
       | (refine within_cut (v := u) ?_ ?_
          all_goals (first | (with_reducible intro hu; revert hu; clear_value u; intro hu) | subst u))
       | clear_value u
       | subst u)
    | (with_reducible apply within_step (modComp_within _ _ _); decide)
    | (with_reducible apply within_step (settle_within _); decide)
    | split

theorem writeAcCtrl_within (s : State) (c : AcIx) (v : Word) :
    Within [.inboxes, .nibs, .links, .streams, .comparators, .eic, .raises, .blotter, .ink, .co] s (writeAcCtrl s c v) := by
  unfold writeAcCtrl
  repeat' first
    | with_reducible apply within_refl
    | with_reducible assumption
    | (with_reducible apply within_ite <;> intro _)
    | (extract_lets +onlyGivenNames u
       first
       | (refine within_cut (v := u) ?_ ?_
          all_goals (first | (with_reducible intro hu; revert hu; clear_value u; intro hu) | subst u))
       | clear_value u
       | subst u)
    | (with_reducible apply within_step (compCfgErr_within _ _); decide)
    | (with_reducible apply within_step (compReview_within _ _); decide)
    | (with_reducible apply within_step (modComp_within _ _ _); decide)
    | split

theorem acReadClear_within (s : State) (c : AcIx) (off : Nat) :
    Within [.comparators] s (acReadClear s c off) := by
  unfold acReadClear
  repeat' first
    | with_reducible apply within_refl
    | with_reducible assumption
    | (with_reducible apply within_ite <;> intro _)
    | (with_reducible apply within_step (modComp_within _ _ _); decide)
    | split

theorem acWrite_within (s : State) (c : AcIx) (off : Nat) (v : Word) :
    Within [.inboxes, .nibs, .links, .streams, .comparators, .eic, .raises, .blotter, .ink, .co] s (acWrite s c off v) := by
  unfold acWrite
  repeat' first
    | with_reducible apply within_refl
    | with_reducible assumption
    | (with_reducible apply within_step (modComp_within _ _ _); decide)
    | (with_reducible apply within_step (writeAcCtrl_within _ _ _); decide)
    | (with_reducible apply within_step (writeThr_within _ _ _); decide)
    | split

theorem raiseAdcEvent_within (s : State) (bit : Nat) :
    Within [.adc, .eic, .raises, .blotter] s (raiseAdcEvent s bit) := by
  unfold raiseAdcEvent
  repeat' first
    | with_reducible apply within_refl
    | with_reducible assumption
    | (with_reducible apply within_ite <;> intro _)
    | (extract_lets +onlyGivenNames u
       first
       | (refine within_cut (v := u) ?_ ?_
          all_goals (first | (with_reducible intro hu; revert hu; clear_value u; intro hu) | subst u))
       | clear_value u
       | subst u)
    | (with_reducible apply within_step (deliverEvent_within _ _ _ _ _); decide)
    | (with_reducible apply within_step (modAdc_within _ _); decide)
    | split

theorem raiseAdcCheck_within (s : State) :
    Within [.adc, .eic, .raises, .blotter] s (raiseAdcCheck s) := by
  unfold raiseAdcCheck
  repeat' first
    | with_reducible apply within_refl
    | with_reducible assumption
    | (with_reducible apply within_step (modAdc_within _ _); decide)
    | (with_reducible apply within_step (raiseAdcEvent_within _ _); decide)
    | (with_reducible apply within_step (raiseFault_within _ _ _); decide)
    | split

theorem beginReadback_within (s : State) :
    Within [.adc] s (beginReadback s) := by
  unfold beginReadback
  repeat' first
    | with_reducible apply within_refl
    | with_reducible assumption
    | (with_reducible apply within_ite <;> intro _)
    | (extract_lets +onlyGivenNames u
       first
       | (refine within_cut (v := u) ?_ ?_
          all_goals (first | (with_reducible intro hu; revert hu; clear_value u; intro hu) | subst u))
       | clear_value u
       | subst u)
    | (with_reducible apply within_step (modAdc_within _ _); decide)
    | split

theorem beginSlot_within (s : State) (at_ : W64) :
    Within [.adc] s (beginSlot s at_) := by
  unfold beginSlot
  repeat' first
    | with_reducible apply within_refl
    | with_reducible assumption
    | (extract_lets +onlyGivenNames u
       first
       | (refine within_cut (v := u) ?_ ?_
          all_goals (first | (with_reducible intro hu; revert hu; clear_value u; intro hu) | subst u))
       | clear_value u
       | subst u)
    | (with_reducible apply within_step (beginReadback_within _); decide)
    | (with_reducible apply within_step (modAdc_within _ _); decide)
    | split

theorem beginRound_within (s : State) (at_ : W64) :
    Within [.adc] s (beginRound s at_) := by
  unfold beginRound
  repeat' first
    | with_reducible apply within_refl
    | with_reducible assumption
    | (extract_lets +onlyGivenNames u
       first
       | (refine within_cut (v := u) ?_ ?_
          all_goals (first | (with_reducible intro hu; revert hu; clear_value u; intro hu) | subst u))
       | clear_value u
       | subst u)
    | (with_reducible apply within_step (beginSlot_within _ _); decide)
    | (with_reducible apply within_step (modAdc_within _ _); decide)
    | split

theorem readbackErr_within (s : State) (c : AcIx) (hi : Bool) (main expected outcome : Nat) (time : W64) :
    Within [.inboxes, .comparators, .adc, .eic, .raises, .blotter] s (readbackErr s c hi main expected outcome time) := by
  unfold readbackErr
  repeat' first
    | with_reducible apply within_refl
    | with_reducible assumption
    | (extract_lets +onlyGivenNames u
       first
       | (refine within_cut (v := u) ?_ ?_
          all_goals (first | (with_reducible intro hu; revert hu; clear_value u; intro hu) | subst u))
       | clear_value u
       | subst u)
    | (with_reducible apply within_step (compRecord_within _ _ _ _ _ _); decide)
    | (with_reducible apply within_step (modAdc_within _ _); decide)
    | (with_reducible apply within_step (modComp_within _ _ _); decide)
    | split

theorem undecided_within (s : State) (r : Arbitration) (time : W64) :
    Within [.inboxes, .comparators, .adc, .eic, .raises, .blotter] s (undecided s r time) := by
  unfold undecided
  repeat' first
    | with_reducible apply within_refl
    | with_reducible assumption
    | (with_reducible apply within_step (raiseAdcCheck_within _); decide)
    | (with_reducible apply within_step (readbackErr_within _ _ _ _ _ _ _); decide)
    | split

theorem convFailure_within (s : State) (r : Arbitration) (time : W64) :
    Within [.inboxes, .comparators, .adc, .eic, .raises, .blotter] s (convFailure s r time) := by
  unfold convFailure
  repeat' first
    | with_reducible apply within_refl
    | with_reducible assumption
    | (with_reducible apply within_ite <;> intro _)
    | (extract_lets +onlyGivenNames u
       first
       | (refine within_cut (v := u) ?_ ?_
          all_goals (first | (with_reducible intro hu; revert hu; clear_value u; intro hu) | subst u))
       | clear_value u
       | subst u)
    | (with_reducible apply within_step (failureWithoutSpare_within _ _); decide)
    | (with_reducible apply within_step (modAdc_within _ _); decide)
    | (with_reducible apply within_step (modComp_within _ _ _); decide)
    | (with_reducible apply within_step (undecided_within _ _ _); decide)
    | split

theorem readbackDone_within (s : State) (main : Nat) (time : W64) :
    Within [.inboxes, .comparators, .adc, .eic, .raises, .blotter] s (readbackDone s main time) := by
  unfold readbackDone
  repeat' first
    | with_reducible apply within_refl
    | with_reducible assumption
    | (with_reducible apply within_ite <;> intro _)
    | (extract_lets +onlyGivenNames u
       first
       | (refine within_cut (v := u) ?_ ?_
          all_goals (first | (with_reducible intro hu; revert hu; clear_value u; intro hu) | subst u))
       | clear_value u
       | subst u)
    | (with_reducible apply within_step (convFailure_within _ _ _); decide)
    | (with_reducible apply within_step (modAdc_within _ _); decide)
    | split

theorem noteSupply_within (s : State) (i : Fin 16) (r : Nat) :
    Within [.adc, .raises, .blotter] s (noteSupply s i r) := by
  unfold noteSupply
  repeat' first
    | with_reducible apply within_refl
    | with_reducible assumption
    | (with_reducible apply within_ite <;> intro _)
    | (extract_lets +onlyGivenNames u
       first
       | (refine within_cut (v := u) ?_ ?_
          all_goals (first | (with_reducible intro hu; revert hu; clear_value u; intro hu) | subst u))
       | clear_value u
       | subst u)
    | (with_reducible apply within_step (modAdc_within _ _); decide)
    | (with_reducible apply within_step (raiseFault_within _ _ _); decide)
    | split

theorem resultRecord_within (s : State) (i : Fin 16) (r : Nat) (time : W64) :
    Within [.inboxes, .adc, .eic, .raises, .blotter] s (resultRecord s i r time) := by
  unfold resultRecord
  repeat' first
    | with_reducible apply within_refl
    | with_reducible assumption
    | (with_reducible apply within_ite <;> intro _)
    | (extract_lets +onlyGivenNames u
       first
       | (refine within_cut (v := u) ?_ ?_
          all_goals (first | (with_reducible intro hu; revert hu; clear_value u; intro hu) | subst u))
       | clear_value u
       | subst u)
    | (with_reducible apply within_step (enqueue_within _ _ _ _ _); decide)
    | (with_reducible apply within_step (modAdc_within _ _); decide)
    | split

theorem inputDone_within (s : State) (i : Fin 16) (r : Fin 4096) (time : W64) :
    Within [.inboxes, .adc, .eic, .raises, .blotter] s (inputDone s i r time) := by
  unfold inputDone
  repeat' first
    | with_reducible apply within_refl
    | with_reducible assumption
    | (with_reducible apply within_ite <;> intro _)
    | (extract_lets +onlyGivenNames u
       first
       | (refine within_cut (v := u) ?_ ?_
          all_goals (first | (with_reducible intro hu; revert hu; clear_value u; intro hu) | subst u))
       | clear_value u
       | subst u)
    | (with_reducible apply within_step (modAdc_within _ _); decide)
    | (with_reducible apply within_step (noteSupply_within _ _ _); decide)
    | (with_reducible apply within_step (resultRecord_within _ _ _ _); decide)
    | split

theorem referenceDone_within (s : State) (r : Fin 4096) (time : W64) :
    Within [.inboxes, .comparators, .adc, .eic, .raises, .blotter] s (referenceDone s r time) := by
  unfold referenceDone
  repeat' first
    | with_reducible apply within_refl
    | with_reducible assumption
    | (with_reducible apply within_ite <;> intro _)
    | (extract_lets +onlyGivenNames u
       first
       | (refine within_cut (v := u) ?_ ?_
          all_goals (first | (with_reducible intro hu; revert hu; clear_value u; intro hu) | subst u))
       | clear_value u
       | subst u)
    | (with_reducible apply within_step (convFailure_within _ _ _); decide)
    | (with_reducible apply within_step (modAdc_within _ _); decide)
    | split

theorem nextSlot_within (s : State) (at_ : W64) :
    Within [.adc, .eic, .raises, .blotter] s (nextSlot s at_) := by
  unfold nextSlot
  repeat' first
    | with_reducible apply within_refl
    | with_reducible assumption
    | (with_reducible apply within_step (beginRound_within _ _); decide)
    | (with_reducible apply within_step (beginSlot_within _ _); decide)
    | (with_reducible apply within_step (modAdc_within _ _); decide)
    | (with_reducible apply within_step (raiseAdcEvent_within _ _); decide)
    | split

theorem conversion_within (s : State) (r : Fin 4096) :
    Within [.inboxes, .comparators, .adc, .eic, .raises, .blotter] s (conversion s r) := by
  unfold conversion
  repeat' first
    | with_reducible apply within_refl
    | with_reducible assumption
    | (extract_lets +onlyGivenNames u
       first
       | (refine within_cut (v := u) ?_ ?_
          all_goals (first | (with_reducible intro hu; revert hu; clear_value u; intro hu) | subst u))
       | clear_value u
       | subst u)
    | (with_reducible apply within_step (inputDone_within _ _ _ _); decide)
    | (with_reducible apply within_step (nextSlot_within _ _); decide)
    | (with_reducible apply within_step (readbackDone_within _ _ _); decide)
    | (with_reducible apply within_step (referenceDone_within _ _ _); decide)
    | split

theorem swapConverter_within (s : State) (r : Arbitration) (time : W64) :
    Within [.inboxes, .comparators, .adc, .eic, .raises, .blotter, .ink, .pool] s (swapConverter s r time) := by
  unfold swapConverter
  repeat' first
    | with_reducible apply within_refl
    | with_reducible assumption
    | (extract_lets +onlyGivenNames u
       first
       | (refine within_cut (v := u) ?_ ?_
          all_goals (first | (with_reducible intro hu; revert hu; clear_value u; intro hu) | subst u))
       | clear_value u
       | subst u)
    | (with_reducible apply within_step (addLedger_within _ _ _ _ _); decide)
    | (with_reducible apply within_step (modAdc_within _ _); decide)
    | (with_reducible apply within_step (modPool_within _ _); decide)
    | (with_reducible apply within_step (noteExhausted_within _ _ _); decide)
    | (with_reducible apply within_step (raiseAdcEvent_within _ _); decide)
    | (with_reducible apply within_step (raiseFault_within _ _ _); decide)
    | (with_reducible apply within_step (readbackErr_within _ _ _ _ _ _ _); decide)
    | split

theorem faultyInput_within (s : State) (r : Arbitration) (time : W64) :
    Within [.inboxes, .comparators, .adc, .eic, .raises, .blotter] s (faultyInput s r time) := by
  unfold faultyInput
  repeat' first
    | with_reducible apply within_refl
    | with_reducible assumption
    | (extract_lets +onlyGivenNames u
       first
       | (refine within_cut (v := u) ?_ ?_
          all_goals (first | (with_reducible intro hu; revert hu; clear_value u; intro hu) | subst u))
       | clear_value u
       | subst u)
    | (with_reducible apply within_step (modAdc_within _ _); decide)
    | (with_reducible apply within_step (modComp_within _ _ _); decide)
    | (with_reducible apply within_step (raiseAdcCheck_within _); decide)
    | (with_reducible apply within_step (raiseAdcEvent_within _ _); decide)
    | (with_reducible apply within_step (raiseFault_within _ _ _); decide)
    | (with_reducible apply within_step (readbackErr_within _ _ _ _ _ _ _); decide)
    | split

theorem arbitrate_within (s : State) (spare : Nat) :
    Within [.inboxes, .comparators, .adc, .eic, .raises, .blotter, .ink, .pool] s (arbitrate s spare) := by
  unfold arbitrate
  repeat' first
    | with_reducible apply within_refl
    | with_reducible assumption
    | (with_reducible apply within_ite <;> intro _)
    | (extract_lets +onlyGivenNames u
       first
       | (refine within_cut (v := u) ?_ ?_
          all_goals (first | (with_reducible intro hu; revert hu; clear_value u; intro hu) | subst u))
       | clear_value u
       | subst u)
    | (with_reducible apply within_step (faultyInput_within _ _ _); decide)
    | (with_reducible apply within_step (modAdc_within _ _); decide)
    | (with_reducible apply within_step (swapConverter_within _ _ _); decide)
    | (with_reducible apply within_step (undecided_within _ _ _); decide)
    | (with_reducible apply within_forAll; intro _ _)
    | split

theorem adcReview_within (s : State) :
    Within [.adc] s (adcReview s) := by
  unfold adcReview
  repeat' first
    | with_reducible apply within_refl
    | with_reducible assumption
    | (with_reducible apply within_ite <;> intro _)
    | (extract_lets +onlyGivenNames u
       first
       | (refine within_cut (v := u) ?_ ?_
          all_goals (first | (with_reducible intro hu; revert hu; clear_value u; intro hu) | subst u))
       | clear_value u
       | subst u)
    | (with_reducible apply within_step (beginRound_within _ _); decide)
    | (with_reducible apply within_step (modAdc_within _ _); decide)
    | split

theorem writeAdcCtrl_within (s : State) (v : Word) :
    Within [.adc] s (writeAdcCtrl s v) := by
  unfold writeAdcCtrl
  repeat' first
    | with_reducible apply within_refl
    | with_reducible assumption
    | (with_reducible apply within_step (adcReview_within _); decide)
    | (with_reducible apply within_step (modAdc_within _ _); decide)
    | split

theorem adcReadClear_within (s : State) (off : Nat) :
    Within [.adc] s (adcReadClear s off) := by
  unfold adcReadClear
  repeat' first
    | with_reducible apply within_refl
    | with_reducible assumption
    | (with_reducible apply within_ite <;> intro _)
    | (with_reducible apply within_step (modAdc_within _ _); decide)
    | split

theorem adcWrite_within (s : State) (off : Nat) (v : Word) :
    Within [.adc] s (adcWrite s off v) := by
  unfold adcWrite
  repeat' first
    | with_reducible apply within_refl
    | with_reducible assumption
    | (with_reducible apply within_step (modAdc_within _ _); decide)
    | (with_reducible apply within_step (writeAdcCtrl_within _ _); decide)
    | split

end Sys2Proof.Machine
end

