-- ==== Sys2Proof/Laws/PartsCounter.lean ====
section
/-! SUPPORT. The parts of the state that each operation of Machine/Counter.lean can change. -/
namespace Sys2Proof.Machine

theorem ceEdge_within (s : State) (n : Nat) :
    Within [.counters] s (ceEdge s n) := by
  unfold ceEdge
  repeat' first
    | with_reducible apply within_refl
    | with_reducible assumption
    | (with_reducible apply within_ite <;> intro _)
    | (extract_lets +onlyGivenNames u
       first
       | (refine within_cut (v := u) ?_ ?_
          all_goals (first | (with_reducible intro hu; revert hu; clear_value u; intro hu) | subst u))
       | clear_value u
       | subst u)
    | split
    | (intro k hk; cases k <;> first | exact absurd (by decide) hk | exact hu _ hk | rfl | exact ⟨rfl, rfl⟩ | exact ⟨rfl, rfl, rfl, rfl⟩)

theorem ceMatch_within (s : State) (e : CeIx) (k : Fin 4) :
    Within [.inboxes, .counters, .eic, .raises, .blotter] s (ceMatch s e k) := by
  unfold ceMatch
  repeat' first
    | with_reducible apply within_refl
    | with_reducible assumption
    | (with_reducible apply within_ite <;> intro _)
    | (extract_lets +onlyGivenNames u
       first
       | (refine within_cut (v := u) ?_ ?_
          all_goals (first | (with_reducible intro hu; revert hu; clear_value u; intro hu) | subst u))
       | clear_value u
       | subst u)
    | (with_reducible apply within_step (deliverEvent_within _ _ _ _ _); decide)
    | (with_reducible apply within_step (deliverRecord_within _ _ _ _ _ _); decide)
    | (with_reducible apply within_step (modCe_within _ _ _); decide)
    | split

theorem pwmPeriod_within (s : State) (n : NibIx) :
    Within [.nibs] s (pwmPeriod s n) := by
  unfold pwmPeriod
  repeat' first
    | with_reducible apply within_refl
    | with_reducible assumption
    | (with_reducible apply within_ite <;> intro _)
    | (extract_lets +onlyGivenNames u
       first
       | (refine within_cut (v := u) ?_ ?_
          all_goals (first | (with_reducible intro hu; revert hu; clear_value u; intro hu) | subst u))
       | clear_value u
       | subst u)
    | (with_reducible apply within_step (driveAt_within _ _ _ _); decide)
    | (with_reducible apply within_step (modNib_keeps_setup _ _ _ ?hk); (case hk => first | with_reducible rfl | (simp only [setupOf]; done) | ((try dsimp only); (repeat' split) <;> (simp only [setupOf]; done))); decide)
    | (with_reducible apply within_step (modNib_within _ _ _); decide)
    | split

theorem cePeriods_within (s : State) (e : CeIx) :
    Within [.nibs, .counters] s (cePeriods s e) := by
  unfold cePeriods
  repeat' first
    | with_reducible apply within_refl
    | with_reducible assumption
    | (with_reducible apply within_ite <;> intro _)
    | (extract_lets +onlyGivenNames u
       first
       | (refine within_cut (v := u) ?_ ?_
          all_goals (first | (with_reducible intro hu; revert hu; clear_value u; intro hu) | subst u))
       | clear_value u
       | subst u)
    | (with_reducible apply within_step (modCe_within _ _ _); decide)
    | (with_reducible apply within_step (pwmPeriod_within _ _); decide)
    | (with_reducible apply within_forAll; intro _ _)
    | split

theorem ceReview_within (s : State) (e : CeIx) :
    Within [.counters] s (ceReview s e) := by
  unfold ceReview
  repeat' first
    | with_reducible apply within_refl
    | with_reducible assumption
    | (with_reducible apply within_ite <;> intro _)
    | (extract_lets +onlyGivenNames u
       first
       | (refine within_cut (v := u) ?_ ?_
          all_goals (first | (with_reducible intro hu; revert hu; clear_value u; intro hu) | subst u))
       | clear_value u
       | subst u)
    | (with_reducible apply within_step (modCe_within _ _ _); decide)
    | split

theorem setCeCtrl_within (s : State) (e : CeIx) (v : Word) (path : Bool) :
    Within [.counters] s (setCeCtrl s e v path) := by
  unfold setCeCtrl
  repeat' first
    | with_reducible apply within_refl
    | with_reducible assumption
    | (with_reducible apply within_ite <;> intro _)
    | (extract_lets +onlyGivenNames u
       first
       | (refine within_cut (v := u) ?_ ?_
          all_goals (first | (with_reducible intro hu; revert hu; clear_value u; intro hu) | subst u))
       | clear_value u
       | subst u)
    | (with_reducible apply within_step (ceReview_within _ _); decide)
    | (with_reducible apply within_step (modCe_within _ _ _); decide)
    | split

theorem writeCeCtrl_within (s : State) (e : CeIx) (v : Word) (rank : Nat) :
    Within [.counters] s (writeCeCtrl s e v rank) := by
  unfold writeCeCtrl
  repeat' first
    | with_reducible apply within_refl
    | with_reducible assumption
    | (with_reducible apply within_step (modCe_within _ _ _); decide)
    | (with_reducible apply within_step (setCeCtrl_within _ _ _ _); decide)
    | split

theorem ceTick_within (s : State) :
    Within [.counters] s (ceTick s) := by
  unfold ceTick
  repeat' first
    | with_reducible apply within_refl
    | with_reducible assumption
    | (with_reducible apply within_ite <;> intro _)
    | (with_reducible apply within_step (ceReview_within _ _); decide)
    | (with_reducible apply within_step (modCe_within _ _ _); decide)
    | (with_reducible apply within_forAll; intro _ _)
    | split

theorem writeCeWin_within (s : State) (p : Path) (e : CeIx) (v : Word) :
    Within [.counters] s (writeCeWin s p e v) := by
  unfold writeCeWin
  repeat' first
    | with_reducible apply within_refl
    | with_reducible assumption
    | (extract_lets +onlyGivenNames u
       first
       | (refine within_cut (v := u) ?_ ?_
          all_goals (first | (with_reducible intro hu; revert hu; clear_value u; intro hu) | subst u))
       | clear_value u
       | subst u)
    | (with_reducible apply within_step (modCe_within _ _ _); decide)
    | split

theorem writeCeCount_within (s : State) (e : CeIx) (v : W64) (rank : Nat) :
    Within [.counters] s (writeCeCount s e v rank) := by
  unfold writeCeCount
  repeat' first
    | with_reducible apply within_refl
    | with_reducible assumption
    | (with_reducible apply within_ite <;> intro _)
    | (with_reducible apply within_step (modCe_within _ _ _); decide)
    | split

theorem ceWrite_within (s : State) (p : Path) (e : CeIx) (off : Nat) (v : Word) :
    Within [.counters] s (ceWrite s p e off v) := by
  unfold ceWrite
  repeat' first
    | with_reducible apply within_refl
    | with_reducible assumption
    | (with_reducible apply within_step (modCe_within _ _ _); decide)
    | (with_reducible apply within_step (writeCeCtrl_within _ _ _ _); decide)
    | split

theorem ceRecordWrite_within (s : State) (e : CeIx) (off : Nat) (v : W64) (wide : Bool) :
    Within [.counters] s (ceRecordWrite s e off v wide) := by
  unfold ceRecordWrite
  repeat' first
    | with_reducible apply within_refl
    | with_reducible assumption
    | (with_reducible apply within_ite <;> intro _)
    | (extract_lets +onlyGivenNames u
       first
       | (refine within_cut (v := u) ?_ ?_
          all_goals (first | (with_reducible intro hu; revert hu; clear_value u; intro hu) | subst u))
       | clear_value u
       | subst u)
    | (with_reducible apply within_step (modCe_within _ _ _); decide)
    | (with_reducible apply within_step (writeCeCount_within _ _ _ _); decide)
    | (with_reducible apply within_step (writeCeCtrl_within _ _ _ _); decide)
    | split

end Sys2Proof.Machine
end

