-- ==== Sys2Proof/Laws/PartsStrokes.lean ====
section
/-! SUPPORT. The parts of the state that each operation of Machine/Strokes.lean can change. -/
namespace Sys2Proof.Machine

theorem dropStroke_within (s : State) (n : NibIx) (r : W128) (st : StrokeStatus) :
    Within [.inboxes, .nibs, .streams, .eic, .raises, .blotter] s (dropStroke s n r st) := by
  unfold dropStroke
  repeat' first
    | with_reducible apply within_refl
    | with_reducible assumption
    | (with_reducible apply within_ite <;> intro _)
    | (with_reducible apply within_step (raiseNibEvent_within _ _ _); decide)
    | (with_reducible apply within_step (writeStatus_within _ _ _ _ _ _); decide)
    | split

theorem dropFull_within (s : State) (n : NibIx) (r : W128) :
    Within [.inboxes, .nibs, .streams, .eic, .raises, .blotter] s (dropFull s n r) := by
  unfold dropFull
  repeat' first
    | with_reducible apply within_refl
    | with_reducible assumption
    | (with_reducible apply within_step (raiseFault_within _ _ _); decide)
    | (with_reducible apply within_step (raiseNibEvent_within _ _ _); decide)
    | (with_reducible apply within_step (writeStatus_within _ _ _ _ _ _); decide)

theorem enterStroke_within (s : State) (n : NibIx) (r : W128) (order : Nat) :
    Within [.inboxes, .nibs, .streams, .eic, .raises, .blotter] s (enterStroke s n r order) := by
  unfold enterStroke
  repeat' first
    | with_reducible apply within_refl
    | with_reducible assumption
    | (with_reducible apply within_ite <;> intro _)
    | (extract_lets +onlyGivenNames u
       first
       | (refine within_cut (v := u) ?_ ?_
          all_goals (first | (with_reducible intro hu; revert hu; clear_value u; intro hu) | subst u))
       | clear_value u
       | subst u)
    | (with_reducible apply within_step (dropFull_within _ _ _); decide)
    | (with_reducible apply within_step (lockStroke_within _ _ _ _ _); decide)
    | (with_reducible apply within_step (modNib_keeps_setup _ _ _ ?hk); (case hk => first | with_reducible rfl | (simp only [setupOf]; done) | ((try dsimp only); (repeat' split) <;> (simp only [setupOf]; done))); decide)
    | (with_reducible apply within_step (modNib_within _ _ _); decide)
    | (with_reducible apply within_step (putSlot_within _ _ _ _); decide)
    | split

theorem cancelTagged_within (s : State) (n : NibIx) (k : SlotIx) :
    Within [.inboxes, .nibs, .streams, .eic, .raises, .blotter] s (cancelTagged s n k) := by
  unfold cancelTagged
  repeat' first
    | with_reducible apply within_refl
    | with_reducible assumption
    | (with_reducible apply within_ite <;> intro _)
    | (extract_lets +onlyGivenNames u
       first
       | (refine within_cut (v := u) ?_ ?_
          all_goals (first | (with_reducible intro hu; revert hu; clear_value u; intro hu) | subst u))
       | clear_value u
       | subst u)
    | (with_reducible apply within_step (cancelSlot_within _ _ _ _); decide)
    | (with_reducible apply within_step (endPattern_within _ _); decide)
    | split

theorem cancelHeld_within (s : State) (n : NibIx) (tag : Nat) :
    Within [.nibs] s (cancelHeld s n tag) := by
  unfold cancelHeld
  repeat' first
    | with_reducible apply within_refl
    | with_reducible assumption
    | (with_reducible apply within_ite <;> intro _)
    | (with_reducible apply within_step (modSlot_within _ _ _ _); decide)
    | (with_reducible apply within_forAll; intro _ _)
    | split

theorem actCancel_within (s : State) (n : NibIx) (r : W128) :
    Within [.inboxes, .nibs, .streams, .eic, .raises, .blotter] s (actCancel s n r) := by
  unfold actCancel
  repeat' first
    | with_reducible apply within_refl
    | with_reducible assumption
    | (extract_lets +onlyGivenNames u
       first
       | (refine within_cut (v := u) ?_ ?_
          all_goals (first | (with_reducible intro hu; revert hu; clear_value u; intro hu) | subst u))
       | clear_value u
       | subst u)
    | (with_reducible apply within_step (cancelHeld_within _ _ _); decide)
    | (with_reducible apply within_step (cancelTagged_within _ _ _); decide)
    | (with_reducible apply within_step (writeStatus_within _ _ _ _ _ _); decide)
    | (with_reducible apply within_forAll; intro _ _)
    | split

theorem cancelStroke_within (s : State) (q : QuillIx) (r : W128) :
    Within [.inboxes, .nibs, .streams, .eic, .raises, .blotter] s (cancelStroke s q r) := by
  unfold cancelStroke
  repeat' first
    | with_reducible apply within_refl
    | with_reducible assumption
    | (extract_lets +onlyGivenNames u
       first
       | (refine within_cut (v := u) ?_ ?_
          all_goals (first | (with_reducible intro hu; revert hu; clear_value u; intro hu) | subst u))
       | clear_value u
       | subst u)
    | (with_reducible apply within_step (actCancel_within _ _ _); decide)
    | (with_reducible apply within_step (dropStroke_within _ _ _ _); decide)
    | split

theorem acceptStroke_within (s : State) (q : QuillIx) (r : W128) (order : Nat) :
    Within [.inboxes, .nibs, .streams, .eic, .raises, .blotter] s (acceptStroke s q r order) := by
  unfold acceptStroke
  repeat' first
    | with_reducible apply within_refl
    | with_reducible assumption
    | (with_reducible apply within_ite <;> intro _)
    | (extract_lets +onlyGivenNames u
       first
       | (refine within_cut (v := u) ?_ ?_
          all_goals (first | (with_reducible intro hu; revert hu; clear_value u; intro hu) | subst u))
       | clear_value u
       | subst u)
    | (with_reducible apply within_step (dropFull_within _ _ _); decide)
    | (with_reducible apply within_step (dropStroke_within _ _ _ _); decide)
    | (with_reducible apply within_step (enterStroke_within _ _ _ _); decide)
    | (with_reducible apply within_step (modNib_keeps_setup _ _ _ ?hk); (case hk => first | with_reducible rfl | (simp only [setupOf]; done) | ((try dsimp only); (repeat' split) <;> (simp only [setupOf]; done))); decide)
    | (with_reducible apply within_step (modNib_within _ _ _); decide)
    | split

theorem commitStroke_within (s : State) (q : QuillIx) (r : W128) (order : Nat) :
    Within [.inboxes, .nibs, .streams, .eic, .raises, .blotter] s (commitStroke s q r order) := by
  unfold commitStroke
  repeat' first
    | with_reducible apply within_refl
    | with_reducible assumption
    | (with_reducible apply within_step (acceptStroke_within _ _ _ _); decide)
    | (with_reducible apply within_step (cancelStroke_within _ _ _); decide)
    | split

theorem strokeAct_within (s : State) (n : NibIx) (k : SlotIx) (a : Action) :
    Within [.inboxes, .nibs, .links, .streams, .eic, .raises, .blotter, .ink, .co] s (strokeAct s n k a) := by
  unfold strokeAct
  repeat' first
    | with_reducible apply within_refl
    | with_reducible assumption
    | (with_reducible apply within_ite <;> intro _)
    | (with_reducible apply within_step (fireSlot_within _ _ _); decide)
    | split

theorem pwmStep_within (s : State) (n : NibIx) :
    Within [.nibs, .eic, .raises, .blotter] s (pwmStep s n) := by
  unfold pwmStep
  repeat' first
    | with_reducible apply within_refl
    | with_reducible assumption
    | (with_reducible apply within_ite <;> intro _)
    | (extract_lets +onlyGivenNames u
       first
       | (refine within_cut (v := u) ?_ ?_
          all_goals (first | (with_reducible intro hu; revert hu; clear_value u; intro hu) | subst u))
       | clear_value u
       | subst u)
    | (with_reducible apply within_step (driveAt_within _ _ _ _); decide)
    | (with_reducible apply within_step (modNib_keeps_setup _ _ _ ?hk); (case hk => first | with_reducible rfl | (simp only [setupOf]; done) | ((try dsimp only); (repeat' split) <;> (simp only [setupOf]; done))); decide)
    | (with_reducible apply within_step (modNib_within _ _ _); decide)
    | (with_reducible apply within_step (raiseNibEvent_within _ _ _); decide)
    | split

theorem safeNFalls_within (s : State) :
    Within [.inboxes, .nibs, .nibSetup, .links, .safeLow, .streams, .eic, .raises, .blotter, .ink, .co, .reflexDue] s (safeNFalls s) := by
  unfold safeNFalls
  repeat' first
    | with_reducible apply within_refl
    | with_reducible assumption
    | (extract_lets +onlyGivenNames u
       first
       | (refine within_cut (v := u) ?_ ?_
          all_goals (first | (with_reducible intro hu; revert hu; clear_value u; intro hu) | subst u))
       | clear_value u
       | subst u)
    | (with_reducible apply within_step (causeReflex_within _ _ _); decide)
    | (with_reducible apply within_step (raiseFault_within _ _ _); decide)
    | (with_reducible apply within_step (reviewSafe_within _); decide)
    | split
    | (intro k hk; cases k <;> first | exact absurd (by decide) hk | exact hu _ hk | rfl | exact ⟨rfl, rfl⟩ | exact ⟨rfl, rfl, rfl, rfl⟩)

theorem safeNRises_within (s : State) :
    Within [.nibs, .nibSetup, .safeLow, .power] s (safeNRises s) := by
  unfold safeNRises
  repeat' first
    | with_reducible apply within_refl
    | with_reducible assumption
    | (with_reducible apply within_step (modPower_keeps_mode _ _ ?hk); (case hk => first | with_reducible rfl | ((try dsimp only); (repeat' split) <;> with_reducible rfl)); decide)
    | split
    | (intro k hk; cases k <;> first | exact absurd (by decide) hk | exact hu _ hk | rfl | exact ⟨rfl, rfl⟩ | exact ⟨rfl, rfl, rfl, rfl⟩)

theorem reflexFire_within (s : State) (l : LinkIx) :
    Within [.inboxes, .nibs, .links, .streams, .eic, .raises, .blotter, .ink, .co] s (reflexFire s l) := by
  unfold reflexFire
  repeat' first
    | with_reducible apply within_refl
    | with_reducible assumption
    | (with_reducible apply within_ite <;> intro _)
    | (extract_lets +onlyGivenNames u
       first
       | (refine within_cut (v := u) ?_ ?_
          all_goals (first | (with_reducible intro hu; revert hu; clear_value u; intro hu) | subst u))
       | clear_value u
       | subst u)
    | (with_reducible apply within_step (deliverEvent_within _ _ _ _ _); decide)
    | (with_reducible apply within_step (fireBefore_within _ _ _ _); decide)
    | (with_reducible apply within_step (modLink_within _ _ _); decide)
    | (with_reducible apply within_step (modNib_keeps_setup _ _ _ ?hk); (case hk => first | with_reducible rfl | (simp only [setupOf]; done) | ((try dsimp only); (repeat' split) <;> (simp only [setupOf]; done))); decide)
    | (with_reducible apply within_step (modNib_within _ _ _); decide)
    | (with_reducible apply within_step (placeEdge_within _ _ _ _ _); decide)
    | split

theorem reflexAct_within (s : State) (l : LinkIx) :
    Within [.inboxes, .nibs, .links, .streams, .eic, .raises, .blotter, .ink, .co] s (reflexAct s l) := by
  unfold reflexAct
  repeat' first
    | with_reducible apply within_refl
    | with_reducible assumption
    | (with_reducible apply within_ite <;> intro _)
    | (extract_lets +onlyGivenNames u
       first
       | (refine within_cut (v := u) ?_ ?_
          all_goals (first | (with_reducible intro hu; revert hu; clear_value u; intro hu) | subst u))
       | clear_value u
       | subst u)
    | (with_reducible apply within_step (modLink_within _ _ _); decide)
    | (with_reducible apply within_step (modNib_keeps_setup _ _ _ ?hk); (case hk => first | with_reducible rfl | (simp only [setupOf]; done) | ((try dsimp only); (repeat' split) <;> (simp only [setupOf]; done))); decide)
    | (with_reducible apply within_step (modNib_within _ _ _); decide)
    | (with_reducible apply within_step (reflexFire_within _ _); decide)
    | split

theorem linkReview_within (s : State) (l : LinkIx) :
    Within [.links] s (linkReview s l) := by
  unfold linkReview
  repeat' first
    | with_reducible apply within_refl
    | with_reducible assumption
    | (with_reducible apply within_ite <;> intro _)
    | (extract_lets +onlyGivenNames u
       first
       | (refine within_cut (v := u) ?_ ?_
          all_goals (first | (with_reducible intro hu; revert hu; clear_value u; intro hu) | subst u))
       | clear_value u
       | subst u)
    | (with_reducible apply within_step (modLink_within _ _ _); decide)
    | split

theorem writeRlCtrl_within (s : State) (l : LinkIx) (v : Word) :
    Within [.links] s (writeRlCtrl s l v) := by
  unfold writeRlCtrl
  repeat' first
    | with_reducible apply within_refl
    | with_reducible assumption
    | (with_reducible apply within_ite <;> intro _)
    | (extract_lets +onlyGivenNames u
       first
       | (refine within_cut (v := u) ?_ ?_
          all_goals (first | (with_reducible intro hu; revert hu; clear_value u; intro hu) | subst u))
       | clear_value u
       | subst u)
    | (with_reducible apply within_step (linkReview_within _ _); decide)
    | (with_reducible apply within_step (modLink_within _ _ _); decide)
    | split

theorem rlWrite_within (s : State) (l : LinkIx) (off : Nat) (v : Word) :
    Within [.links] s (rlWrite s l off v) := by
  unfold rlWrite
  repeat' first
    | with_reducible apply within_refl
    | with_reducible assumption
    | (with_reducible apply within_ite <;> intro _)
    | (with_reducible apply within_step (modLink_within _ _ _); decide)
    | (with_reducible apply within_step (writeRlCtrl_within _ _ _); decide)
    | split

theorem vernierFails_within (s : State) (n : NibIx) (second : Bool) :
    Within [.nibs, .nibSetup, .eic, .raises, .blotter] s (vernierFails s n second) := by
  unfold vernierFails
  repeat' first
    | with_reducible apply within_refl
    | with_reducible assumption
    | (with_reducible apply within_ite <;> intro _)
    | (extract_lets +onlyGivenNames u
       first
       | (refine within_cut (v := u) ?_ ?_
          all_goals (first | (with_reducible intro hu; revert hu; clear_value u; intro hu) | subst u))
       | clear_value u
       | subst u)
    | (with_reducible apply within_step (modNib_keeps_setup _ _ _ ?hk); (case hk => first | with_reducible rfl | (simp only [setupOf]; done) | ((try dsimp only); (repeat' split) <;> (simp only [setupOf]; done))); decide)
    | (with_reducible apply within_step (modNib_keeps_doing _ _ _ ?hk); (case hk => first | with_reducible rfl | (simp only [doingOf]; done) | ((try dsimp only); (repeat' split) <;> (simp only [doingOf]; done))); decide)
    | (with_reducible apply within_step (modNib_within _ _ _); decide)
    | (with_reducible apply within_step (raiseFault_within _ _ _); decide)
    | (with_reducible apply within_step (raiseNibEvent_within _ _ _); decide)
    | split

theorem vernierSwap_within (s : State) (n : NibIx) :
    Within [.nibSetup] s (vernierSwap s n) := by
  unfold vernierSwap
  repeat' first
    | with_reducible apply within_refl
    | with_reducible assumption
    | (with_reducible apply within_ite <;> intro _)
    | (extract_lets +onlyGivenNames u
       first
       | (refine within_cut (v := u) ?_ ?_
          all_goals (first | (with_reducible intro hu; revert hu; clear_value u; intro hu) | subst u))
       | clear_value u
       | subst u)
    | (with_reducible apply within_step (modNib_keeps_setup _ _ _ ?hk); (case hk => first | with_reducible rfl | (simp only [setupOf]; done) | ((try dsimp only); (repeat' split) <;> (simp only [setupOf]; done))); decide)
    | (with_reducible apply within_step (modNib_keeps_doing _ _ _ ?hk); (case hk => first | with_reducible rfl | (simp only [doingOf]; done) | ((try dsimp only); (repeat' split) <;> (simp only [doingOf]; done))); decide)
    | (with_reducible apply within_step (modNib_within _ _ _); decide)
    | split

theorem driveDirect_within (s : State) (n : NibIx) :
    Within [.nibs, .nibSetup] s (driveDirect s n) := by
  unfold driveDirect
  repeat' first
    | with_reducible apply within_refl
    | with_reducible assumption
    | (with_reducible apply within_ite <;> intro _)
    | (extract_lets +onlyGivenNames u
       first
       | (refine within_cut (v := u) ?_ ?_
          all_goals (first | (with_reducible intro hu; revert hu; clear_value u; intro hu) | subst u))
       | clear_value u
       | subst u)
    | (with_reducible apply within_step (setDrive_within _ _ _); decide)
    | split

theorem nibReview_within (s : State) (n : NibIx) :
    Within [.inboxes, .nibs, .nibSetup, .streams, .eic, .raises, .blotter] s (nibReview s n) := by
  unfold nibReview
  repeat' first
    | with_reducible apply within_refl
    | with_reducible assumption
    | (with_reducible apply within_ite <;> intro _)
    | (extract_lets +onlyGivenNames u
       first
       | (refine within_cut (v := u) ?_ ?_
          all_goals (first | (with_reducible intro hu; revert hu; clear_value u; intro hu) | subst u))
       | clear_value u
       | subst u)
    | (with_reducible apply within_step (disableNib_within _ _); decide)
    | (with_reducible apply within_step (enableNib_within _ _); decide)
    | split

theorem writeNibCtrl_within (s : State) (n : NibIx) (v : Word) :
    Within [.inboxes, .nibs, .nibSetup, .streams, .eic, .raises, .blotter] s (writeNibCtrl s n v) := by
  unfold writeNibCtrl
  repeat' first
    | with_reducible apply within_refl
    | with_reducible assumption
    | (with_reducible apply within_ite <;> intro _)
    | (extract_lets +onlyGivenNames u
       first
       | (refine within_cut (v := u) ?_ ?_
          all_goals (first | (with_reducible intro hu; revert hu; clear_value u; intro hu) | subst u))
       | clear_value u
       | subst u)
    | (with_reducible apply within_step (driveDirect_within _ _); decide)
    | (with_reducible apply within_step (modNib_keeps_setup _ _ _ ?hk); (case hk => first | with_reducible rfl | (simp only [setupOf]; done) | ((try dsimp only); (repeat' split) <;> (simp only [setupOf]; done))); decide)
    | (with_reducible apply within_step (modNib_keeps_doing _ _ _ ?hk); (case hk => first | with_reducible rfl | (simp only [doingOf]; done) | ((try dsimp only); (repeat' split) <;> (simp only [doingOf]; done))); decide)
    | (with_reducible apply within_step (modNib_within _ _ _); decide)
    | (with_reducible apply within_step (nibReview_within _ _); decide)
    | split

theorem writeNibSafe_within (s : State) (n : NibIx) (v : Word) :
    Within [.inboxes, .nibs, .nibSetup, .links, .streams, .eic, .raises, .blotter, .ink, .co] s (writeNibSafe s n v) := by
  unfold writeNibSafe
  repeat' first
    | with_reducible apply within_refl
    | with_reducible assumption
    | (with_reducible apply within_ite <;> intro _)
    | (extract_lets +onlyGivenNames u
       first
       | (refine within_cut (v := u) ?_ ?_
          all_goals (first | (with_reducible intro hu; revert hu; clear_value u; intro hu) | subst u))
       | clear_value u
       | subst u)
    | (with_reducible apply within_step (modNib_keeps_setup _ _ _ ?hk); (case hk => first | with_reducible rfl | (simp only [setupOf]; done) | ((try dsimp only); (repeat' split) <;> (simp only [setupOf]; done))); decide)
    | (with_reducible apply within_step (modNib_keeps_doing _ _ _ ?hk); (case hk => first | with_reducible rfl | (simp only [doingOf]; done) | ((try dsimp only); (repeat' split) <;> (simp only [doingOf]; done))); decide)
    | (with_reducible apply within_step (modNib_within _ _ _); decide)
    | (with_reducible apply within_step (reviewSafe_within _); decide)
    | (with_reducible apply within_step (setDrive_within _ _ _); decide)
    | split

end Sys2Proof.Machine
end

