-- ==== Sys2Proof/Laws/PartsCapture.lean ====
section
/-! SUPPORT. The parts of the state that each operation of Machine/Capture.lean can change. -/
namespace Sys2Proof.Machine

theorem toRegister_within (s : State) (n : NibIx) (record : W128) :
    Within [.nibs] s (toRegister s n record).1 := by
  unfold toRegister
  repeat' first
    | with_reducible apply within_refl
    | with_reducible assumption
    | (with_reducible apply within_step (modNibIn_keeps_setup _ _ _ ?hk); (case hk => first | with_reducible rfl | (simp only [setupOf]; done) | ((try dsimp only); (repeat' split) <;> (simp only [setupOf]; done))); decide)
    | (with_reducible apply within_step (modNibIn_within _ _ _); decide)
    | split

theorem nibRecord_within (s : State) (n : NibIx) (type : Nat) (stamp : Option Word) (value : Word) (time : W64) (bit : Nat) :
    Within [.inboxes, .nibs, .streams, .eic, .raises, .blotter, .power] s (nibRecord s n type stamp value time bit) := by
  unfold nibRecord
  repeat' first
    | with_reducible apply within_refl
    | with_reducible assumption
    | (with_reducible apply within_ite <;> intro _)
    | (extract_lets +onlyGivenNames u
       first
       | (refine within_cut (v := u) ?_ ?_
          all_goals (first | (with_reducible intro hu; revert hu; clear_value u; intro hu) | subst u))
       | clear_value u
       | subst u)
    | (with_reducible apply within_step (enqueue_within _ _ _ _ _); decide)
    | (with_reducible apply within_step (modNibIn_keeps_setup _ _ _ ?hk); (case hk => first | with_reducible rfl | (simp only [setupOf]; done) | ((try dsimp only); (repeat' split) <;> (simp only [setupOf]; done))); decide)
    | (with_reducible apply within_step (modNibIn_within _ _ _); decide)
    | (with_reducible apply within_step (noteWake_within _ _); decide)
    | (with_reducible apply within_step (pushStream_within _ _ _ _ _); decide)
    | (with_reducible apply within_step (raiseNibEvent_within _ _ _); decide)
    | (with_reducible apply within_step (toRegister_within _ _ _); decide)
    | (with_reducible apply within_fst (toRegister_within _ _ _); with_reducible assumption; decide)
    | (with_reducible apply within_forAll; intro _ _)
    | split

theorem edgeCapture_within (s : State) (n : NibIx) (rising : Bool) (t : W64) :
    Within [.inboxes, .nibs, .streams, .eic, .raises, .blotter, .power] s (edgeCapture s n rising t) := by
  unfold edgeCapture
  repeat' first
    | with_reducible apply within_refl
    | with_reducible assumption
    | (with_reducible apply within_ite <;> intro _)
    | (with_reducible apply within_step (nibRecord_within _ _ _ _ _ _ _); decide)
    | split

theorem edgeMeasure_within (s : State) (n : NibIx) (rising : Bool) (t : W64) (ok : Bool) :
    Within [.inboxes, .nibs, .streams, .eic, .raises, .blotter, .power] s (edgeMeasure s n rising t ok) := by
  unfold edgeMeasure
  repeat' first
    | with_reducible apply within_refl
    | with_reducible assumption
    | (with_reducible apply within_ite <;> intro _)
    | (extract_lets +onlyGivenNames u
       first
       | (refine within_cut (v := u) ?_ ?_
          all_goals (first | (with_reducible intro hu; revert hu; clear_value u; intro hu) | subst u))
       | clear_value u
       | subst u)
    | (with_reducible apply within_step (modNibIn_keeps_setup _ _ _ ?hk); (case hk => first | with_reducible rfl | (simp only [setupOf]; done) | ((try dsimp only); (repeat' split) <;> (simp only [setupOf]; done))); decide)
    | (with_reducible apply within_step (modNibIn_within _ _ _); decide)
    | (with_reducible apply within_step (nibRecord_within _ _ _ _ _ _ _); decide)
    | split

theorem ppsEdge_within (s : State) (n : NibIx) (rising : Bool) (t : W64) :
    Within [.time, .eic, .raises, .blotter] s (ppsEdge s n rising t) := by
  unfold ppsEdge
  repeat' first
    | with_reducible apply within_refl
    | with_reducible assumption
    | (with_reducible apply within_ite <;> intro _)
    | (extract_lets +onlyGivenNames u
       first
       | (refine within_cut (v := u) ?_ ?_
          all_goals (first | (with_reducible intro hu; revert hu; clear_value u; intro hu) | subst u))
       | clear_value u
       | subst u)
    | (with_reducible apply within_step (deliverEvent_within _ _ _ _ _); decide)
    | (with_reducible apply within_step (modPps_within _ _); decide)
    | split

theorem recordEdge_within (s : State) (n : NibIx) (rising : Bool) (t : W64) :
    Within [.inboxes, .nibs, .nibSetup, .streams, .eic, .raises, .blotter, .power] s (recordEdge s n rising t) := by
  unfold recordEdge
  repeat' first
    | with_reducible apply within_refl
    | with_reducible assumption
    | (with_reducible apply within_ite <;> intro _)
    | (extract_lets +onlyGivenNames u
       first
       | (refine within_cut (v := u) ?_ ?_
          all_goals (first | (with_reducible intro hu; revert hu; clear_value u; intro hu) | subst u))
       | clear_value u
       | subst u)
    | (with_reducible apply within_step (edgeCapture_within _ _ _ _); decide)
    | (with_reducible apply within_step (edgeMeasure_within _ _ _ _ _); decide)
    | (with_reducible apply within_step (modNibIn_keeps_setup _ _ _ ?hk); (case hk => first | with_reducible rfl | (simp only [setupOf]; done) | ((try dsimp only); (repeat' split) <;> (simp only [setupOf]; done))); decide)
    | (with_reducible apply within_step (modNibIn_within _ _ _); decide)
    | split

theorem recordInOrder_within (s : State) (n : NibIx) (rising : Bool) (t : W64) :
    Within [.inboxes, .nibs, .nibSetup, .streams, .eic, .raises, .blotter, .power] s (recordInOrder s n rising t) := by
  unfold recordInOrder
  repeat' first
    | with_reducible apply within_refl
    | with_reducible assumption
    | (with_reducible apply within_ite <;> intro _)
    | (with_reducible apply within_step (modNibIn_keeps_setup _ _ _ ?hk); (case hk => first | with_reducible rfl | (simp only [setupOf]; done) | ((try dsimp only); (repeat' split) <;> (simp only [setupOf]; done))); decide)
    | (with_reducible apply within_step (modNibIn_within _ _ _); decide)
    | (with_reducible apply within_step (recordEdge_within _ _ _ _); decide)
    | split

theorem recordLate_within (all : Bool) (n : NibIx) (l : List (Bool × W64)) (s : State) :
    Within [.inboxes, .nibs, .nibSetup, .streams, .eic, .raises, .blotter, .power] s (recordLate all n l s) := by
  induction l generalizing s with
  | nil => exact within_refl _ _
  | cons e rest ih =>
    unfold recordLate
    extract_lets t
    have ht : Within [.inboxes, .nibs, .nibSetup, .streams, .eic, .raises, .blotter, .power] s t := within_mono (modNibIn_within _ _ _) (by decide)
    refine within_ite (fun _ => within_step (modNibIn_within _ _ _) (by decide) ht) fun _ => ?_
    exact within_step (ih _) (List.Subset.refl _) (within_step (recordEdge_within _ _ _ _) (by decide) ht)

theorem acceptEdge_within (s : State) (n : NibIx) (rising : Bool) (t : W64) :
    Within [.time, .inboxes, .nibs, .nibSetup, .streams, .trackers, .eic, .raises, .blotter, .power, .reflexDue] s (acceptEdge s n rising t) := by
  unfold acceptEdge
  repeat' first
    | with_reducible apply within_refl
    | with_reducible assumption
    | (with_reducible apply within_ite <;> intro _)
    | (extract_lets +onlyGivenNames u
       first
       | (refine within_cut (v := u) ?_ ?_
          all_goals (first | (with_reducible intro hu; revert hu; clear_value u; intro hu) | subst u))
       | clear_value u
       | subst u)
    | (with_reducible apply within_step (causeReflex_within _ _ _); decide)
    | (with_reducible apply within_step (edgeToTrackers_within _ _ _ _); decide)
    | (with_reducible apply within_step (externalEvent_within _ _ _ _); decide)
    | (with_reducible apply within_step (modNibIn_keeps_setup _ _ _ ?hk); (case hk => first | with_reducible rfl | (simp only [setupOf]; done) | ((try dsimp only); (repeat' split) <;> (simp only [setupOf]; done))); decide)
    | (with_reducible apply within_step (modNibIn_keeps_doing _ _ _ ?hk); (case hk => first | with_reducible rfl | (simp only [doingOf]; done) | ((try dsimp only); (repeat' split) <;> (simp only [doingOf]; done))); decide)
    | (with_reducible apply within_step (modNibIn_within _ _ _); decide)
    | (with_reducible apply within_step (ppsEdge_within _ _ _ _); decide)
    | (with_reducible apply within_step (recordInOrder_within _ _ _ _); decide)
    | split

theorem seeLevel_within (s : State) (n : NibIx) (m : Held) :
    Within [.time, .inboxes, .nibs, .nibSetup, .streams, .trackers, .eic, .raises, .blotter, .power, .reflexDue] s (seeLevel s n m) := by
  unfold seeLevel
  repeat' first
    | with_reducible apply within_refl
    | with_reducible assumption
    | (with_reducible apply within_ite <;> intro _)
    | (extract_lets +onlyGivenNames u
       first
       | (refine within_cut (v := u) ?_ ?_
          all_goals (first | (with_reducible intro hu; revert hu; clear_value u; intro hu) | subst u))
       | clear_value u
       | subst u)
    | (with_reducible apply within_step (acceptEdge_within _ _ _ _); decide)
    | (with_reducible apply within_step (modNibIn_keeps_setup _ _ _ ?hk); (case hk => first | with_reducible rfl | (simp only [setupOf]; done) | ((try dsimp only); (repeat' split) <;> (simp only [setupOf]; done))); decide)
    | (with_reducible apply within_step (modNibIn_keeps_doing _ _ _ ?hk); (case hk => first | with_reducible rfl | (simp only [doingOf]; done) | ((try dsimp only); (repeat' split) <;> (simp only [doingOf]; done))); decide)
    | (with_reducible apply within_step (modNibIn_within _ _ _); decide)
    | split

theorem filterAccept_within (s : State) (n : NibIx) :
    Within [.time, .inboxes, .nibs, .nibSetup, .streams, .trackers, .eic, .raises, .blotter, .power, .reflexDue] s (filterAccept s n) := by
  unfold filterAccept
  repeat' first
    | with_reducible apply within_refl
    | with_reducible assumption
    | (with_reducible apply within_ite <;> intro _)
    | (extract_lets +onlyGivenNames u
       first
       | (refine within_cut (v := u) ?_ ?_
          all_goals (first | (with_reducible intro hu; revert hu; clear_value u; intro hu) | subst u))
       | clear_value u
       | subst u)
    | (with_reducible apply within_step (acceptEdge_within _ _ _ _); decide)
    | (with_reducible apply within_step (seeLevel_within _ _ _); decide)
    | split

theorem settleInput_within (s : State) (n : NibIx) (fuel : Nat) :
    Within [.time, .inboxes, .nibs, .nibSetup, .streams, .trackers, .eic, .raises, .blotter, .power, .reflexDue] s (settleInput s n fuel) := by
  induction fuel generalizing s with
  | zero => exact within_refl _ _
  | succ k ih =>
    unfold settleInput
    exact within_ite (fun _ => within_step (ih _) (List.Subset.refl _)
      (within_mono (filterAccept_within _ _) (by decide))) fun _ => within_refl _ _

theorem setBall_within (s : State) (pin : Nat) (level : Bool) :
    Within [.balls] s (setBall s pin level) := by
  unfold setBall
  repeat' first
    | with_reducible apply within_refl
    | with_reducible assumption
    | (with_reducible apply within_ite <;> intro _)
    | split
    | (intro k hk; cases k <;> first | exact absurd (by decide) hk | exact hu _ hk | rfl | exact ⟨rfl, rfl⟩ | exact ⟨rfl, rfl, rfl, rfl⟩)

theorem ballMoves_within (s : State) (n : NibIx) (level : Bool) (t : W64) :
    Within [.time, .inboxes, .nibs, .nibSetup, .balls, .streams, .trackers, .eic, .raises, .blotter, .power, .reflexDue] s (ballMoves s n level t) := by
  unfold ballMoves
  repeat' first
    | with_reducible apply within_refl
    | with_reducible assumption
    | (with_reducible apply within_ite <;> intro _)
    | (extract_lets +onlyGivenNames u
       first
       | (refine within_cut (v := u) ?_ ?_
          all_goals (first | (with_reducible intro hu; revert hu; clear_value u; intro hu) | subst u))
       | clear_value u
       | subst u)
    | (with_reducible apply within_step (modNibIn_keeps_setup _ _ _ ?hk); (case hk => first | with_reducible rfl | (simp only [setupOf]; done) | ((try dsimp only); (repeat' split) <;> (simp only [setupOf]; done))); decide)
    | (with_reducible apply within_step (modNibIn_keeps_doing _ _ _ ?hk); (case hk => first | with_reducible rfl | (simp only [doingOf]; done) | ((try dsimp only); (repeat' split) <;> (simp only [doingOf]; done))); decide)
    | (with_reducible apply within_step (modNibIn_within _ _ _); decide)
    | (with_reducible apply within_step (seeLevel_within _ _ _); decide)
    | (with_reducible apply within_step (setBall_within _ _ _); decide)
    | split

theorem coarseSample_within (s : State) (n : NibIx) :
    Within [.time, .inboxes, .nibs, .nibSetup, .streams, .trackers, .eic, .raises, .blotter, .power, .reflexDue] s (coarseSample s n) := by
  unfold coarseSample
  repeat' first
    | with_reducible apply within_refl
    | with_reducible assumption
    | (with_reducible apply within_ite <;> intro _)
    | (extract_lets +onlyGivenNames u
       first
       | (refine within_cut (v := u) ?_ ?_
          all_goals (first | (with_reducible intro hu; revert hu; clear_value u; intro hu) | subst u))
       | clear_value u
       | subst u)
    | (with_reducible apply within_step (acceptEdge_within _ _ _ _); decide)
    | (with_reducible apply within_step (modNibIn_keeps_setup _ _ _ ?hk); (case hk => first | with_reducible rfl | (simp only [setupOf]; done) | ((try dsimp only); (repeat' split) <;> (simp only [setupOf]; done))); decide)
    | (with_reducible apply within_step (modNibIn_keeps_doing _ _ _ ?hk); (case hk => first | with_reducible rfl | (simp only [doingOf]; done) | ((try dsimp only); (repeat' split) <;> (simp only [doingOf]; done))); decide)
    | (with_reducible apply within_step (modNibIn_within _ _ _); decide)
    | split

theorem coarseSamples_within (s : State) :
    Within [.time, .inboxes, .nibs, .nibSetup, .streams, .trackers, .eic, .raises, .blotter, .power, .reflexDue] s (coarseSamples s) := by
  unfold coarseSamples
  repeat' first
    | with_reducible apply within_refl
    | with_reducible assumption
    | (with_reducible apply within_ite <;> intro _)
    | (extract_lets +onlyGivenNames u
       first
       | (refine within_cut (v := u) ?_ ?_
          all_goals (first | (with_reducible intro hu; revert hu; clear_value u; intro hu) | subst u))
       | clear_value u
       | subst u)
    | (with_reducible apply within_step (coarseSample_within _ _); decide)
    | (with_reducible apply within_forAll; intro _ _)
    | split

theorem fineInputs_within (s : State) :
    Within [.nibs, .nibSetup] s (fineInputs s) := by
  unfold fineInputs
  repeat' first
    | with_reducible apply within_refl
    | with_reducible assumption
    | (with_reducible apply within_ite <;> intro _)
    | (extract_lets +onlyGivenNames u
       first
       | (refine within_cut (v := u) ?_ ?_
          all_goals (first | (with_reducible intro hu; revert hu; clear_value u; intro hu) | subst u))
       | clear_value u
       | subst u)
    | split
    | (intro k hk; cases k <;> first | exact absurd (by decide) hk | exact hu _ hk | rfl | exact ⟨rfl, rfl⟩ | exact ⟨rfl, rfl, rfl, rfl⟩)

theorem inputSteps_within (s : State) (d : W64) :
    Within [.nibs, .nibSetup, .channels] s (inputSteps s d) := by
  unfold inputSteps
  repeat' first
    | with_reducible apply within_refl
    | with_reducible assumption
    | (extract_lets +onlyGivenNames u
       first
       | (refine within_cut (v := u) ?_ ?_
          all_goals (first | (with_reducible intro hu; revert hu; clear_value u; intro hu) | subst u))
       | clear_value u
       | subst u)
    | split
    | (intro k hk; cases k <;> first | exact absurd (by decide) hk | exact hu _ hk | rfl | exact ⟨rfl, rfl⟩ | exact ⟨rfl, rfl, rfl, rfl⟩)

theorem windowEmpty_within (s : State) (n : NibIx) :
    Within [.inboxes, .nibs, .nibSetup, .streams, .eic, .raises, .blotter, .power] s (windowEmpty s n) := by
  unfold windowEmpty
  repeat' first
    | with_reducible apply within_refl
    | with_reducible assumption
    | (with_reducible apply within_ite <;> intro _)
    | (extract_lets +onlyGivenNames u
       first
       | (refine within_cut (v := u) ?_ ?_
          all_goals (first | (with_reducible intro hu; revert hu; clear_value u; intro hu) | subst u))
       | clear_value u
       | subst u)
    | (with_reducible apply within_step (modNibIn_keeps_setup _ _ _ ?hk); (case hk => first | with_reducible rfl | (simp only [setupOf]; done) | ((try dsimp only); (repeat' split) <;> (simp only [setupOf]; done))); decide)
    | (with_reducible apply within_step (modNibIn_within _ _ _); decide)
    | (with_reducible apply within_step (nibRecord_within _ _ _ _ _ _ _); decide)
    | (with_reducible apply within_step (recordLate_within _ _ _ _); decide)
    | split

theorem gatesTick_within (s : State) (cut : Bool) :
    Within [.nibs, .nibSetup] s (gatesTick s cut) := by
  unfold gatesTick
  repeat' first
    | with_reducible apply within_refl
    | with_reducible assumption
    | (with_reducible apply within_ite <;> intro _)
    | split
    | (intro k hk; cases k <;> first | exact absurd (by decide) hk | exact hu _ hk | rfl | exact ⟨rfl, rfl⟩ | exact ⟨rfl, rfl, rfl, rfl⟩)

theorem freqRecord_within (s : State) (n : NibIx) :
    Within [.inboxes, .nibs, .nibSetup, .streams, .eic, .raises, .blotter, .power] s (freqRecord s n) := by
  unfold freqRecord
  repeat' first
    | with_reducible apply within_refl
    | with_reducible assumption
    | (with_reducible apply within_step (modNibIn_keeps_setup _ _ _ ?hk); (case hk => first | with_reducible rfl | (simp only [setupOf]; done) | ((try dsimp only); (repeat' split) <;> (simp only [setupOf]; done))); decide)
    | (with_reducible apply within_step (modNibIn_keeps_doing _ _ _ ?hk); (case hk => first | with_reducible rfl | (simp only [doingOf]; done) | ((try dsimp only); (repeat' split) <;> (simp only [doingOf]; done))); decide)
    | (with_reducible apply within_step (modNibIn_within _ _ _); decide)
    | (with_reducible apply within_step (nibRecord_within _ _ _ _ _ _ _); decide)
    | split

theorem writeInCtrl_within (s : State) (n : NibIx) (v : Word) :
    Within [.time, .inboxes, .nibs, .nibSetup, .streams, .trackers, .eic, .raises, .blotter, .power, .reflexDue] s (writeInCtrl s n v) := by
  unfold writeInCtrl
  repeat' first
    | with_reducible apply within_refl
    | with_reducible assumption
    | (with_reducible apply within_ite <;> intro _)
    | (extract_lets +onlyGivenNames u
       first
       | (refine within_cut (v := u) ?_ ?_
          all_goals (first | (with_reducible intro hu; revert hu; clear_value u; intro hu) | subst u))
       | clear_value u
       | subst u)
    | (with_reducible apply within_step (closeWindows_within _ _ _); decide)
    | (with_reducible apply within_step (modNibIn_keeps_setup _ _ _ ?hk); (case hk => first | with_reducible rfl | (simp only [setupOf]; done) | ((try dsimp only); (repeat' split) <;> (simp only [setupOf]; done))); decide)
    | (with_reducible apply within_step (modNibIn_keeps_doing _ _ _ ?hk); (case hk => first | with_reducible rfl | (simp only [doingOf]; done) | ((try dsimp only); (repeat' split) <;> (simp only [doingOf]; done))); decide)
    | (with_reducible apply within_step (modNibIn_within _ _ _); decide)
    | (with_reducible apply within_step (recordLate_within _ _ _ _); decide)
    | (with_reducible apply within_step (settleInput_within _ _ _); decide)
    | split

theorem movePin_within (s : State) (n : NibIx) (pin : Nat) :
    Within [.nibs, .nibSetup] s (movePin s n pin) := by
  unfold movePin
  repeat' first
    | with_reducible apply within_refl
    | with_reducible assumption
    | (extract_lets +onlyGivenNames u
       first
       | (refine within_cut (v := u) ?_ ?_
          all_goals (first | (with_reducible intro hu; revert hu; clear_value u; intro hu) | subst u))
       | clear_value u
       | subst u)
    | (with_reducible apply within_step (modNib_keeps_setup _ _ _ ?hk); (case hk => first | with_reducible rfl | (simp only [setupOf]; done) | ((try dsimp only); (repeat' split) <;> (simp only [setupOf]; done))); decide)
    | (with_reducible apply within_step (modNib_keeps_doing _ _ _ ?hk); (case hk => first | with_reducible rfl | (simp only [doingOf]; done) | ((try dsimp only); (repeat' split) <;> (simp only [doingOf]; done))); decide)
    | (with_reducible apply within_step (modNib_within _ _ _); decide)
    | split

theorem writeRoute_within (s : State) (n : NibIx) (v : Word) :
    Within [.nibs, .nibSetup] s (writeRoute s n v) := by
  unfold writeRoute
  repeat' first
    | with_reducible apply within_refl
    | with_reducible assumption
    | (with_reducible apply within_ite <;> intro _)
    | (extract_lets +onlyGivenNames u
       first
       | (refine within_cut (v := u) ?_ ?_
          all_goals (first | (with_reducible intro hu; revert hu; clear_value u; intro hu) | subst u))
       | clear_value u
       | subst u)
    | (with_reducible apply within_step (modNib_keeps_setup _ _ _ ?hk); (case hk => first | with_reducible rfl | (simp only [setupOf]; done) | ((try dsimp only); (repeat' split) <;> (simp only [setupOf]; done))); decide)
    | (with_reducible apply within_step (modNib_keeps_doing _ _ _ ?hk); (case hk => first | with_reducible rfl | (simp only [doingOf]; done) | ((try dsimp only); (repeat' split) <;> (simp only [doingOf]; done))); decide)
    | (with_reducible apply within_step (modNib_within _ _ _); decide)
    | (with_reducible apply within_step (movePin_within _ _ _); decide)
    | split

theorem readCap0_within (s : State) (p : Path) (n : NibIx) :
    Within [.nibs, .latches] s (readCap0 s p n).2 := by
  unfold readCap0
  repeat' first
    | with_reducible apply within_refl
    | with_reducible assumption
    | (extract_lets +onlyGivenNames u
       first
       | (refine within_cut (v := u) ?_ ?_
          all_goals (first | (with_reducible intro hu; revert hu; clear_value u; intro hu) | subst u))
       | clear_value u
       | subst u)
    | (with_reducible apply within_step (latchRead_within _ _ _ _); decide)
    | (with_reducible apply within_step (modNibIn_keeps_setup _ _ _ ?hk); (case hk => first | with_reducible rfl | (simp only [setupOf]; done) | ((try dsimp only); (repeat' split) <;> (simp only [setupOf]; done))); decide)
    | (with_reducible apply within_step (modNibIn_within _ _ _); decide)
    | split

theorem nibReadClear_within (s : State) (n : NibIx) (off : Nat) :
    Within [.nibs] s (nibReadClear s n off) := by
  unfold nibReadClear
  repeat' first
    | with_reducible apply within_refl
    | with_reducible assumption
    | (with_reducible apply within_step (modNib_keeps_setup _ _ _ ?hk); (case hk => first | with_reducible rfl | (simp only [setupOf]; done) | ((try dsimp only); (repeat' split) <;> (simp only [setupOf]; done))); decide)
    | (with_reducible apply within_step (modNib_within _ _ _); decide)
    | (with_reducible apply within_step (modNibIn_keeps_setup _ _ _ ?hk); (case hk => first | with_reducible rfl | (simp only [setupOf]; done) | ((try dsimp only); (repeat' split) <;> (simp only [setupOf]; done))); decide)
    | (with_reducible apply within_step (modNibIn_within _ _ _); decide)
    | split

theorem nibRanked_within {ps : List Part} {s t : State} {p : Path} {n : NibIx} {off : Nat} {f : State → State}
    (hp : [.nibSetup] ⊆ ps) (g : ∀ u, Within ps u (f u)) (h : Within ps s t) :
    Within ps s (nibRanked t p n off f) := by
  unfold nibRanked
  dsimp only
  refine within_ite (fun _ => within_step (g _) (List.Subset.refl _) h) fun _ => within_ite (fun _ => h) fun _ => ?_
  refine within_step (g _) (List.Subset.refl _) (within_step (modNib_keeps_doing _ _ _ ?_) hp h)
  simp only [doingOf]

theorem nibWrite_within (s : State) (n : NibIx) (off : Nat) (v : Word) :
    Within [.time, .inboxes, .nibs, .nibSetup, .links, .streams, .trackers, .eic, .raises, .blotter, .ink, .co, .power, .reflexDue] s (nibWrite s n off v) := by
  unfold nibWrite
  repeat' first
    | with_reducible apply within_refl
    | with_reducible assumption
    | (with_reducible apply within_ite <;> intro _)
    | (with_reducible apply within_step (modNib_keeps_setup _ _ _ ?hk); (case hk => first | with_reducible rfl | (simp only [setupOf]; done) | ((try dsimp only); (repeat' split) <;> (simp only [setupOf]; done))); decide)
    | (with_reducible apply within_step (modNib_keeps_doing _ _ _ ?hk); (case hk => first | with_reducible rfl | (simp only [doingOf]; done) | ((try dsimp only); (repeat' split) <;> (simp only [doingOf]; done))); decide)
    | (with_reducible apply within_step (modNib_within _ _ _); decide)
    | (with_reducible apply within_step (modNibIn_keeps_setup _ _ _ ?hk); (case hk => first | with_reducible rfl | (simp only [setupOf]; done) | ((try dsimp only); (repeat' split) <;> (simp only [setupOf]; done))); decide)
    | (with_reducible apply within_step (modNibIn_within _ _ _); decide)
    | (with_reducible apply within_step (writeInCtrl_within _ _ _); decide)
    | (with_reducible apply within_step (writeNibCtrl_within _ _ _); decide)
    | (with_reducible apply within_step (writeNibSafe_within _ _ _); decide)
    | (with_reducible apply within_step (writeRoute_within _ _ _); decide)
    | split

theorem streamReview_within (s : State) (g : StreamIx) :
    Within [.streams] s (streamReview s g) := by
  unfold streamReview
  repeat' first
    | with_reducible apply within_refl
    | with_reducible assumption
    | (with_reducible apply within_ite <;> intro _)
    | (extract_lets +onlyGivenNames u
       first
       | (refine within_cut (v := u) ?_ ?_
          all_goals (first | (with_reducible intro hu; revert hu; clear_value u; intro hu) | subst u))
       | clear_value u
       | subst u)
    | (with_reducible apply within_step (modStream_within _ _ _); decide)
    | split

theorem writeCsCtrl_within (s : State) (g : StreamIx) (v : Word) :
    Within [.streams] s (writeCsCtrl s g v) := by
  unfold writeCsCtrl
  repeat' first
    | with_reducible apply within_refl
    | with_reducible assumption
    | (with_reducible apply within_step (modStream_within _ _ _); decide)
    | (with_reducible apply within_step (streamReview_within _ _); decide)
    | split

end Sys2Proof.Machine
end

