-- ==== Sys2Proof/Laws/PartsTime.lean ====
section
/-! SUPPORT. The parts of the state that each operation of Machine/Time.lean can change. -/
namespace Sys2Proof.Machine

theorem writeTrim_within (s : State) (v : Word) :
    Within [.time] s (writeTrim s v) := by
  unfold writeTrim
  repeat' first
    | with_reducible apply within_refl
    | with_reducible assumption
    | (with_reducible apply within_step (modTime_keeps_clock _ _ ?hk); (case hk => first | with_reducible rfl | (simp only [clockOf]; done) | ((try dsimp only); (repeat' split) <;> with_reducible rfl)); decide)
    | split
    | (intro k hk; cases k <;> first | exact absurd (by decide) hk | exact hu _ hk | rfl | exact ⟨rfl, rfl⟩ | exact ⟨rfl, rfl, rfl, rfl⟩)

theorem readPps_within (s : State) (p : Path) :
    Within [.time, .latches] s (readPps s p).2 := by
  unfold readPps
  repeat' first
    | with_reducible apply within_refl
    | with_reducible assumption
    | (extract_lets +onlyGivenNames u
       first
       | (refine within_cut (v := u) ?_ ?_
          all_goals (first | (with_reducible intro hu; revert hu; clear_value u; intro hu) | subst u))
       | clear_value u
       | subst u)
    | (with_reducible apply within_step (latchRead_within _ _ _ _); decide)
    | (with_reducible apply within_step (modPps_within _ _); decide)
    | split

theorem syncSend_within (s : State) :
    Within [.time] s (syncSend s) := by
  unfold syncSend
  repeat' first
    | with_reducible apply within_refl
    | with_reducible assumption
    | (with_reducible apply within_ite <;> intro _)
    | (extract_lets +onlyGivenNames u
       first
       | (refine within_cut (v := u) ?_ ?_
          all_goals (first | (with_reducible intro hu; revert hu; clear_value u; intro hu) | subst u))
       | clear_value u
       | subst u)
    | (with_reducible apply within_step (modSync_within _ _); decide)
    | split

theorem syncEnter_within (s : State) (st : SyncState) (step : Bool) :
    Within [.time] s (syncEnter s st step) := by
  unfold syncEnter
  repeat' first
    | with_reducible apply within_refl
    | with_reducible assumption
    | (with_reducible apply within_step (modSync_within _ _); decide)
    | split

theorem syncLost_within (s : State) :
    Within [.time, .raises, .blotter] s (syncLost s) := by
  unfold syncLost
  repeat' first
    | with_reducible apply within_refl
    | with_reducible assumption
    | (with_reducible apply within_ite <;> intro _)
    | (extract_lets +onlyGivenNames u
       first
       | (refine within_cut (v := u) ?_ ?_
          all_goals (first | (with_reducible intro hu; revert hu; clear_value u; intro hu) | subst u))
       | clear_value u
       | subst u)
    | (with_reducible apply within_step (modSync_within _ _); decide)
    | (with_reducible apply within_step (raiseFault_within _ _ _); decide)
    | split

theorem masterChanged_within (s : State) (d : BitVec 72) :
    Within [.time, .raises, .blotter] s (masterChanged s d) := by
  unfold masterChanged
  repeat' first
    | with_reducible apply within_refl
    | with_reducible assumption
    | (with_reducible apply within_ite <;> intro _)
    | (with_reducible apply within_step (modSync_within _ _); decide)
    | (with_reducible apply within_step (syncLost_within _); decide)
    | split

theorem syncAdvance_within (s : State) (d : BitVec 72) (phase : Int) :
    Within [.time, .raises, .blotter] s (syncAdvance s d phase) := by
  unfold syncAdvance
  repeat' first
    | with_reducible apply within_refl
    | with_reducible assumption
    | (with_reducible apply within_ite <;> intro _)
    | (extract_lets +onlyGivenNames u
       first
       | (refine within_cut (v := u) ?_ ?_
          all_goals (first | (with_reducible intro hu; revert hu; clear_value u; intro hu) | subst u))
       | clear_value u
       | subst u)
    | (with_reducible apply within_step (masterChanged_within _ _); decide)
    | (with_reducible apply within_step (raiseFault_within _ _ _); decide)
    | (with_reducible apply within_step (syncEnter_within _ _ _); decide)
    | split

theorem takeFrame_within (s : State) (d : BitVec 72) (phase : Int) :
    Within [.time, .raises, .blotter] s (takeFrame s d phase) := by
  unfold takeFrame
  repeat' first
    | with_reducible apply within_refl
    | with_reducible assumption
    | (with_reducible apply within_ite <;> intro _)
    | (extract_lets +onlyGivenNames u
       first
       | (refine within_cut (v := u) ?_ ?_
          all_goals (first | (with_reducible intro hu; revert hu; clear_value u; intro hu) | subst u))
       | clear_value u
       | subst u)
    | (with_reducible apply within_step (modSync_within _ _); decide)
    | (with_reducible apply within_step (raiseFault_within _ _ _); decide)
    | (with_reducible apply within_step (syncAdvance_within _ _ _); decide)
    | split

theorem receiveFrame_within (s : State) (charsOk : Bool) (d : BitVec 72) (phase : Int) :
    Within [.time, .raises, .blotter] s (receiveFrame s charsOk d phase) := by
  unfold receiveFrame
  repeat' first
    | with_reducible apply within_refl
    | with_reducible assumption
    | (with_reducible apply within_ite <;> intro _)
    | (extract_lets +onlyGivenNames u
       first
       | (refine within_cut (v := u) ?_ ?_
          all_goals (first | (with_reducible intro hu; revert hu; clear_value u; intro hu) | subst u))
       | clear_value u
       | subst u)
    | (with_reducible apply within_step (modSync_within _ _); decide)
    | (with_reducible apply within_step (takeFrame_within _ _ _); decide)
    | split

theorem writeSyncCtrl_within (s : State) (v : Word) :
    Within [.time] s (writeSyncCtrl s v) := by
  unfold writeSyncCtrl
  repeat' first
    | with_reducible apply within_refl
    | with_reducible assumption
    | (with_reducible apply within_ite <;> intro _)
    | (extract_lets +onlyGivenNames u
       first
       | (refine within_cut (v := u) ?_ ?_
          all_goals (first | (with_reducible intro hu; revert hu; clear_value u; intro hu) | subst u))
       | clear_value u
       | subst u)
    | (with_reducible apply within_step (modSync_within _ _); decide)
    | split

theorem syncSteer_within (s : State) :
    Within [.time, .free] s (syncSteer s) := by
  unfold syncSteer
  repeat' first
    | with_reducible apply within_refl
    | with_reducible assumption
    | (with_reducible apply within_step (drawFree_within _); decide)
    | (with_reducible apply within_step (modSync_within _ _); decide)
    | split

theorem setPeriod_within (s : State) (p : Nat) :
    Within [.clock, .time] s (setPeriod s p) := by
  unfold setPeriod
  repeat' first
    | with_reducible apply within_refl
    | with_reducible assumption
    | (with_reducible apply within_ite <;> intro _)
    | (extract_lets +onlyGivenNames u
       first
       | (refine within_cut (v := u) ?_ ?_
          all_goals (first | (with_reducible intro hu; revert hu; clear_value u; intro hu) | subst u))
       | clear_value u
       | subst u)
    | (with_reducible apply within_step (modSync_within _ _); decide)
    | (with_reducible apply within_step (modTime_keeps_clock _ _ ?hk); (case hk => first | with_reducible rfl | (simp only [clockOf]; done) | ((try dsimp only); (repeat' split) <;> with_reducible rfl)); decide)
    | (with_reducible apply within_step (modTime_keeps_rest _ _ ?hk); (case hk => first | with_reducible rfl | (simp only [restOfTime]; done) | ((try dsimp only); (repeat' split) <;> with_reducible rfl)); decide)
    | (with_reducible apply within_step (modTime_within _ _); decide)
    | split
    | (intro k hk; cases k <;> first | exact absurd (by decide) hk | exact hu _ hk | rfl | exact ⟨rfl, rfl⟩ | exact ⟨rfl, rfl, rfl, rfl⟩)

theorem syncTick_within (s : State) :
    Within [.time, .free] s (syncTick s) := by
  unfold syncTick
  repeat' first
    | with_reducible apply within_refl
    | with_reducible assumption
    | (with_reducible apply within_ite <;> intro _)
    | (extract_lets +onlyGivenNames u
       first
       | (refine within_cut (v := u) ?_ ?_
          all_goals (first | (with_reducible intro hu; revert hu; clear_value u; intro hu) | subst u))
       | clear_value u
       | subst u)
    | (with_reducible apply within_step (modSync_within _ _); decide)
    | (with_reducible apply within_step (modTime_keeps_clock _ _ ?hk); (case hk => first | with_reducible rfl | (simp only [clockOf]; done) | ((try dsimp only); (repeat' split) <;> with_reducible rfl)); decide)
    | (with_reducible apply within_step (syncSend_within _); decide)
    | (with_reducible apply within_step (syncSteer_within _); decide)
    | split
    | (intro k hk; cases k <;> first | exact absurd (by decide) hk | exact hu _ hk | rfl | exact ⟨rfl, rfl⟩ | exact ⟨rfl, rfl, rfl, rfl⟩)

theorem passTime_within (s : State) (ns : Nat) :
    Within [.eic, .raises, .blotter] s (passTime s ns) := by
  unfold passTime
  repeat' first
    | with_reducible apply within_refl
    | with_reducible assumption
    | (intro k hk; cases k <;> first | exact absurd (by decide) hk | exact hu _ hk | rfl | exact ⟨rfl, rfl⟩ | exact ⟨rfl, rfl, rfl, rfl⟩)

theorem coarseEdge_within (s : State) :
    Within [.clock, .time, .inboxes, .nibs, .nibSetup, .streams, .trackers, .comparators, .counters, .eic, .raises, .blotter, .power, .reflexDue] s (coarseEdge s) := by
  unfold coarseEdge
  repeat' first
    | with_reducible apply within_refl
    | with_reducible assumption
    | (with_reducible apply within_ite <;> intro _)
    | (extract_lets +onlyGivenNames u
       first
       | (refine within_cut (v := u) ?_ ?_
          all_goals (first | (with_reducible intro hu; revert hu; clear_value u; intro hu) | subst u))
       | clear_value u
       | subst u)
    | (with_reducible apply within_step (ceEdge_within _ _); decide)
    | (with_reducible apply within_step (coarseSamples_within _); decide)
    | (with_reducible apply within_step (modTime_keeps_clock _ _ ?hk); (case hk => first | with_reducible rfl | (simp only [clockOf]; done) | ((try dsimp only); (repeat' split) <;> with_reducible rfl)); decide)
    | (with_reducible apply within_step (modTime_keeps_rest _ _ ?hk); (case hk => first | with_reducible rfl | (simp only [restOfTime]; done) | ((try dsimp only); (repeat' split) <;> with_reducible rfl)); decide)
    | (with_reducible apply within_step (modTime_within _ _); decide)
    | (with_reducible apply within_step (passTime_within _ _); decide)
    | split
    | (intro k hk; cases k <;> first | exact absurd (by decide) hk | exact hu _ hk | rfl | exact ⟨rfl, rfl⟩ | exact ⟨rfl, rfl, rfl, rfl⟩)

theorem fineAgain_within (s : State) :
    Within [.clock, .time, .nibs, .nibSetup] s (fineAgain s) := by
  unfold fineAgain
  repeat' first
    | with_reducible apply within_refl
    | with_reducible assumption
    | (with_reducible apply within_step (fineInputs_within _); decide)
    | (with_reducible apply within_step (modTime_keeps_clock _ _ ?hk); (case hk => first | with_reducible rfl | (simp only [clockOf]; done) | ((try dsimp only); (repeat' split) <;> with_reducible rfl)); decide)
    | (with_reducible apply within_step (modTime_keeps_rest _ _ ?hk); (case hk => first | with_reducible rfl | (simp only [restOfTime]; done) | ((try dsimp only); (repeat' split) <;> with_reducible rfl)); decide)
    | (with_reducible apply within_step (modTime_within _ _); decide)
    | split
    | (intro k hk; cases k <;> first | exact absurd (by decide) hk | exact hu _ hk | rfl | exact ⟨rfl, rfl⟩ | exact ⟨rfl, rfl, rfl, rfl⟩)

theorem timeReadClear_within (s : State) (off : Nat) :
    Within [.time] s (timeReadClear s off) := by
  unfold timeReadClear
  repeat' first
    | with_reducible apply within_refl
    | with_reducible assumption
    | (with_reducible apply within_step (modPps_within _ _); decide)
    | (with_reducible apply within_step (modSync_within _ _); decide)
    | split

theorem timeWrite_within (s : State) (off : Nat) (v : Word) :
    Within [.time] s (timeWrite s off v) := by
  unfold timeWrite
  repeat' first
    | with_reducible apply within_refl
    | with_reducible assumption
    | (with_reducible apply within_step (modPps_within _ _); decide)
    | (with_reducible apply within_step (modSync_within _ _); decide)
    | (with_reducible apply within_step (modTime_keeps_clock _ _ ?hk); (case hk => first | with_reducible rfl | (simp only [clockOf]; done) | ((try dsimp only); (repeat' split) <;> with_reducible rfl)); decide)
    | (with_reducible apply within_step (writeSyncCtrl_within _ _); decide)
    | (with_reducible apply within_step (writeTrim_within _ _); decide)
    | split
    | (intro k hk; cases k <;> first | exact absurd (by decide) hk | exact hu _ hk | rfl | exact ⟨rfl, rfl⟩ | exact ⟨rfl, rfl, rfl, rfl⟩)

end Sys2Proof.Machine
end

