-- ==== Sys2Proof/Laws/PartsMarch.lean ====
section
/-! SUPPORT. The parts of the state that each operation of Machine/March.lean can change. -/
namespace Sys2Proof.Machine

theorem retireBank_within (s : State) (p cause place : Nat) (unit : Nat) :
    Within [.raises, .blotter, .ink] s (retireBank s p cause place unit) := by
  unfold retireBank
  repeat' first
    | with_reducible apply within_refl
    | with_reducible assumption
    | (extract_lets +onlyGivenNames u
       first
       | (refine within_cut (v := u) ?_ ?_
          all_goals (first | (with_reducible intro hu; revert hu; clear_value u; intro hu) | subst u))
       | clear_value u
       | subst u)
    | (with_reducible apply within_step (addLedger_within _ _ _ _ _); decide)
    | (with_reducible apply within_step (modInk_keeps_cells _ _ ?hk); (case hk => first | with_reducible rfl | ((try dsimp only); (repeat' split) <;> with_reducible rfl)); decide)
    | (with_reducible apply within_step (raiseFault_within _ _ _); decide)
    | split

theorem reviewBanks_within (s : State) :
    Within [.raises, .blotter, .pool] s (reviewBanks s) := by
  unfold reviewBanks
  repeat' first
    | with_reducible apply within_refl
    | with_reducible assumption
    | (extract_lets +onlyGivenNames u
       first
       | (refine within_cut (v := u) ?_ ?_
          all_goals (first | (with_reducible intro hu; revert hu; clear_value u; intro hu) | subst u))
       | clear_value u
       | subst u)
    | (with_reducible apply within_step (noteExhausted_within _ _ _); decide)
    | split

theorem writeOwner_within (s : State) (b : InkIx) (v : Word) :
    Within [.ink] s (writeOwner s b v) := by
  unfold writeOwner
  repeat' first
    | with_reducible apply within_refl
    | with_reducible assumption
    | (with_reducible apply within_ite <;> intro _)
    | (extract_lets +onlyGivenNames u
       first
       | (refine within_cut (v := u) ?_ ?_
          all_goals (first | (with_reducible intro hu; revert hu; clear_value u; intro hu) | subst u))
       | clear_value u
       | subst u)
    | (with_reducible apply within_step (modBank_within _ _ _); decide)
    | (with_reducible apply within_step (raiseBankEvent_within _ _ _); decide)
    | split

theorem applyHandover_within (s : State) (b : InkIx) (o : InkOwner) :
    Within [.ink] s (applyHandover s b o) := by
  unfold applyHandover
  repeat' first
    | with_reducible apply within_refl
    | with_reducible assumption
    | (with_reducible apply within_step (modBank_within _ _ _); decide)
    | (with_reducible apply within_step (raiseBankEvent_within _ _ _); decide)
    | split

theorem handoversDue_within (s : State) :
    Within [.ink] s (handoversDue s) := by
  unfold handoversDue
  repeat' first
    | with_reducible apply within_refl
    | with_reducible assumption
    | (with_reducible apply within_ite <;> intro _)
    | (with_reducible apply within_step (applyHandover_within _ _ _); decide)
    | (with_reducible apply within_forAll; intro _ _)
    | split

theorem handoversTick_within (s : State) :
    Within [.ink] s (handoversTick s) := by
  unfold handoversTick
  repeat' first
    | with_reducible apply within_refl
    | with_reducible assumption
    | (with_reducible apply within_ite <;> intro _)
    | (with_reducible apply within_step (applyHandover_within _ _ _); decide)
    | (with_reducible apply within_step (modBank_within _ _ _); decide)
    | (with_reducible apply within_forAll; intro _ _)
    | split

theorem endCopies_within (s : State) :
    Within [.raises, .blotter, .ink, .pool, .co] s (endCopies s) := by
  unfold endCopies
  repeat' first
    | with_reducible apply within_refl
    | with_reducible assumption
    | (with_reducible apply within_ite <;> intro _)
    | (extract_lets +onlyGivenNames u
       first
       | (refine within_cut (v := u) ?_ ?_
          all_goals (first | (with_reducible intro hu; revert hu; clear_value u; intro hu) | subst u))
       | clear_value u
       | subst u)
    | (with_reducible apply within_step (modCo_within _ _); decide)
    | (with_reducible apply within_step (retireBank_within _ _ _ _ _); decide)
    | (with_reducible apply within_step (reviewBanks_within _); decide)
    | (with_reducible apply within_step (wantMigration_within _ _ _); decide)
    | (with_reducible apply within_forAll; intro _ _)
    | split

theorem zeroBank_within (s : State) (p : Nat) :
    Within [.cells, .ink] s (zeroBank s p) := by
  unfold zeroBank
  repeat' first
    | with_reducible apply within_refl
    | with_reducible assumption
    | (with_reducible apply within_step (modInk_keeps_cells _ _ ?hk); (case hk => first | with_reducible rfl | ((try dsimp only); (repeat' split) <;> with_reducible rfl)); decide)
    | (with_reducible apply within_step (modInk_keeps_rest _ _ ?hk); (case hk => first | with_reducible rfl | ((try dsimp only); (repeat' split) <;> with_reducible rfl)); decide)
    | (with_reducible apply within_step (modInk_within _ _); decide)
    | split

theorem sliceCopy_within (s : State) :
    Within [.raises, .blotter, .cells, .ink, .co] s (sliceCopy s) := by
  unfold sliceCopy
  repeat' first
    | with_reducible apply within_refl
    | with_reducible assumption
    | (with_reducible apply within_ite <;> intro _)
    | (with_reducible apply within_dite <;> intro _)
    | (extract_lets +onlyGivenNames u
       first
       | (refine within_cut (v := u) ?_ ?_
          all_goals (first | (with_reducible intro hu; revert hu; clear_value u; intro hu) | subst u))
       | clear_value u
       | subst u)
    | (with_reducible apply within_step (copyRead_within _ _ _); decide)
    | (with_reducible apply within_snd (copyRead_within _ _ _); with_reducible assumption; decide)
    | (with_reducible apply within_step (modInk_keeps_cells _ _ ?hk); (case hk => first | with_reducible rfl | ((try dsimp only); (repeat' split) <;> with_reducible rfl)); decide)
    | (with_reducible apply within_step (putWhole_within _ _ _); decide)
    | split

theorem migrationCopy_within (s : State) :
    Within [.raises, .blotter, .cells, .ink, .co] s (migrationCopy s) := by
  unfold migrationCopy
  repeat' first
    | with_reducible apply within_refl
    | with_reducible assumption
    | (with_reducible apply within_ite <;> intro _)
    | (extract_lets +onlyGivenNames u
       first
       | (refine within_cut (v := u) ?_ ?_
          all_goals (first | (with_reducible intro hu; revert hu; clear_value u; intro hu) | subst u))
       | clear_value u
       | subst u)
    | (with_reducible apply within_step (copyRead_within _ _ _); decide)
    | (with_reducible apply within_snd (copyRead_within _ _ _); with_reducible assumption; decide)
    | (with_reducible apply within_step (modInk_keeps_cells _ _ ?hk); (case hk => first | with_reducible rfl | ((try dsimp only); (repeat' split) <;> with_reducible rfl)); decide)
    | (with_reducible apply within_step (putWhole_within _ _ _); decide)
    | split

theorem endFreeTest_within (s : State) (p : Nat) :
    Within [.ink] s (endFreeTest s p) := by
  unfold endFreeTest
  repeat' first
    | with_reducible apply within_refl
    | with_reducible assumption
    | (with_reducible apply within_ite <;> intro _)
    | (with_reducible apply within_step (modInk_keeps_cells _ _ ?hk); (case hk => first | with_reducible rfl | ((try dsimp only); (repeat' split) <;> with_reducible rfl)); decide)
    | split

theorem migrationBegin_within (s : State) :
    Within [.raises, .blotter, .ink, .pool] s (migrationBegin s) := by
  unfold migrationBegin
  repeat' first
    | with_reducible apply within_refl
    | with_reducible assumption
    | (with_reducible apply within_ite <;> intro _)
    | (extract_lets +onlyGivenNames u
       first
       | (refine within_cut (v := u) ?_ ?_
          all_goals (first | (with_reducible intro hu; revert hu; clear_value u; intro hu) | subst u))
       | clear_value u
       | subst u)
    | (with_reducible apply within_step (endFreeTest_within _ _); decide)
    | (with_reducible apply within_step (failureWithoutSpare_within _ _); decide)
    | (with_reducible apply within_step (modInk_keeps_cells _ _ ?hk); (case hk => first | with_reducible rfl | ((try dsimp only); (repeat' split) <;> with_reducible rfl)); decide)
    | (with_reducible apply within_step (noteExhausted_within _ _ _); decide)
    | split

theorem bankSwitch_within (s : State) :
    Within [.raises, .blotter, .ink, .pool] s (bankSwitch s) := by
  unfold bankSwitch
  repeat' first
    | with_reducible apply within_refl
    | with_reducible assumption
    | (with_reducible apply within_ite <;> intro _)
    | (extract_lets +onlyGivenNames u
       first
       | (refine within_cut (v := u) ?_ ?_
          all_goals (first | (with_reducible intro hu; revert hu; clear_value u; intro hu) | subst u))
       | clear_value u
       | subst u)
    | (with_reducible apply within_step (modBank_within _ _ _); decide)
    | (with_reducible apply within_step (modInk_keeps_cells _ _ ?hk); (case hk => first | with_reducible rfl | ((try dsimp only); (repeat' split) <;> with_reducible rfl)); decide)
    | (with_reducible apply within_step (raiseBankEvent_within _ _ _); decide)
    | (with_reducible apply within_step (retireBank_within _ _ _ _ _); decide)
    | (with_reducible apply within_step (reviewBanks_within _); decide)
    | split

theorem modMarch_within (s : State) (f : March → March) :
    Within [.ink] s (modMarch s f) := by
  unfold modMarch
  repeat' first
    | with_reducible apply within_refl
    | with_reducible assumption
    | (with_reducible apply within_step (modInk_keeps_cells _ _ ?hk); (case hk => first | with_reducible rfl | ((try dsimp only); (repeat' split) <;> with_reducible rfl)); decide)
    | split

theorem passEnds_within (s : State) :
    Within [.ink] s (passEnds s) := by
  unfold passEnds
  repeat' first
    | with_reducible apply within_refl
    | with_reducible assumption
    | (extract_lets +onlyGivenNames u
       first
       | (refine within_cut (v := u) ?_ ?_
          all_goals (first | (with_reducible intro hu; revert hu; clear_value u; intro hu) | subst u))
       | clear_value u
       | subst u)
    | (with_reducible apply within_step (modInk_keeps_cells _ _ ?hk); (case hk => first | with_reducible rfl | ((try dsimp only); (repeat' split) <;> with_reducible rfl)); decide)
    | split

theorem nextSliceOf_within (s : State) :
    Within [.ink] s (nextSliceOf s) := by
  unfold nextSliceOf
  repeat' first
    | with_reducible apply within_refl
    | with_reducible assumption
    | (with_reducible apply within_ite <;> intro _)
    | (with_reducible apply within_dite <;> intro _)
    | (extract_lets +onlyGivenNames u
       first
       | (refine within_cut (v := u) ?_ ?_
          all_goals (first | (with_reducible intro hu; revert hu; clear_value u; intro hu) | subst u))
       | clear_value u
       | subst u)
    | (with_reducible apply within_step (modBank_within _ _ _); decide)
    | (with_reducible apply within_step (modMarch_within _ _); decide)
    | (with_reducible apply within_step (passEnds_within _); decide)
    | split

theorem marchStops_within (s : State) :
    Within [.raises, .blotter, .ink] s (marchStops s) := by
  unfold marchStops
  repeat' first
    | with_reducible apply within_refl
    | with_reducible assumption
    | (with_reducible apply within_ite <;> intro _)
    | (extract_lets +onlyGivenNames u
       first
       | (refine within_cut (v := u) ?_ ?_
          all_goals (first | (with_reducible intro hu; revert hu; clear_value u; intro hu) | subst u))
       | clear_value u
       | subst u)
    | (with_reducible apply within_step (modInk_keeps_cells _ _ ?hk); (case hk => first | with_reducible rfl | ((try dsimp only); (repeat' split) <;> with_reducible rfl)); decide)
    | (with_reducible apply within_step (modMarch_within _ _); decide)
    | (with_reducible apply within_step (raiseFault_within _ _ _); decide)
    | split

theorem sliceBegin_within (s : State) (b : InkIx) (slice : Nat) :
    Within [.ink] s (sliceBegin s b slice) := by
  unfold sliceBegin
  repeat' first
    | with_reducible apply within_refl
    | with_reducible assumption
    | (with_reducible apply within_step (modMarch_within _ _); decide)
    | split

theorem anotherPass_within (s : State) :
    Within [.ink] s (anotherPass s) := by
  unfold anotherPass
  repeat' first
    | with_reducible apply within_refl
    | with_reducible assumption
    | (with_reducible apply within_ite <;> intro _)
    | (with_reducible apply within_step (modMarch_within _ _); decide)
    | (with_reducible apply within_step (sliceBegin_within _ _ _); decide)
    | split

theorem marchBegin_within (s : State) :
    Within [.raises, .blotter, .ink] s (marchBegin s) := by
  unfold marchBegin
  repeat' first
    | with_reducible apply within_refl
    | with_reducible assumption
    | (with_reducible apply within_ite <;> intro _)
    | (extract_lets +onlyGivenNames u
       first
       | (refine within_cut (v := u) ?_ ?_
          all_goals (first | (with_reducible intro hu; revert hu; clear_value u; intro hu) | subst u))
       | clear_value u
       | subst u)
    | (with_reducible apply within_step (anotherPass_within _); decide)
    | (with_reducible apply within_step (marchStops_within _); decide)
    | (with_reducible apply within_step (modMarch_within _ _); decide)
    | (with_reducible apply within_step (passEnds_within _); decide)
    | (with_reducible apply within_step (sliceBegin_within _ _ _); decide)
    | split

theorem sliceTested_within (s : State) (pass : Bool) :
    Within [.raises, .blotter, .ink, .pool] s (sliceTested s pass) := by
  unfold sliceTested
  repeat' first
    | with_reducible apply within_refl
    | with_reducible assumption
    | (with_reducible apply within_ite <;> intro _)
    | (with_reducible apply within_dite <;> intro _)
    | (extract_lets +onlyGivenNames u
       first
       | (refine within_cut (v := u) ?_ ?_
          all_goals (first | (with_reducible intro hu; revert hu; clear_value u; intro hu) | subst u))
       | clear_value u
       | subst u)
    | (with_reducible apply within_step (modBank_within _ _ _); decide)
    | (with_reducible apply within_step (modMarch_within _ _); decide)
    | (with_reducible apply within_step (nextSliceOf_within _); decide)
    | (with_reducible apply within_step (raiseBankEvent_within _ _ _); decide)
    | (with_reducible apply within_step (reviewBanks_within _); decide)
    | (with_reducible apply within_step (wantMigration_within _ _ _); decide)
    | split

theorem sliceLift_within (s : State) :
    Within [.ink] s (sliceLift s) := by
  unfold sliceLift
  repeat' first
    | with_reducible apply within_refl
    | with_reducible assumption
    | (with_reducible apply within_ite <;> intro _)
    | (with_reducible apply within_dite <;> intro _)
    | (extract_lets +onlyGivenNames u
       first
       | (refine within_cut (v := u) ?_ ?_
          all_goals (first | (with_reducible intro hu; revert hu; clear_value u; intro hu) | subst u))
       | clear_value u
       | subst u)
    | (with_reducible apply within_step (modBank_within _ _ _); decide)
    | (with_reducible apply within_step (nextSliceOf_within _); decide)
    | split

theorem marchTick_within (s : State) :
    Within [.ink] s (marchTick s) := by
  unfold marchTick
  repeat' first
    | with_reducible apply within_refl
    | with_reducible assumption
    | (with_reducible apply within_step (modMarch_within _ _); decide)
    | split

theorem destroyBegin_within (s : State) (b : InkIx) :
    Within [.ink] s (destroyBegin s b) := by
  unfold destroyBegin
  repeat' first
    | with_reducible apply within_refl
    | with_reducible assumption
    | (extract_lets +onlyGivenNames u
       first
       | (refine within_cut (v := u) ?_ ?_
          all_goals (first | (with_reducible intro hu; revert hu; clear_value u; intro hu) | subst u))
       | clear_value u
       | subst u)
    | (with_reducible apply within_step (modBank_within _ _ _); decide)
    | (with_reducible apply within_step (modMarch_within _ _); decide)
    | split

theorem destroyEnds_within (s : State) (pass : Bool) :
    Within [.raises, .blotter, .cells, .ink, .pool] s (destroyEnds s pass) := by
  unfold destroyEnds
  repeat' first
    | with_reducible apply within_refl
    | with_reducible assumption
    | (with_reducible apply within_ite <;> intro _)
    | (extract_lets +onlyGivenNames u
       first
       | (refine within_cut (v := u) ?_ ?_
          all_goals (first | (with_reducible intro hu; revert hu; clear_value u; intro hu) | subst u))
       | clear_value u
       | subst u)
    | (with_reducible apply within_step (modBank_within _ _ _); decide)
    | (with_reducible apply within_step (modMarch_within _ _); decide)
    | (with_reducible apply within_step (putWhole_within _ _ _); decide)
    | (with_reducible apply within_step (retireBank_within _ _ _ _ _); decide)
    | (with_reducible apply within_step (reviewBanks_within _); decide)
    | (with_reducible apply within_step (wantMigration_within _ _ _); decide)
    | (with_reducible apply within_step (zeroBank_within _ _); decide)
    | (with_reducible apply within_forAll; intro _ _)
    | split

theorem inkReadClear_within (s : State) (off : Nat) :
    Within [.ink] s (inkReadClear s off) := by
  unfold inkReadClear
  repeat' first
    | with_reducible apply within_refl
    | with_reducible assumption
    | (with_reducible apply within_ite <;> intro _)
    | (extract_lets +onlyGivenNames u
       first
       | (refine within_cut (v := u) ?_ ?_
          all_goals (first | (with_reducible intro hu; revert hu; clear_value u; intro hu) | subst u))
       | clear_value u
       | subst u)
    | (with_reducible apply within_step (modBank_within _ _ _); decide)
    | (with_reducible apply within_step (modMarch_within _ _); decide)
    | split

theorem inkWrite_within (s : State) (off : Nat) (v : Word) :
    Within [.ink] s (inkWrite s off v) := by
  unfold inkWrite
  repeat' first
    | with_reducible apply within_refl
    | with_reducible assumption
    | (with_reducible apply within_ite <;> intro _)
    | (extract_lets +onlyGivenNames u
       first
       | (refine within_cut (v := u) ?_ ?_
          all_goals (first | (with_reducible intro hu; revert hu; clear_value u; intro hu) | subst u))
       | clear_value u
       | subst u)
    | (with_reducible apply within_step (modBank_within _ _ _); decide)
    | (with_reducible apply within_step (modInk_keeps_cells _ _ ?hk); (case hk => first | with_reducible rfl | ((try dsimp only); (repeat' split) <;> with_reducible rfl)); decide)
    | (with_reducible apply within_step (writeOwner_within _ _ _); decide)
    | split

end Sys2Proof.Machine
end

