-- ==== Sys2Proof/Laws/PartsDma.lean ====
section
/-! SUPPORT. The parts of the state that each operation of Machine/Dma.lean can change. -/
namespace Sys2Proof.Machine

theorem signalChan_within (s : State) (c : DmaIx) :
    Within [.eic, .dma] s (signalChan s c) := by
  unfold signalChan
  repeat' first
    | with_reducible apply within_refl
    | with_reducible assumption
    | (with_reducible apply within_ite <;> intro _)
    | (extract_lets +onlyGivenNames u
       first
       | (refine within_cut (v := u) ?_ ?_
          all_goals (first | (with_reducible intro hu; revert hu; clear_value u; intro hu) | subst u))
       | clear_value u
       | subst u)
    | (with_reducible apply within_step (modDma_within _ _); decide)
    | (with_reducible apply within_step (pushCause_within _ _); decide)
    | split

theorem haltChan_within (s : State) (c : DmaIx) (place : Nat) (write : Bool) (cause : Nat) (addr : W64) :
    Within [.eic, .dma] s (haltChan s c place write cause addr) := by
  unfold haltChan
  repeat' first
    | with_reducible apply within_refl
    | with_reducible assumption
    | (with_reducible apply within_step (modChan_within _ _ _); decide)
    | (with_reducible apply within_step (signalChan_within _ _); decide)
    | split

theorem putRecord_within (s : State) (c : DmaIx) (r : DmaRecord) :
    Within [.dma, .posted] s (putRecord s c r) := by
  unfold putRecord
  repeat' first
    | with_reducible apply within_refl
    | with_reducible assumption
    | (with_reducible apply within_ite <;> intro _)
    | (extract_lets +onlyGivenNames u
       first
       | (refine within_cut (v := u) ?_ ?_
          all_goals (first | (with_reducible intro hu; revert hu; clear_value u; intro hu) | subst u))
       | clear_value u
       | subst u)
    | (with_reducible apply within_step (modRing_within _ _ _); decide)
    | (with_reducible apply within_step (post_within _ _); decide)
    | split

theorem releaseStream_within (s : State) (c : DmaIx) :
    Within [.streams, .dma] s (releaseStream s c) := by
  unfold releaseStream
  repeat' first
    | with_reducible apply within_refl
    | with_reducible assumption
    | (extract_lets +onlyGivenNames u
       first
       | (refine within_cut (v := u) ?_ ?_
          all_goals (first | (with_reducible intro hu; revert hu; clear_value u; intro hu) | subst u))
       | clear_value u
       | subst u)
    | (with_reducible apply within_step (modChan_within _ _ _); decide)
    | (with_reducible apply within_step (modStream_within _ _ _); decide)
    | split

theorem startFetch_within (s : State) (c : DmaIx) (a : W64) :
    Within [.eic, .dma] s (startFetch s c a) := by
  unfold startFetch
  repeat' first
    | with_reducible apply within_refl
    | with_reducible assumption
    | (extract_lets +onlyGivenNames u
       first
       | (refine within_cut (v := u) ?_ ?_
          all_goals (first | (with_reducible intro hu; revert hu; clear_value u; intro hu) | subst u))
       | clear_value u
       | subst u)
    | (with_reducible apply within_step (haltChan_within _ _ _ _ _ _); decide)
    | (with_reducible apply within_step (modChan_within _ _ _); decide)
    | split

theorem readNext_within (s : State) (c : DmaIx) :
    Within [.eic, .dma] s (readNext s c) := by
  unfold readNext
  repeat' first
    | with_reducible apply within_refl
    | with_reducible assumption
    | (with_reducible apply within_ite <;> intro _)
    | (extract_lets +onlyGivenNames u
       first
       | (refine within_cut (v := u) ?_ ?_
          all_goals (first | (with_reducible intro hu; revert hu; clear_value u; intro hu) | subst u))
       | clear_value u
       | subst u)
    | (with_reducible apply within_step (haltChan_within _ _ _ _ _ _); decide)
    | (with_reducible apply within_step (modChan_within _ _ _); decide)
    | split

theorem chainOn_within (s : State) (c : DmaIx) :
    Within [.eic, .dma] s (chainOn s c) := by
  unfold chainOn
  repeat' first
    | with_reducible apply within_refl
    | with_reducible assumption
    | (with_reducible apply within_ite <;> intro _)
    | (with_reducible apply within_step (modChan_within _ _ _); decide)
    | (with_reducible apply within_step (readNext_within _ _); decide)
    | (with_reducible apply within_step (startFetch_within _ _ _); decide)
    | split

theorem takeRecords_within (s : State) (c : DmaIx) (d : Descriptor) (held : Nat) :
    Within [.dma] s (takeRecords s c d held) := by
  unfold takeRecords
  repeat' first
    | with_reducible apply within_refl
    | with_reducible assumption
    | (with_reducible apply within_ite <;> intro _)
    | (extract_lets +onlyGivenNames u
       first
       | (refine within_cut (v := u) ?_ ?_
          all_goals (first | (with_reducible intro hu; revert hu; clear_value u; intro hu) | subst u))
       | clear_value u
       | subst u)
    | (with_reducible apply within_step (modChan_within _ _ _); decide)
    | split

theorem wakeStream_within (s : State) (g : StreamIx) :
    Within [.dma] s (wakeStream s g) := by
  unfold wakeStream
  repeat' first
    | with_reducible apply within_refl
    | with_reducible assumption
    | (with_reducible apply within_ite <;> intro _)
    | (with_reducible apply within_step (takeRecords_within _ _ _ _); decide)
    | (with_reducible apply within_forAll; intro _ _)
    | split

theorem issueRecord_within (s : State) (c : DmaIx) (r : DmaRecord) :
    Within [.streams, .eic, .dma, .posted] s (issueRecord s c r) := by
  unfold issueRecord
  repeat' first
    | with_reducible apply within_refl
    | with_reducible assumption
    | (with_reducible apply within_ite <;> intro _)
    | (extract_lets +onlyGivenNames u
       first
       | (refine within_cut (v := u) ?_ ?_
          all_goals (first | (with_reducible intro hu; revert hu; clear_value u; intro hu) | subst u))
       | clear_value u
       | subst u)
    | (with_reducible apply within_step (chainOn_within _ _); decide)
    | (with_reducible apply within_step (haltChan_within _ _ _ _ _ _); decide)
    | (with_reducible apply within_step (modChan_within _ _ _); decide)
    | (with_reducible apply within_step (modRing_within _ _ _); decide)
    | (with_reducible apply within_step (pushCause_within _ _); decide)
    | (with_reducible apply within_step (putRecord_within _ _ _); decide)
    | (with_reducible apply within_step (releaseStream_within _ _); decide)
    | (with_reducible apply within_step (signalChan_within _ _); decide)
    | (with_reducible apply within_step (wakeStream_within _ _); decide)
    | split

theorem chanRecord_within (s : State) (c : DmaIx) (status : DmaStatus) (after : AfterRecord) :
    Within [.streams, .eic, .dma, .posted] s (chanRecord s c status after) := by
  unfold chanRecord
  repeat' first
    | with_reducible apply within_refl
    | with_reducible assumption
    | (with_reducible apply within_ite <;> intro _)
    | (extract_lets +onlyGivenNames u
       first
       | (refine within_cut (v := u) ?_ ?_
          all_goals (first | (with_reducible intro hu; revert hu; clear_value u; intro hu) | subst u))
       | clear_value u
       | subst u)
    | (with_reducible apply within_step (issueRecord_within _ _ _); decide)
    | split

theorem dataMoved_within (s : State) (c : DmaIx) :
    Within [.streams, .eic, .dma, .posted] s (dataMoved s c) := by
  unfold dataMoved
  repeat' first
    | with_reducible apply within_refl
    | with_reducible assumption
    | (with_reducible apply within_ite <;> intro _)
    | (extract_lets +onlyGivenNames u
       first
       | (refine within_cut (v := u) ?_ ?_
          all_goals (first | (with_reducible intro hu; revert hu; clear_value u; intro hu) | subst u))
       | clear_value u
       | subst u)
    | (with_reducible apply within_step (chanRecord_within _ _ _ _); decide)
    | (with_reducible apply within_step (haltChan_within _ _ _ _ _ _); decide)
    | (with_reducible apply within_step (modChan_within _ _ _); decide)
    | split

theorem giveUpHold_within (s : State) (c : DmaIx) (d : Descriptor) :
    Within [.dma] s (giveUpHold s c d) := by
  unfold giveUpHold
  repeat' first
    | with_reducible apply within_refl
    | with_reducible assumption
    | (with_reducible apply within_ite <;> intro _)
    | (extract_lets +onlyGivenNames u
       first
       | (refine within_cut (v := u) ?_ ?_
          all_goals (first | (with_reducible intro hu; revert hu; clear_value u; intro hu) | subst u))
       | clear_value u
       | subst u)
    | (with_reducible apply within_step (modChan_within _ _ _); decide)
    | (with_reducible apply within_step (wakeStream_within _ _); decide)
    | split

theorem beginDescriptor_within (s : State) (c : DmaIx) (d : Descriptor) :
    Within [.streams, .eic, .dma, .posted] s (beginDescriptor s c d) := by
  unfold beginDescriptor
  repeat' first
    | with_reducible apply within_refl
    | with_reducible assumption
    | (with_reducible apply within_ite <;> intro _)
    | (extract_lets +onlyGivenNames u
       first
       | (refine within_cut (v := u) ?_ ?_
          all_goals (first | (with_reducible intro hu; revert hu; clear_value u; intro hu) | subst u))
       | clear_value u
       | subst u)
    | (with_reducible apply within_step (chanRecord_within _ _ _ _); decide)
    | (with_reducible apply within_step (dataMoved_within _ _); decide)
    | (with_reducible apply within_step (giveUpHold_within _ _ _); decide)
    | (with_reducible apply within_step (modChan_within _ _ _); decide)
    | (with_reducible apply within_step (takeRecords_within _ _ _ _); decide)
    | split

theorem beatInkRead_within (s : State) (c : DmaIx) (x : DmaChan) (d : Descriptor) :
    Within [.raises, .blotter, .ink, .dma, .co] s (beatInkRead s c x d) := by
  unfold beatInkRead
  repeat' first
    | with_reducible apply within_refl
    | with_reducible assumption
    | (extract_lets +onlyGivenNames u
       first
       | (refine within_cut (v := u) ?_ ?_
          all_goals (first | (with_reducible intro hu; revert hu; clear_value u; intro hu) | subst u))
       | clear_value u
       | subst u)
    | (with_reducible apply within_step (inkReadBy_within _ _ _ _); decide)
    | (with_reducible apply within_snd (inkReadBy_within _ _ _ _); with_reducible assumption; decide)
    | (with_reducible apply within_step (modChan_within _ _ _); decide)
    | split

theorem beatStreamRead_within (s : State) (c : DmaIx) (x : DmaChan) (d : Descriptor) :
    Within [.dma] s (beatStreamRead s c x d) := by
  unfold beatStreamRead
  repeat' first
    | with_reducible apply within_refl
    | with_reducible assumption
    | (extract_lets +onlyGivenNames u
       first
       | (refine within_cut (v := u) ?_ ?_
          all_goals (first | (with_reducible intro hu; revert hu; clear_value u; intro hu) | subst u))
       | clear_value u
       | subst u)
    | (with_reducible apply within_step (modChan_within _ _ _); decide)
    | split

theorem beatWrite_within (s : State) (c : DmaIx) (x : DmaChan) (d : Descriptor) :
    Within [.raises, .blotter, .cells, .ink, .dma, .co, .posted] s (beatWrite s c x d) := by
  unfold beatWrite
  repeat' first
    | with_reducible apply within_refl
    | with_reducible assumption
    | (with_reducible apply within_ite <;> intro _)
    | (extract_lets +onlyGivenNames u
       first
       | (refine within_cut (v := u) ?_ ?_
          all_goals (first | (with_reducible intro hu; revert hu; clear_value u; intro hu) | subst u))
       | clear_value u
       | subst u)
    | (with_reducible apply within_step (inkWriteBy_within _ _ _ _ _ _); decide)
    | (with_reducible apply within_step (modChan_within _ _ _); decide)
    | (with_reducible apply within_step (post_within _ _); decide)
    | split

theorem beat_within (s : State) (c : DmaIx) :
    Within [.streams, .eic, .raises, .blotter, .cells, .ink, .dma, .co, .posted] s (beat s c) := by
  unfold beat
  repeat' first
    | with_reducible apply within_refl
    | with_reducible assumption
    | (with_reducible apply within_ite <;> intro _)
    | (extract_lets +onlyGivenNames u
       first
       | (refine within_cut (v := u) ?_ ?_
          all_goals (first | (with_reducible intro hu; revert hu; clear_value u; intro hu) | subst u))
       | clear_value u
       | subst u)
    | (with_reducible apply within_step (beatInkRead_within _ _ _ _); decide)
    | (with_reducible apply within_step (beatStreamRead_within _ _ _ _); decide)
    | (with_reducible apply within_step (beatWrite_within _ _ _ _); decide)
    | (with_reducible apply within_step (busTransfer_within _ _); decide)
    | (with_reducible apply within_step (dataMoved_within _ _); decide)
    | (with_reducible apply within_step (haltChan_within _ _ _ _ _ _); decide)
    | (with_reducible apply within_step (modDma_within _ _); decide)
    | split

theorem doorbell_within (s : State) (c : DmaIx) :
    Within [.eic, .dma] s (doorbell s c) := by
  unfold doorbell
  repeat' first
    | with_reducible apply within_refl
    | with_reducible assumption
    | (with_reducible apply within_ite <;> intro _)
    | (extract_lets +onlyGivenNames u
       first
       | (refine within_cut (v := u) ?_ ?_
          all_goals (first | (with_reducible intro hu; revert hu; clear_value u; intro hu) | subst u))
       | clear_value u
       | subst u)
    | (with_reducible apply within_step (modChan_within _ _ _); decide)
    | (with_reducible apply within_step (readNext_within _ _); decide)
    | (with_reducible apply within_step (startFetch_within _ _ _); decide)
    | split

theorem nextReturned_within (s : State) (c : DmaIx) (next : W64) :
    Within [.eic, .dma] s (nextReturned s c next) := by
  unfold nextReturned
  repeat' first
    | with_reducible apply within_refl
    | with_reducible assumption
    | (with_reducible apply within_ite <;> intro _)
    | (extract_lets +onlyGivenNames u
       first
       | (refine within_cut (v := u) ?_ ?_
          all_goals (first | (with_reducible intro hu; revert hu; clear_value u; intro hu) | subst u))
       | clear_value u
       | subst u)
    | (with_reducible apply within_step (modChan_within _ _ _); decide)
    | (with_reducible apply within_step (readNext_within _ _); decide)
    | (with_reducible apply within_step (startFetch_within _ _ _); decide)
    | split

theorem pollTail_within (s : State) (c : DmaIx) :
    Within [.eic, .dma] s (pollTail s c) := by
  unfold pollTail
  repeat' first
    | with_reducible apply within_refl
    | with_reducible assumption
    | (with_reducible apply within_ite <;> intro _)
    | (with_reducible apply within_step (modChan_within _ _ _); decide)
    | (with_reducible apply within_step (readNext_within _ _); decide)
    | split

theorem haltAll_within (s : State) (cause : Nat) :
    Within [.eic, .dma] s (haltAll s cause) := by
  unfold haltAll
  repeat' first
    | with_reducible apply within_refl
    | with_reducible assumption
    | (with_reducible apply within_step (haltChan_within _ _ _ _ _ _); decide)
    | (with_reducible apply within_forAll; intro _ _)
    | split

theorem reissue_within (s : State) (c : DmaIx) (after : Option AfterRecord) :
    Within [.streams, .eic, .dma, .posted] s (reissue s c after) := by
  unfold reissue
  repeat' first
    | with_reducible apply within_refl
    | with_reducible assumption
    | (with_reducible apply within_step (issueRecord_within _ _ _); decide)
    | split

theorem refetch_within (s : State) (c : DmaIx) (again : Bool) :
    Within [.eic, .dma] s (refetch s c again) := by
  unfold refetch
  repeat' first
    | with_reducible apply within_refl
    | with_reducible assumption
    | (extract_lets +onlyGivenNames u
       first
       | (refine within_cut (v := u) ?_ ?_
          all_goals (first | (with_reducible intro hu; revert hu; clear_value u; intro hu) | subst u))
       | clear_value u
       | subst u)
    | (with_reducible apply within_step (modChan_within _ _ _); decide)
    | (with_reducible apply within_step (startFetch_within _ _ _); decide)
    | split

theorem dmaResumeAt_within (s : State) (c : DmaIx) :
    Within [.streams, .eic, .dma, .posted] s (dmaResumeAt s c) := by
  unfold dmaResumeAt
  repeat' first
    | with_reducible apply within_refl
    | with_reducible assumption
    | (with_reducible apply within_ite <;> intro _)
    | (extract_lets +onlyGivenNames u
       first
       | (refine within_cut (v := u) ?_ ?_
          all_goals (first | (with_reducible intro hu; revert hu; clear_value u; intro hu) | subst u))
       | clear_value u
       | subst u)
    | (with_reducible apply within_step (modChan_within _ _ _); decide)
    | (with_reducible apply within_step (readNext_within _ _); decide)
    | (with_reducible apply within_step (refetch_within _ _ _); decide)
    | (with_reducible apply within_step (reissue_within _ _ _); decide)
    | split

theorem dmaSkipAt_within (s : State) (c : DmaIx) :
    Within [.streams, .eic, .dma, .posted] s (dmaSkipAt s c) := by
  unfold dmaSkipAt
  repeat' first
    | with_reducible apply within_refl
    | with_reducible assumption
    | (with_reducible apply within_ite <;> intro _)
    | (extract_lets +onlyGivenNames u
       first
       | (refine within_cut (v := u) ?_ ?_
          all_goals (first | (with_reducible intro hu; revert hu; clear_value u; intro hu) | subst u))
       | clear_value u
       | subst u)
    | (with_reducible apply within_step (chanRecord_within _ _ _ _); decide)
    | (with_reducible apply within_step (modChan_within _ _ _); decide)
    | (with_reducible apply within_step (reissue_within _ _ _); decide)
    | split

theorem abortResult_within (s : State) (c : DmaIx) (r : Nat) :
    Within [.dma] s (abortResult s c r) := by
  unfold abortResult
  repeat' first
    | with_reducible apply within_refl
    | with_reducible assumption
    | (with_reducible apply within_step (modChan_within _ _ _); decide)
    | split

theorem abortIdle_within (c : DmaIx) (s : State) :
    Within [.dma] s (abortIdle c s) := by
  unfold abortIdle
  repeat' first
    | with_reducible apply within_refl
    | with_reducible assumption
    | (with_reducible apply within_ite <;> intro _)
    | (with_reducible apply within_step (modChan_within _ _ _); decide)
    | split

theorem dmaAbortAt_within (s : State) (c : DmaIx) :
    Within [.streams, .eic, .dma, .posted] s (dmaAbortAt s c) := by
  unfold dmaAbortAt
  repeat' first
    | with_reducible apply within_refl
    | with_reducible assumption
    | (with_reducible apply within_ite <;> intro _)
    | (extract_lets +onlyGivenNames u
       first
       | (refine within_cut (v := u) ?_ ?_
          all_goals (first | (with_reducible intro hu; revert hu; clear_value u; intro hu) | subst u))
       | clear_value u
       | subst u)
    | (with_reducible apply within_step (abortIdle_within _ _); decide)
    | (with_reducible apply within_step (abortResult_within _ _ _); decide)
    | (with_reducible apply within_step (chanRecord_within _ _ _ _); decide)
    | (with_reducible apply within_step (modChan_within _ _ _); decide)
    | (with_reducible apply within_step (reissue_within _ _ _); decide)
    | split

theorem chanLeaves_within (s : State) (c : DmaIx) :
    Within [.streams, .eic, .dma, .posted] s (chanLeaves s c) := by
  unfold chanLeaves
  repeat' first
    | with_reducible apply within_refl
    | with_reducible assumption
    | (with_reducible apply within_step (dmaAbortAt_within _ _); decide)
    | (with_reducible apply within_step (modChan_within _ _ _); decide)
    | split

theorem drainRing_within (s : State) (k : RingIx) :
    Within [.streams, .eic, .dma, .posted] s (drainRing s k) := by
  unfold drainRing
  repeat' first
    | with_reducible apply within_refl
    | with_reducible assumption
    | (with_reducible apply within_ite <;> intro _)
    | (extract_lets +onlyGivenNames u
       first
       | (refine within_cut (v := u) ?_ ?_
          all_goals (first | (with_reducible intro hu; revert hu; clear_value u; intro hu) | subst u))
       | clear_value u
       | subst u)
    | (with_reducible apply within_step (issueRecord_within _ _ _); decide)
    | (with_reducible apply within_forAll; intro _ _)
    | split

theorem writeCons_within (s : State) (k : RingIx) (v : Word) :
    Within [.streams, .eic, .dma, .posted] s (writeCons s k v) := by
  unfold writeCons
  repeat' first
    | with_reducible apply within_refl
    | with_reducible assumption
    | (with_reducible apply within_ite <;> intro _)
    | (extract_lets +onlyGivenNames u
       first
       | (refine within_cut (v := u) ?_ ?_
          all_goals (first | (with_reducible intro hu; revert hu; clear_value u; intro hu) | subst u))
       | clear_value u
       | subst u)
    | (with_reducible apply within_step (drainRing_within _ _); decide)
    | (with_reducible apply within_step (modDma_within _ _); decide)
    | (with_reducible apply within_step (modRing_within _ _ _); decide)
    | split

theorem writeCqBase_within (s : State) (k : RingIx) (v : W64) :
    Within [.dma] s (writeCqBase s k v) := by
  unfold writeCqBase
  repeat' first
    | with_reducible apply within_refl
    | with_reducible assumption
    | (with_reducible apply within_ite <;> intro _)
    | (with_reducible apply within_step (modRing_within _ _ _); decide)
    | split

theorem writeHead_within (s : State) (c : DmaIx) (v : W64) :
    Within [.dma] s (writeHead s c v) := by
  unfold writeHead
  repeat' first
    | with_reducible apply within_refl
    | with_reducible assumption
    | (with_reducible apply within_ite <;> intro _)
    | (with_reducible apply within_step (modChan_within _ _ _); decide)
    | split

theorem writeChanCtrl_within (s : State) (c : DmaIx) (v : Word) :
    Within [.streams, .eic, .dma, .posted] s (writeChanCtrl s c v) := by
  unfold writeChanCtrl
  repeat' first
    | with_reducible apply within_refl
    | with_reducible assumption
    | (with_reducible apply within_ite <;> intro _)
    | (extract_lets +onlyGivenNames u
       first
       | (refine within_cut (v := u) ?_ ?_
          all_goals (first | (with_reducible intro hu; revert hu; clear_value u; intro hu) | subst u))
       | clear_value u
       | subst u)
    | (with_reducible apply within_step (dmaAbortAt_within _ _); decide)
    | (with_reducible apply within_step (dmaResumeAt_within _ _); decide)
    | (with_reducible apply within_step (dmaSkipAt_within _ _); decide)
    | (with_reducible apply within_step (modChan_within _ _ _); decide)
    | split

theorem chanWrite_within (s : State) (c : DmaIx) (off : Nat) (v : Word) :
    Within [.streams, .eic, .dma, .posted] s (chanWrite s c off v) := by
  unfold chanWrite
  repeat' first
    | with_reducible apply within_refl
    | with_reducible assumption
    | (with_reducible apply within_ite <;> intro _)
    | (with_reducible apply within_step (doorbell_within _ _); decide)
    | (with_reducible apply within_step (modChan_within _ _ _); decide)
    | (with_reducible apply within_step (writeChanCtrl_within _ _ _); decide)
    | split

theorem dmaWrite_within (s : State) (off : Nat) (v : Word) :
    Within [.streams, .eic, .dma, .posted] s (dmaWrite s off v) := by
  unfold dmaWrite
  repeat' first
    | with_reducible apply within_refl
    | with_reducible assumption
    | (with_reducible apply within_ite <;> intro _)
    | (with_reducible apply within_step (modDma_within _ _); decide)
    | (with_reducible apply within_step (modRing_within _ _ _); decide)
    | (with_reducible apply within_step (writeCons_within _ _ _); decide)
    | (with_reducible apply within_forAll; intro _ _)
    | split

end Sys2Proof.Machine
end

