-- ==== Sys2Proof/Laws/PartsUnitEvents.lean ====
section
/-! SUPPORT. The parts of the state that each operation of Machine/UnitEvents.lean can change. -/
namespace Sys2Proof.Machine

theorem modUnit_within (s : State) (u : Nat) (f : UnitSt → UnitSt) :
    Within [.units] s (modUnit s u f) := by
  unfold modUnit
  repeat' first
    | with_reducible apply within_refl
    | with_reducible assumption
    | (with_reducible apply within_ite <;> intro _)
    | (with_reducible apply within_step (modFolio_keeps_rest _ _ ?hk); (case hk => first | with_reducible rfl | (simp only [inForce]; done) | ((try dsimp only); (repeat' split) <;> with_reducible rfl)); decide)
    | (with_reducible apply within_step (modFolio_within _ _); decide)
    | split

theorem deliverGlyph_within (s : State) (x : UnitSt) (bit : Nat) :
    Within [.eic, .raises, .blotter] s (deliverGlyph s x bit) := by
  unfold deliverGlyph
  repeat' first
    | with_reducible apply within_refl
    | with_reducible assumption
    | (with_reducible apply within_ite <;> intro _)
    | (with_reducible apply within_step (deliverEvent_within _ _ _ _ _); decide)
    | (with_reducible apply within_step (pushCause_within _ _); decide)
    | split

theorem raiseGlyphEvent_within (s : State) (u bit : Nat) :
    Within [.units, .eic, .raises, .blotter] s (raiseGlyphEvent s u bit) := by
  unfold raiseGlyphEvent
  repeat' first
    | with_reducible apply within_refl
    | with_reducible assumption
    | (with_reducible apply within_ite <;> intro _)
    | (with_reducible apply within_step (deliverGlyph_within _ _ _); decide)
    | (with_reducible apply within_step (modUnit_within _ _ _); decide)
    | split

theorem followBelow_within (s : State) (x : UnitSt) :
    Within [.units, .eic, .raises, .blotter] s (followBelow s x) := by
  unfold followBelow
  repeat' first
    | with_reducible apply within_refl
    | with_reducible assumption
    | (with_reducible apply within_ite <;> intro _)
    | (extract_lets +onlyGivenNames u
       first
       | (refine within_cut (v := u) ?_ ?_
          all_goals (first | (with_reducible intro hu; revert hu; clear_value u; intro hu) | subst u))
       | clear_value u
       | subst u)
    | (with_reducible apply within_step (deliverGlyph_within _ _ _); decide)
    | (with_reducible apply within_step (modUnit_within _ _ _); decide)
    | split

theorem followAllBelow_within (s : State) :
    Within [.units, .eic, .raises, .blotter] s (followAllBelow s) := by
  unfold followAllBelow
  repeat' first
    | with_reducible apply within_refl
    | with_reducible assumption
    | (with_reducible apply within_step (followBelow_within _ _); decide)
    | (with_reducible apply within_forAll; intro _ _)
    | split

theorem settleInputs_within (before s : State) :
    Within [.eic] s (settleInputs before s) := by
  unfold settleInputs
  repeat' first
    | with_reducible apply within_refl
    | with_reducible assumption
    | (extract_lets +onlyGivenNames u
       first
       | (refine within_cut (v := u) ?_ ?_
          all_goals (first | (with_reducible intro hu; revert hu; clear_value u; intro hu) | subst u))
       | clear_value u
       | subst u)
    | (with_reducible apply within_step (modEic_within _ _); decide)
    | split

end Sys2Proof.Machine
end

