-- ==== Sys2Proof/Laws/PartsTrackRegs.lean ====
section
/-! SUPPORT. The parts of the state that each operation of Machine/TrackRegs.lean can change. -/
namespace Sys2Proof.Machine

theorem atReadClear_within (s : State) (i : TrackIx) (off : Nat) :
    Within [.trackers] s (atReadClear s i off) := by
  unfold atReadClear
  repeat' first
    | with_reducible apply within_refl
    | with_reducible assumption
    | (with_reducible apply within_step (modTrack_within _ _ _); decide)
    | split
    | (intro k hk; cases k <;> first | exact absurd (by decide) hk | exact hu _ hk | rfl | exact ⟨rfl, rfl⟩ | exact ⟨rfl, rfl, rfl, rfl⟩)

theorem writeChecked_within (s : State) (i : TrackIx) (ok : Bool) (f : Tracker → Tracker) :
    Within [.inboxes, .trackers, .eic, .raises, .blotter] s (writeChecked s i ok f) := by
  unfold writeChecked
  repeat' first
    | with_reducible apply within_refl
    | with_reducible assumption
    | (with_reducible apply within_ite <;> intro _)
    | (with_reducible apply within_step (modTrack_within _ _ _); decide)
    | (with_reducible apply within_step (trackCfgErr_within _ _); decide)
    | split

theorem atWrite_within (s : State) (i : TrackIx) (off : Nat) (v : Word) :
    Within [.inboxes, .nibs, .nibSetup, .streams, .trackers, .channels, .eic, .raises, .blotter] s (atWrite s i off v) := by
  unfold atWrite
  repeat' first
    | with_reducible apply within_refl
    | with_reducible assumption
    | (with_reducible apply within_ite <;> intro _)
    | (with_reducible apply within_step (modTrack_within _ _ _); decide)
    | (with_reducible apply within_step (writeChecked_within _ _ _ _); decide)
    | (with_reducible apply within_step (writeLearnCtrl_within _ _ _); decide)
    | (with_reducible apply within_step (writeLocked_within _ _ _ _); decide)
    | (with_reducible apply within_step (writeMap_within _ _ _); decide)
    | (with_reducible apply within_step (writeMapCorr_within _ _ _); decide)
    | (with_reducible apply within_step (writeMapFlags_within _ _ _); decide)
    | (with_reducible apply within_step (writeSlaveCtrl_within _ _ _); decide)
    | (with_reducible apply within_step (writeTrackCtrl_within _ _ _); decide)
    | split
    | (intro k hk; cases k <;> first | exact absurd (by decide) hk | exact hu _ hk | rfl | exact ⟨rfl, rfl⟩ | exact ⟨rfl, rfl, rfl, rfl⟩)

theorem atWide_within (s : State) (i : TrackIx) (off : Nat) (v : W64) :
    Within [.inboxes, .trackers, .eic, .raises, .blotter] s (atWide s i off v) := by
  unfold atWide
  repeat' first
    | with_reducible apply within_refl
    | with_reducible assumption
    | (with_reducible apply within_ite <;> intro _)
    | (with_reducible apply within_step (modTrack_within _ _ _); decide)
    | (with_reducible apply within_step (trackCfgErr_within _ _); decide)
    | split
    | (intro k hk; cases k <;> first | exact absurd (by decide) hk | exact hu _ hk | rfl | exact ⟨rfl, rfl⟩ | exact ⟨rfl, rfl, rfl, rfl⟩)

end Sys2Proof.Machine
end

