-- ==== Sys2Proof/Laws/PartsQuill.lean ====
section
/-! SUPPORT. The parts of the state that each operation of Machine/Quill.lean can change. -/
namespace Sys2Proof.Machine

theorem advise_within (s : State) (q : QuillIx) (bit : Nat) :
    Within [.quills, .inboxes, .eic, .raises, .blotter] s (advise s q bit) := by
  unfold advise
  repeat' first
    | with_reducible apply within_refl
    | with_reducible assumption
    | (with_reducible apply within_step (modQuill_keeps_inbox _ _ _ ?hk); (case hk => first | with_reducible rfl | (simp only [inboxOf]; done) | ((try dsimp only); (repeat' split) <;> (simp only [inboxOf]; done))); decide)
    | (with_reducible apply within_step (modQuill_within _ _ _); decide)
    | (with_reducible apply within_step (raiseQuillEvent_within _ _ _); decide)
    | split

theorem stopQuill_within (s : State) (q : QuillIx) (c : StopCause) :
    Within [.quills, .inboxes, .eic, .raises, .blotter] s (stopQuill s q c) := by
  unfold stopQuill
  repeat' first
    | with_reducible apply within_refl
    | with_reducible assumption
    | (with_reducible apply within_ite <;> intro _)
    | (extract_lets +onlyGivenNames u
       first
       | (refine within_cut (v := u) ?_ ?_
          all_goals (first | (with_reducible intro hu; revert hu; clear_value u; intro hu) | subst u))
       | clear_value u
       | subst u)
    | (with_reducible apply within_step (modQuill_keeps_inbox _ _ _ ?hk); (case hk => first | with_reducible rfl | (simp only [inboxOf]; done) | ((try dsimp only); (repeat' split) <;> (simp only [inboxOf]; done))); decide)
    | (with_reducible apply within_step (modQuill_within _ _ _); decide)
    | (with_reducible apply within_step (raiseFault_within _ _ _); decide)
    | (with_reducible apply within_step (raiseQuillEvent_within _ _ _); decide)
    | split

theorem chooseCause_within (s : State) (first : StopCause) (rest : List StopCause) :
    Within [.free] s (chooseCause s first rest).2 := by
  unfold chooseCause
  repeat' first
    | with_reducible apply within_refl
    | with_reducible assumption
    | (with_reducible apply within_ite <;> intro _)
    | (extract_lets +onlyGivenNames u
       first
       | (refine within_cut (v := u) ?_ ?_
          all_goals (first | (with_reducible intro hu; revert hu; clear_value u; intro hu) | subst u))
       | clear_value u
       | subst u)
    | (with_reducible apply within_step (drawFree_within _); decide)
    | split

theorem countCorrected_within (s : State) (q : QuillIx) :
    Within [.quills, .inboxes, .eic, .raises, .blotter] s (countCorrected s q) := by
  unfold countCorrected
  repeat' first
    | with_reducible apply within_refl
    | with_reducible assumption
    | (with_reducible apply within_step (modQuill_keeps_inbox _ _ _ ?hk); (case hk => first | with_reducible rfl | (simp only [inboxOf]; done) | ((try dsimp only); (repeat' split) <;> (simp only [inboxOf]; done))); decide)
    | (with_reducible apply within_step (modQuill_within _ _ _); decide)
    | (with_reducible apply within_step (raiseQuillEvent_within _ _ _); decide)
    | split

theorem accountFetch_within (s : State) (q : QuillIx) (f : Fetched) :
    Within [.quills, .inboxes, .eic, .raises, .blotter] s (accountFetch s q f) := by
  unfold accountFetch
  repeat' first
    | with_reducible apply within_refl
    | with_reducible assumption
    | (with_reducible apply within_ite <;> intro _)
    | (extract_lets +onlyGivenNames u
       first
       | (refine within_cut (v := u) ?_ ?_
          all_goals (first | (with_reducible intro hu; revert hu; clear_value u; intro hu) | subst u))
       | clear_value u
       | subst u)
    | (with_reducible apply within_step (countCorrected_within _ _); decide)
    | (with_reducible apply within_step (countInjected_within _ _); decide)
    | split

theorem accountRead_within (q : QuillIx) (s : State) (i : Fin 64) :
    Within [.blotter] s (accountRead q s i) := by
  unfold accountRead
  repeat' first
    | with_reducible apply within_refl
    | with_reducible assumption
    | (with_reducible apply within_ite <;> intro _)
    | (with_reducible apply within_step (countInjected_within _ _); decide)
    | split

theorem beginWord_within (s : State) (q : QuillIx) (f : Fetched) :
    Within [.quills, .inboxes, .eic, .raises, .blotter] s (beginWord s q f) := by
  unfold beginWord
  repeat' first
    | with_reducible apply within_refl
    | with_reducible assumption
    | (with_reducible apply within_ite <;> intro _)
    | (extract_lets +onlyGivenNames u
       first
       | (refine within_cut (v := u) ?_ ?_
          all_goals (first | (with_reducible intro hu; revert hu; clear_value u; intro hu) | subst u))
       | clear_value u
       | subst u)
    | (with_reducible apply within_step (accountFetch_within _ _ _); decide)
    | (with_reducible apply within_step (accountRead_within _ _ _); decide)
    | (with_reducible apply within_step (modQuill_keeps_inbox _ _ _ ?hk); (case hk => first | with_reducible rfl | (simp only [inboxOf]; done) | ((try dsimp only); (repeat' split) <;> (simp only [inboxOf]; done))); decide)
    | (with_reducible apply within_step (modQuill_within _ _ _); decide)
    | (with_reducible apply within_forAll; intro _ _)
    | split

theorem wordSlot_within {ps : List Part} {s t : State} {q : QuillIx} {slot : Slot} {has : Micro → Bool}
    {act : State → Micro → State} (hp : [.quills, .inboxes, .eic, .raises, .blotter, .free] ⊆ ps)
    (g : ∀ u m, Within ps u (act u m)) (h : Within ps s t) : Within ps s (wordSlot t q slot has act) := by
  refine within_step ?_ (List.Subset.refl _) h
  have hb : ∀ u f, Within ps t u → Within ps t (beginWord u q f) := fun u f h =>
    within_step (beginWord_within u q f) (List.Subset.trans (by decide) hp) h
  have hs : ∀ u c, Within ps t u → Within ps t (stopQuill u q c) := fun u c h =>
    within_step (stopQuill_within u q c) (List.Subset.trans (by decide) hp) h
  unfold wordSlot
  dsimp only
  split
  · exact within_refl _ _
  · split
    · exact hs _ _ (hb _ _ (within_refl _ _))
    · split
      · split
        · exact within_step (modEngine_within _ _ _) (List.Subset.trans (by decide) hp)
            (within_step (g _ _) (List.Subset.refl _) (hb _ _ (within_refl _ _)))
        · exact hs _ _ (within_step (chooseCause_within _ _ _) (List.Subset.trans (by decide) hp)
            (hb _ _ (within_refl _ _)))
      · exact within_refl _ _

theorem atWord_within {ps : List Part} {s t : State} {q : QuillIx} {slot : Slot} {has : Micro → Bool}
    {act : State → Micro → State} (hp : [.quills, .inboxes, .eic, .raises, .blotter, .free] ⊆ ps)
    (g : ∀ u m, Within ps u (act u m)) (h : Within ps s t) : Within ps s (atWord t q slot has act) := by
  unfold atWord
  exact within_ite (fun _ => wordSlot_within hp g h) (fun _ => h)

theorem aluEffect_within (q : QuillIx) (x : AluSlot) (op : AluOp) (s : State) (m : Micro) :
    Within [.quills] s (aluEffect q x op s m) := by
  unfold aluEffect
  repeat' first
    | with_reducible apply within_refl
    | with_reducible assumption
    | (with_reducible apply within_ite <;> intro _)
    | (extract_lets +onlyGivenNames u
       first
       | (refine within_cut (v := u) ?_ ?_
          all_goals (first | (with_reducible intro hu; revert hu; clear_value u; intro hu) | subst u))
       | clear_value u
       | subst u)
    | (with_reducible apply within_step (modEngine_within _ _ _); decide)
    | split

theorem atAlu_within (s : State) (q : QuillIx) (x : AluSlot) (op : AluOp) :
    Within [.quills, .inboxes, .eic, .raises, .blotter, .free] s (atAlu s q x op) := by
  unfold atAlu
  repeat' first
    | with_reducible apply within_refl
    | with_reducible assumption
    | (with_reducible apply within_step (aluEffect_within _ _ _ _ _); decide)
    | (with_reducible apply atWord_within; decide; intro _ _)
    | split

theorem mulEffect_within (q : QuillIx) (op : MulOp) (s : State) (m : Micro) :
    Within [.quills] s (mulEffect q op s m) := by
  unfold mulEffect
  repeat' first
    | with_reducible apply within_refl
    | with_reducible assumption
    | (with_reducible apply within_step (modEngine_within _ _ _); decide)
    | split

theorem divEffect_within (q : QuillIx) (op : DivOp) (s : State) (m : Micro) :
    Within [.quills] s (divEffect q op s m) := by
  unfold divEffect
  repeat' first
    | with_reducible apply within_refl
    | with_reducible assumption
    | (extract_lets +onlyGivenNames u
       first
       | (refine within_cut (v := u) ?_ ?_
          all_goals (first | (with_reducible intro hu; revert hu; clear_value u; intro hu) | subst u))
       | clear_value u
       | subst u)
    | (with_reducible apply within_step (modEngine_within _ _ _); decide)
    | split

theorem atMul_within (s : State) (q : QuillIx) (op : MulOp) :
    Within [.quills, .inboxes, .eic, .raises, .blotter, .free] s (atMul s q op) := by
  unfold atMul
  repeat' first
    | with_reducible apply within_refl
    | with_reducible assumption
    | (with_reducible apply atWord_within; decide; intro _ _)
    | (with_reducible apply within_step (mulEffect_within _ _ _ _); decide)
    | split

theorem atDiv_within (s : State) (q : QuillIx) (op : DivOp) :
    Within [.quills, .inboxes, .eic, .raises, .blotter, .free] s (atDiv s q op) := by
  unfold atDiv
  repeat' first
    | with_reducible apply within_refl
    | with_reducible assumption
    | (with_reducible apply atWord_within; decide; intro _ _)
    | (with_reducible apply within_step (divEffect_within _ _ _ _); decide)
    | split

theorem deniedInk_within (s : State) (q : QuillIx) (a : BitVec 19) (write : Bool) :
    Within [.quills, .inboxes, .eic, .raises, .blotter, .ink] s (deniedInk s q a write) := by
  unfold deniedInk
  repeat' first
    | with_reducible apply within_refl
    | with_reducible assumption
    | (extract_lets +onlyGivenNames u
       first
       | (refine within_cut (v := u) ?_ ?_
          all_goals (first | (with_reducible intro hu; revert hu; clear_value u; intro hu) | subst u))
       | clear_value u
       | subst u)
    | (with_reducible apply within_step (advise_within _ _ _); decide)
    | (with_reducible apply within_step (denyAccess_within _ _ _ _ _); decide)
    | (with_reducible apply within_step (modQuill_keeps_inbox _ _ _ ?hk); (case hk => first | with_reducible rfl | (simp only [inboxOf]; done) | ((try dsimp only); (repeat' split) <;> (simp only [inboxOf]; done))); decide)
    | (with_reducible apply within_step (modQuill_within _ _ _); decide)
    | split

theorem inkReadEffect_within (q : QuillIx) (s : State) (m : Micro) :
    Within [.quills, .inboxes, .eic, .raises, .blotter, .ink, .co] s (inkReadEffect q s m) := by
  unfold inkReadEffect
  repeat' first
    | with_reducible apply within_refl
    | with_reducible assumption
    | (with_reducible apply within_ite <;> intro _)
    | (extract_lets +onlyGivenNames u
       first
       | (refine within_cut (v := u) ?_ ?_
          all_goals (first | (with_reducible intro hu; revert hu; clear_value u; intro hu) | subst u))
       | clear_value u
       | subst u)
    | (with_reducible apply within_step (deniedInk_within _ _ _ _); decide)
    | (with_reducible apply within_step (inkRead_within _ _ _); decide)
    | (with_reducible apply within_snd (inkRead_within _ _ _); with_reducible assumption; decide)
    | (with_reducible apply within_step (modEngine_within _ _ _); decide)
    | split

theorem inkWriteEffect_within (q : QuillIx) (s : State) (m : Micro) :
    Within [.quills, .inboxes, .eic, .raises, .blotter, .ink] s (inkWriteEffect q s m) := by
  unfold inkWriteEffect
  repeat' first
    | with_reducible apply within_refl
    | with_reducible assumption
    | (with_reducible apply within_ite <;> intro _)
    | (extract_lets +onlyGivenNames u
       first
       | (refine within_cut (v := u) ?_ ?_
          all_goals (first | (with_reducible intro hu; revert hu; clear_value u; intro hu) | subst u))
       | clear_value u
       | subst u)
    | (with_reducible apply within_step (advise_within _ _ _); decide)
    | (with_reducible apply within_step (deniedInk_within _ _ _ _); decide)
    | (with_reducible apply within_step (modEngine_within _ _ _); decide)
    | split

theorem atInkRead_within (s : State) (q : QuillIx) (code : Nat) :
    Within [.quills, .inboxes, .eic, .raises, .blotter, .ink, .co, .free] s (atInkRead s q code) := by
  unfold atInkRead
  repeat' first
    | with_reducible apply within_refl
    | with_reducible assumption
    | (with_reducible apply atWord_within; decide; intro _ _)
    | (with_reducible apply within_step (inkReadEffect_within _ _ _); decide)
    | split

theorem atInkWrite_within (s : State) (q : QuillIx) (code : Nat) :
    Within [.quills, .inboxes, .eic, .raises, .blotter, .ink, .free] s (atInkWrite s q code) := by
  unfold atInkWrite
  repeat' first
    | with_reducible apply within_refl
    | with_reducible assumption
    | (with_reducible apply atWord_within; decide; intro _ _)
    | (with_reducible apply within_step (inkWriteEffect_within _ _ _); decide)
    | split

theorem eventEffect_within (q : QuillIx) (op : EventOp) (s : State) (m : Micro) :
    Within [.quills] s (eventEffect q op s m) := by
  unfold eventEffect
  repeat' first
    | with_reducible apply within_refl
    | with_reducible assumption
    | (extract_lets +onlyGivenNames u
       first
       | (refine within_cut (v := u) ?_ ?_
          all_goals (first | (with_reducible intro hu; revert hu; clear_value u; intro hu) | subst u))
       | clear_value u
       | subst u)
    | (with_reducible apply within_step (modEngine_within _ _ _); decide)
    | split

theorem atEvent_within (s : State) (q : QuillIx) (op : EventOp) :
    Within [.quills, .inboxes, .eic, .raises, .blotter, .free] s (atEvent s q op) := by
  unfold atEvent
  repeat' first
    | with_reducible apply within_refl
    | with_reducible assumption
    | (with_reducible apply atWord_within; decide; intro _ _)
    | (with_reducible apply within_step (eventEffect_within _ _ _ _); decide)
    | split

theorem commitEffect_within (q : QuillIx) (cop : Nat) (s : State) (m : Micro) :
    Within [.quills] s (commitEffect q cop s m) := by
  unfold commitEffect
  repeat' first
    | with_reducible apply within_refl
    | with_reducible assumption
    | (with_reducible apply within_step (modEngine_within _ _ _); decide)
    | split

theorem atCommit_within (s : State) (q : QuillIx) (cop : Nat) :
    Within [.quills, .inboxes, .eic, .raises, .blotter, .free] s (atCommit s q cop) := by
  unfold atCommit
  repeat' first
    | with_reducible apply within_refl
    | with_reducible assumption
    | (with_reducible apply atWord_within; decide; intro _ _)
    | (with_reducible apply within_step (commitEffect_within _ _ _ _); decide)
    | split

theorem seqEffect_within (q : QuillIx) (s : State) (m : Micro) :
    Within [.quills] s (seqEffect q s m) := by
  unfold seqEffect
  repeat' first
    | with_reducible apply within_refl
    | with_reducible assumption
    | (with_reducible apply within_step (modQuill_keeps_inbox _ _ _ ?hk); (case hk => first | with_reducible rfl | (simp only [inboxOf]; done) | ((try dsimp only); (repeat' split) <;> (simp only [inboxOf]; done))); decide)
    | (with_reducible apply within_step (modQuill_within _ _ _); decide)
    | split

theorem atSeq_within (s : State) (q : QuillIx) (code : Nat) :
    Within [.quills, .inboxes, .eic, .raises, .blotter, .free] s (atSeq s q code) := by
  unfold atSeq
  repeat' first
    | with_reducible apply within_refl
    | with_reducible assumption
    | (with_reducible apply atWord_within; decide; intro _ _)
    | (with_reducible apply within_step (seqEffect_within _ _ _); decide)
    | split

theorem enterHalt_within (s : State) (q : QuillIx) :
    Within [.quills, .inboxes, .eic, .raises, .blotter] s (enterHalt s q) := by
  unfold enterHalt
  repeat' first
    | with_reducible apply within_refl
    | with_reducible assumption
    | (with_reducible apply within_step (modQuill_keeps_inbox _ _ _ ?hk); (case hk => first | with_reducible rfl | (simp only [inboxOf]; done) | ((try dsimp only); (repeat' split) <;> (simp only [inboxOf]; done))); decide)
    | (with_reducible apply within_step (modQuill_within _ _ _); decide)
    | (with_reducible apply within_step (raiseQuillEvent_within _ _ _); decide)
    | split

theorem writeBack_within (s : State) (q : QuillIx) :
    Within [.quills, .inboxes, .eic, .raises, .blotter] s (writeBack s q) := by
  unfold writeBack
  repeat' first
    | with_reducible apply within_refl
    | with_reducible assumption
    | (with_reducible apply within_ite <;> intro _)
    | (extract_lets +onlyGivenNames u
       first
       | (refine within_cut (v := u) ?_ ?_
          all_goals (first | (with_reducible intro hu; revert hu; clear_value u; intro hu) | subst u))
       | clear_value u
       | subst u)
    | (with_reducible apply within_step (advise_within _ _ _); decide)
    | (with_reducible apply within_step (enterHalt_within _ _); decide)
    | (with_reducible apply within_step (modQuill_keeps_inbox _ _ _ ?hk); (case hk => first | with_reducible rfl | (simp only [inboxOf]; done) | ((try dsimp only); (repeat' split) <;> (simp only [inboxOf]; done))); decide)
    | (with_reducible apply within_step (modQuill_keeps_rest _ _ _ ?hk); (case hk => first | with_reducible rfl | (simp only [restOfQuill]; done) | ((try dsimp only); (repeat' split) <;> (simp only [restOfQuill]; done))); decide)
    | (with_reducible apply within_step (modQuill_within _ _ _); decide)
    | split

theorem haltQuill_within (s : State) (q : QuillIx) :
    Within [.quills, .inboxes, .eic, .raises, .blotter] s (haltQuill s q) := by
  unfold haltQuill
  repeat' first
    | with_reducible apply within_refl
    | with_reducible assumption
    | (with_reducible apply within_ite <;> intro _)
    | (extract_lets +onlyGivenNames u
       first
       | (refine within_cut (v := u) ?_ ?_
          all_goals (first | (with_reducible intro hu; revert hu; clear_value u; intro hu) | subst u))
       | clear_value u
       | subst u)
    | (with_reducible apply within_step (enterHalt_within _ _); decide)
    | (with_reducible apply within_step (modQuill_keeps_inbox _ _ _ ?hk); (case hk => first | with_reducible rfl | (simp only [inboxOf]; done) | ((try dsimp only); (repeat' split) <;> (simp only [inboxOf]; done))); decide)
    | (with_reducible apply within_step (modQuill_within _ _ _); decide)
    | split

theorem wholeAlu_within (q : QuillIx) (m : Micro) (x : AluSlot) (s : State) :
    Within [.quills] s (wholeAlu q m x s) := by
  unfold wholeAlu
  repeat' first
    | with_reducible apply within_refl
    | with_reducible assumption
    | (with_reducible apply within_step (aluEffect_within _ _ _ _ _); decide)
    | split

theorem wholeWord_within (q : QuillIx) (s : State) (m : Micro) :
    Within [.quills, .inboxes, .eic, .raises, .blotter, .ink, .co] s (wholeWord q s m) := by
  unfold wholeWord
  repeat' first
    | with_reducible apply within_refl
    | with_reducible assumption
    | (with_reducible apply within_ite <;> intro _)
    | (extract_lets +onlyGivenNames u
       first
       | (refine within_cut (v := u) ?_ ?_
          all_goals (first | (with_reducible intro hu; revert hu; clear_value u; intro hu) | subst u))
       | clear_value u
       | subst u)
    | (with_reducible apply within_step (commitEffect_within _ _ _ _); decide)
    | (with_reducible apply within_step (divEffect_within _ _ _ _); decide)
    | (with_reducible apply within_step (eventEffect_within _ _ _ _); decide)
    | (with_reducible apply within_step (inkReadEffect_within _ _ _); decide)
    | (with_reducible apply within_step (inkWriteEffect_within _ _ _); decide)
    | (with_reducible apply within_step (mulEffect_within _ _ _ _); decide)
    | (with_reducible apply within_step (seqEffect_within _ _ _); decide)
    | (with_reducible apply within_step (wholeAlu_within _ _ _ _); decide)
    | split

theorem stepFrozen_within (s : State) (q : QuillIx) :
    Within [.quills, .inboxes, .eic, .raises, .blotter, .ink, .co, .free] s (stepFrozen s q) := by
  unfold stepFrozen
  repeat' first
    | with_reducible apply within_refl
    | with_reducible assumption
    | (with_reducible apply within_ite <;> intro _)
    | (extract_lets +onlyGivenNames u
       first
       | (refine within_cut (v := u) ?_ ?_
          all_goals (first | (with_reducible intro hu; revert hu; clear_value u; intro hu) | subst u))
       | clear_value u
       | subst u)
    | (with_reducible apply within_step (wholeWord_within _ _ _); decide)
    | (with_reducible apply wordSlot_within; decide; intro _ _)
    | (with_reducible apply within_step (writeBack_within _ _); decide)
    | split

theorem resumeQuill_within (s : State) (q : QuillIx) :
    Within [.quills] s (resumeQuill s q) := by
  unfold resumeQuill
  repeat' first
    | with_reducible apply within_refl
    | with_reducible assumption
    | (with_reducible apply within_ite <;> intro _)
    | (with_reducible apply within_step (modQuill_keeps_inbox _ _ _ ?hk); (case hk => first | with_reducible rfl | (simp only [inboxOf]; done) | ((try dsimp only); (repeat' split) <;> (simp only [inboxOf]; done))); decide)
    | (with_reducible apply within_step (modQuill_within _ _ _); decide)
    | split

theorem quillReadClear_within (s : State) (q : QuillIx) (off : Nat) :
    Within [.quills] s (quillReadClear s q off) := by
  unfold quillReadClear
  repeat' first
    | with_reducible apply within_refl
    | with_reducible assumption
    | (with_reducible apply within_step (modQuill_keeps_inbox _ _ _ ?hk); (case hk => first | with_reducible rfl | (simp only [inboxOf]; done) | ((try dsimp only); (repeat' split) <;> (simp only [inboxOf]; done))); decide)
    | (with_reducible apply within_step (modQuill_within _ _ _); decide)
    | split

theorem writeMbx_within (s : State) (q : QuillIx) (reg : Fin 17) (v : Word) :
    Within [.quills] s (writeMbx s q reg v) := by
  unfold writeMbx
  repeat' first
    | with_reducible apply within_refl
    | with_reducible assumption
    | (with_reducible apply within_ite <;> intro _)
    | (with_reducible apply within_dite <;> intro _)
    | (with_reducible apply within_step (modQuill_keeps_inbox _ _ _ ?hk); (case hk => first | with_reducible rfl | (simp only [inboxOf]; done) | ((try dsimp only); (repeat' split) <;> (simp only [inboxOf]; done))); decide)
    | (with_reducible apply within_step (modQuill_within _ _ _); decide)
    | split

theorem quillWrite_within (s : State) (q : QuillIx) (off : Nat) (v : Word) :
    Within [.quills, .inboxes] s (quillWrite s q off v) := by
  unfold quillWrite
  repeat' first
    | with_reducible apply within_refl
    | with_reducible assumption
    | (with_reducible apply within_ite <;> intro _)
    | (with_reducible apply within_dite <;> intro _)
    | (with_reducible apply within_step (modQuill_keeps_inbox _ _ _ ?hk); (case hk => first | with_reducible rfl | (simp only [inboxOf]; done) | ((try dsimp only); (repeat' split) <;> (simp only [inboxOf]; done))); decide)
    | (with_reducible apply within_step (modQuill_keeps_rest _ _ _ ?hk); (case hk => first | with_reducible rfl | (simp only [restOfQuill]; done) | ((try dsimp only); (repeat' split) <;> (simp only [restOfQuill]; done))); decide)
    | (with_reducible apply within_step (modQuill_within _ _ _); decide)
    | (with_reducible apply within_step (writeMbx_within _ _ _ _); decide)
    | split

end Sys2Proof.Machine
end

