-- ==== Sys2Proof/Laws/PartsSpares.lean ====
section
/-! SUPPORT. The parts of the state that each operation of Machine/Spares.lean can change. -/
namespace Sys2Proof.Machine

theorem setRole_within (s : State) (p : PhysIx) (r : PhysRole) :
    Within [.pool] s (setRole s p r) := by
  unfold setRole
  repeat' first
    | with_reducible apply within_refl
    | with_reducible assumption
    | (with_reducible apply within_step (modPool_within _ _); decide)
    | split

theorem endPair_within (s : State) (p : PhysIx) :
    Within [.quills] s (endPair s p) := by
  unfold endPair
  repeat' first
    | with_reducible apply within_refl
    | with_reducible assumption
    | (with_reducible apply within_step (modQuill_keeps_inbox _ _ _ ?hk); (case hk => first | with_reducible rfl | (simp only [inboxOf]; done) | ((try dsimp only); (repeat' split) <;> (simp only [inboxOf]; done))); decide)
    | (with_reducible apply within_step (modQuill_within _ _ _); decide)
    | split

theorem reviewRoles_within (s : State) :
    Within [.quills, .raises, .blotter, .pool] s (reviewRoles s) := by
  unfold reviewRoles
  repeat' first
    | with_reducible apply within_refl
    | with_reducible assumption
    | (with_reducible apply within_ite <;> intro _)
    | (extract_lets +onlyGivenNames u
       first
       | (refine within_cut (v := u) ?_ ?_
          all_goals (first | (with_reducible intro hu; revert hu; clear_value u; intro hu) | subst u))
       | clear_value u
       | subst u)
    | (with_reducible apply within_step (endPair_within _ _); decide)
    | (with_reducible apply within_step (noteExhausted_within _ _ _); decide)
    | (with_reducible apply within_step (setRole_within _ _ _); decide)
    | split

theorem retirePhys_within (s : State) (p : PhysIx) (cause unit : Nat) :
    Within [.quills, .raises, .blotter, .ink, .pool] s (retirePhys s p cause unit) := by
  unfold retirePhys
  repeat' first
    | with_reducible apply within_refl
    | with_reducible assumption
    | (extract_lets +onlyGivenNames u
       first
       | (refine within_cut (v := u) ?_ ?_
          all_goals (first | (with_reducible intro hu; revert hu; clear_value u; intro hu) | subst u))
       | clear_value u
       | subst u)
    | (with_reducible apply within_step (addLedger_within _ _ _ _ _); decide)
    | (with_reducible apply within_step (endPair_within _ _); decide)
    | (with_reducible apply within_step (raiseFault_within _ _ _); decide)
    | (with_reducible apply within_step (reviewRoles_within _); decide)
    | (with_reducible apply within_step (setRole_within _ _ _); decide)
    | split

theorem moveQuill_within (s : State) (q : QuillIx) (target : PhysIx) (cause : Nat) :
    Within [.quills, .raises, .blotter, .ink, .pool] s (moveQuill s q target cause) := by
  unfold moveQuill
  repeat' first
    | with_reducible apply within_refl
    | with_reducible assumption
    | (with_reducible apply within_ite <;> intro _)
    | (extract_lets +onlyGivenNames u
       first
       | (refine within_cut (v := u) ?_ ?_
          all_goals (first | (with_reducible intro hu; revert hu; clear_value u; intro hu) | subst u))
       | clear_value u
       | subst u)
    | (with_reducible apply within_step (modPool_within _ _); decide)
    | (with_reducible apply within_step (modQuill_keeps_inbox _ _ _ ?hk); (case hk => first | with_reducible rfl | (simp only [inboxOf]; done) | ((try dsimp only); (repeat' split) <;> (simp only [inboxOf]; done))); decide)
    | (with_reducible apply within_step (modQuill_within _ _ _); decide)
    | (with_reducible apply within_step (retirePhys_within _ _ _ _); decide)
    | (with_reducible apply within_step (reviewRoles_within _); decide)
    | (with_reducible apply within_step (setRole_within _ _ _); decide)
    | split

theorem movesTick_within (s : State) :
    Within [.quills, .raises, .blotter, .ink, .pool] s (movesTick s) := by
  unfold movesTick
  repeat' first
    | with_reducible apply within_refl
    | with_reducible assumption
    | (extract_lets +onlyGivenNames u
       first
       | (refine within_cut (v := u) ?_ ?_
          all_goals (first | (with_reducible intro hu; revert hu; clear_value u; intro hu) | subst u))
       | clear_value u
       | subst u)
    | (with_reducible apply within_step (failureWithoutSpare_within _ _); decide)
    | (with_reducible apply within_step (modPool_within _ _); decide)
    | (with_reducible apply within_step (moveQuill_within _ _ _ _); decide)
    | (with_reducible apply within_forAll; intro _ _)
    | split

theorem storeCopies_within (s : State) :
    Within [.pool] s (storeCopies s) := by
  unfold storeCopies
  repeat' first
    | with_reducible apply within_refl
    | with_reducible assumption
    | (with_reducible apply within_ite <;> intro _)
    | (with_reducible apply within_step (modPool_within _ _); decide)
    | split

theorem moveEnds_within (s : State) (m : QuillMove) :
    Within [.quills, .stores, .raises, .blotter, .ink, .pool] s (moveEnds s m) := by
  unfold moveEnds
  repeat' first
    | with_reducible apply within_refl
    | with_reducible assumption
    | (with_reducible apply within_ite <;> intro _)
    | (extract_lets +onlyGivenNames u
       first
       | (refine within_cut (v := u) ?_ ?_
          all_goals (first | (with_reducible intro hu; revert hu; clear_value u; intro hu) | subst u))
       | clear_value u
       | subst u)
    | (with_reducible apply within_step (modPool_within _ _); decide)
    | (with_reducible apply within_step (modQuill_keeps_inbox _ _ _ ?hk); (case hk => first | with_reducible rfl | (simp only [inboxOf]; done) | ((try dsimp only); (repeat' split) <;> (simp only [inboxOf]; done))); decide)
    | (with_reducible apply within_step (modQuill_within _ _ _); decide)
    | (with_reducible apply within_step (retirePhys_within _ _ _ _); decide)
    | split
    | (intro k hk; cases k <;> first | exact absurd (by decide) hk | exact hu _ hk | rfl | exact ⟨rfl, rfl⟩ | exact ⟨rfl, rfl, rfl, rfl⟩)

theorem leaveStore_within (s : State) (p : PhysIx) :
    Within [.quills, .raises, .blotter, .ink, .pool] s (leaveStore s p) := by
  unfold leaveStore
  repeat' first
    | with_reducible apply within_refl
    | with_reducible assumption
    | (with_reducible apply within_ite <;> intro _)
    | (with_reducible apply within_step (modPool_within _ _); decide)
    | (with_reducible apply within_step (retirePhys_within _ _ _ _); decide)
    | (with_reducible apply within_step (setRole_within _ _ _); decide)
    | split

theorem moveCell_within (s : State) (n : NibIx) :
    Within [.nibs, .nibSetup, .eic, .raises, .blotter, .ink, .pool] s (moveCell s n) := by
  unfold moveCell
  repeat' first
    | with_reducible apply within_refl
    | with_reducible assumption
    | (with_reducible apply within_ite <;> intro _)
    | (extract_lets +onlyGivenNames u
       first
       | (refine within_cut (v := u) ?_ ?_
          all_goals (first | (with_reducible intro hu; revert hu; clear_value u; intro hu) | subst u))
       | clear_value u
       | subst u)
    | (with_reducible apply within_step (addLedger_within _ _ _ _ _); decide)
    | (with_reducible apply within_step (failureWithoutSpare_within _ _); decide)
    | (with_reducible apply within_step (modNib_keeps_setup _ _ _ ?hk); (case hk => first | with_reducible rfl | (simp only [setupOf]; done) | ((try dsimp only); (repeat' split) <;> (simp only [setupOf]; done))); decide)
    | (with_reducible apply within_step (modNib_keeps_doing _ _ _ ?hk); (case hk => first | with_reducible rfl | (simp only [doingOf]; done) | ((try dsimp only); (repeat' split) <;> (simp only [doingOf]; done))); decide)
    | (with_reducible apply within_step (modNib_within _ _ _); decide)
    | (with_reducible apply within_step (modPool_within _ _); decide)
    | (with_reducible apply within_step (noteExhausted_within _ _ _); decide)
    | (with_reducible apply within_step (raiseFault_within _ _ _); decide)
    | (with_reducible apply within_step (raiseNibEvent_within _ _ _); decide)
    | split

theorem takeCe_within (s : State) (e : CeIx) :
    Within [.counters, .raises, .blotter, .ink, .pool] s (takeCe s e) := by
  unfold takeCe
  repeat' first
    | with_reducible apply within_refl
    | with_reducible assumption
    | (with_reducible apply within_ite <;> intro _)
    | (extract_lets +onlyGivenNames u
       first
       | (refine within_cut (v := u) ?_ ?_
          all_goals (first | (with_reducible intro hu; revert hu; clear_value u; intro hu) | subst u))
       | clear_value u
       | subst u)
    | (with_reducible apply within_step (addLedger_within _ _ _ _ _); decide)
    | (with_reducible apply within_step (failureWithoutSpare_within _ _); decide)
    | (with_reducible apply within_step (modCe_within _ _ _); decide)
    | (with_reducible apply within_step (modPool_within _ _); decide)
    | (with_reducible apply within_step (noteExhausted_within _ _ _); decide)
    | (with_reducible apply within_step (raiseFault_within _ _ _); decide)
    | split

theorem swapPll_within (s : State) (cause : Nat) :
    Within [.raises, .blotter, .ink, .pool] s (swapPll s cause) := by
  unfold swapPll
  repeat' first
    | with_reducible apply within_refl
    | with_reducible assumption
    | (extract_lets +onlyGivenNames u
       first
       | (refine within_cut (v := u) ?_ ?_
          all_goals (first | (with_reducible intro hu; revert hu; clear_value u; intro hu) | subst u))
       | clear_value u
       | subst u)
    | (with_reducible apply within_step (addLedger_within _ _ _ _ _); decide)
    | (with_reducible apply within_step (modPool_within _ _); decide)
    | (with_reducible apply within_step (noteExhausted_within _ _ _); decide)
    | (with_reducible apply within_step (raiseFault_within _ _ _); decide)
    | split

theorem pllsFail_within (s : State) :
    Within [.raises, .blotter, .pool] s (pllsFail s) := by
  unfold pllsFail
  repeat' first
    | with_reducible apply within_refl
    | with_reducible assumption
    | (with_reducible apply within_ite <;> intro _)
    | (extract_lets +onlyGivenNames u
       first
       | (refine within_cut (v := u) ?_ ?_
          all_goals (first | (with_reducible intro hu; revert hu; clear_value u; intro hu) | subst u))
       | clear_value u
       | subst u)
    | (with_reducible apply within_step (failureWithoutSpare_within _ _); decide)
    | (with_reducible apply within_step (modPool_within _ _); decide)
    | (with_reducible apply within_step (raiseFault_within _ _ _); decide)
    | split

end Sys2Proof.Machine
end

