-- ==== Sys2Proof/Laws/PartsUnits.lean ====
section
/-! SUPPORT. The parts of the state that each operation of Machine/Units.lean can change. -/
namespace Sys2Proof.Machine

theorem quillReview_within (s : State) (q : QuillIx) :
    Within [.quills] s (quillReview s q) := by
  unfold quillReview
  repeat' first
    | with_reducible apply within_refl
    | with_reducible assumption
    | (with_reducible apply within_ite <;> intro _)
    | (extract_lets +onlyGivenNames u
       first
       | (refine within_cut (v := u) ?_ ?_
          all_goals (first | (with_reducible intro hu; revert hu; clear_value u; intro hu) | subst u))
       | clear_value u
       | subst u)
    | (with_reducible apply within_step (modQuill_keeps_inbox _ _ _ ?hk); (case hk => first | with_reducible rfl | (simp only [inboxOf]; done) | ((try dsimp only); (repeat' split) <;> (simp only [inboxOf]; done))); decide)
    | (with_reducible apply within_step (modQuill_within _ _ _); decide)
    | split

theorem reviewUnit_within (s : State) (x : UnitSt) :
    Within [.quills, .inboxes, .nibs, .nibSetup, .links, .streams, .trackers, .channels, .comparators, .adc, .counters, .eic, .raises, .blotter, .ink, .co] s (reviewUnit s x) := by
  unfold reviewUnit
  repeat' first
    | with_reducible apply within_refl
    | with_reducible assumption
    | (with_reducible apply within_step (adcReview_within _); decide)
    | (with_reducible apply within_step (ceReview_within _ _); decide)
    | (with_reducible apply within_step (compReview_within _ _); decide)
    | (with_reducible apply within_step (emuReview_within _ _); decide)
    | (with_reducible apply within_step (fbReview_within _ _); decide)
    | (with_reducible apply within_step (linkReview_within _ _); decide)
    | (with_reducible apply within_step (nibReview_within _ _); decide)
    | (with_reducible apply within_step (quillReview_within _ _); decide)
    | (with_reducible apply within_step (streamReview_within _ _); decide)
    | (with_reducible apply within_step (trackReview_within _ _); decide)
    | split

theorem reviewBelow_within (s : State) (u : Nat) :
    Within [.quills, .inboxes, .nibs, .nibSetup, .links, .streams, .trackers, .channels, .comparators, .adc, .counters, .eic, .raises, .blotter, .ink, .co] s (reviewBelow s u) := by
  unfold reviewBelow
  repeat' first
    | with_reducible apply within_refl
    | with_reducible assumption
    | (with_reducible apply within_step (reviewUnit_within _ _); decide)
    | (with_reducible apply within_forAll; intro _ _)

theorem putOwnEnable_within (s : State) (x : UnitSt) (on : Bool) :
    Within [.units, .quills, .inboxes, .nibs, .nibSetup, .links, .streams, .trackers, .channels, .comparators, .adc, .counters, .eic, .raises, .blotter, .ink, .co] s (putOwnEnable s x on) := by
  unfold putOwnEnable
  repeat' first
    | with_reducible apply within_refl
    | with_reducible assumption
    | (with_reducible apply within_ite <;> intro _)
    | (extract_lets +onlyGivenNames u
       first
       | (refine within_cut (v := u) ?_ ?_
          all_goals (first | (with_reducible intro hu; revert hu; clear_value u; intro hu) | subst u))
       | clear_value u
       | subst u)
    | (with_reducible apply within_step (modUnit_within _ _ _); decide)
    | (with_reducible apply within_step (quillReview_within _ _); decide)
    | (with_reducible apply within_step (reviewBelow_within _ _); decide)
    | (with_reducible apply within_step (setCeCtrl_within _ _ _ _); decide)
    | (with_reducible apply within_step (writeAcCtrl_within _ _ _); decide)
    | (with_reducible apply within_step (writeAdcCtrl_within _ _); decide)
    | (with_reducible apply within_step (writeCsCtrl_within _ _ _); decide)
    | (with_reducible apply within_step (writeEmuCtrl_within _ _ _); decide)
    | (with_reducible apply within_step (writeFbCtrl_within _ _ _); decide)
    | (with_reducible apply within_step (writeNibCtrl_within _ _ _); decide)
    | (with_reducible apply within_step (writeRlCtrl_within _ _ _); decide)
    | (with_reducible apply within_step (writeTrackCtrl_within _ _ _); decide)
    | split

theorem setOwnEnable_within (s : State) (u : Nat) (on : Bool) :
    Within [.units, .quills, .inboxes, .nibs, .nibSetup, .links, .streams, .trackers, .channels, .comparators, .adc, .counters, .eic, .raises, .blotter, .ink, .co] s (setOwnEnable s u on) := by
  unfold setOwnEnable
  repeat' first
    | with_reducible apply within_refl
    | with_reducible assumption
    | (with_reducible apply within_ite <;> intro _)
    | (with_reducible apply within_step (putOwnEnable_within _ _ _); decide)
    | split

theorem pendCtrl_within (s : State) (u : Nat) (act : CtrlAct) :
    Within [.units] s (pendCtrl s u act) := by
  unfold pendCtrl
  repeat' first
    | with_reducible apply within_refl
    | with_reducible assumption
    | (with_reducible apply within_step (modFolio_keeps_rest _ _ ?hk); (case hk => first | with_reducible rfl | (simp only [inForce]; done) | ((try dsimp only); (repeat' split) <;> with_reducible rfl)); decide)
    | (with_reducible apply within_step (modFolio_within _ _); decide)
    | split

theorem askEnable_within (s : State) (u : Nat) (on : Bool) :
    Within [.units] s (askEnable s u on) := by
  unfold askEnable
  repeat' first
    | with_reducible apply within_refl
    | with_reducible assumption
    | (with_reducible apply within_ite <;> intro _)
    | (with_reducible apply within_step (pendCtrl_within _ _ _); decide)
    | split

theorem setSafe_within (s : State) (u : Nat) :
    Within [.units, .inboxes, .nibs, .links, .streams, .eic, .raises, .blotter, .ink, .co] s (setSafe s u) := by
  unfold setSafe
  repeat' first
    | with_reducible apply within_refl
    | with_reducible assumption
    | (with_reducible apply within_ite <;> intro _)
    | (extract_lets +onlyGivenNames u
       first
       | (refine within_cut (v := u) ?_ ?_
          all_goals (first | (with_reducible intro hu; revert hu; clear_value u; intro hu) | subst u))
       | clear_value u
       | subst u)
    | (with_reducible apply within_step (modFolio_keeps_rest _ _ ?hk); (case hk => first | with_reducible rfl | (simp only [inForce]; done) | ((try dsimp only); (repeat' split) <;> with_reducible rfl)); decide)
    | (with_reducible apply within_step (modFolio_within _ _); decide)
    | (with_reducible apply within_step (modUnit_within _ _ _); decide)
    | (with_reducible apply within_step (raiseGlyphEvent_within _ _ _); decide)
    | (with_reducible apply within_step (reviewSafe_within _); decide)
    | split

theorem askRelease_within (s : State) (u : Nat) :
    Within [.units] s (askRelease s u) := by
  unfold askRelease
  repeat' first
    | with_reducible apply within_refl
    | with_reducible assumption
    | (with_reducible apply within_ite <;> intro _)
    | (with_reducible apply within_step (pendCtrl_within _ _ _); decide)
    | split

theorem askApply_within (s : State) (u : Nat) :
    Within [.units] s (askApply s u) := by
  unfold askApply
  repeat' first
    | with_reducible apply within_refl
    | with_reducible assumption
    | (with_reducible apply within_ite <;> intro _)
    | (with_reducible apply within_step (pendCtrl_within _ _ _); decide)
    | split

theorem ctrlActs_within (s : State) (due : List CtrlPend) :
    Within [.units, .quills, .inboxes, .nibs, .nibSetup, .links, .streams, .trackers, .channels, .comparators, .adc, .counters, .eic, .raises, .blotter, .ink, .co] s (ctrlActs s due) := by
  unfold ctrlActs
  repeat' first
    | with_reducible apply within_refl
    | with_reducible assumption
    | (with_reducible apply within_step (modUnit_within _ _ _); decide)
    | (with_reducible apply within_step (setOwnEnable_within _ _ _); decide)
    | (with_reducible apply within_forAll; intro _ _)
    | split

theorem writeBlockEvents_within (s : State) (k : UnitType) (i : Nat) (status : Bool) (v : Word) :
    Within [.time, .quills, .inboxes, .nibs, .nibSetup, .links, .streams, .trackers, .channels, .comparators, .adc, .eic, .raises, .blotter, .ink, .co, .power, .reflexDue] s (writeBlockEvents s k i status v) := by
  unfold writeBlockEvents
  repeat' first
    | with_reducible apply within_refl
    | with_reducible assumption
    | (with_reducible apply within_ite <;> intro _)
    | (extract_lets +onlyGivenNames u
       first
       | (refine within_cut (v := u) ?_ ?_
          all_goals (first | (with_reducible intro hu; revert hu; clear_value u; intro hu) | subst u))
       | clear_value u
       | subst u)
    | (with_reducible apply within_step (acWrite_within _ _ _ _); decide)
    | (with_reducible apply within_step (adcWrite_within _ _ _); decide)
    | (with_reducible apply within_step (atWrite_within _ _ _ _); decide)
    | (with_reducible apply within_step (fbWrite_within _ _ _ _); decide)
    | (with_reducible apply within_step (inkWrite_within _ _ _); decide)
    | (with_reducible apply within_step (nibWrite_within _ _ _ _); decide)
    | (with_reducible apply within_step (quillWrite_within _ _ _ _); decide)
    | split

theorem headerWrite_within (s : State) (u off : Nat) (v : Word) :
    Within [.time, .units, .quills, .inboxes, .nibs, .nibSetup, .links, .streams, .trackers, .channels, .comparators, .adc, .eic, .raises, .blotter, .ink, .co, .power, .reflexDue] s (headerWrite s u off v) := by
  unfold headerWrite
  repeat' first
    | with_reducible apply within_refl
    | with_reducible assumption
    | (with_reducible apply within_ite <;> intro _)
    | (extract_lets +onlyGivenNames u
       first
       | (refine within_cut (v := u) ?_ ?_
          all_goals (first | (with_reducible intro hu; revert hu; clear_value u; intro hu) | subst u))
       | clear_value u
       | subst u)
    | (with_reducible apply within_step (askApply_within _ _); decide)
    | (with_reducible apply within_step (askEnable_within _ _ _); decide)
    | (with_reducible apply within_step (askRelease_within _ _); decide)
    | (with_reducible apply within_step (modUnit_within _ _ _); decide)
    | (with_reducible apply within_step (setSafe_within _ _); decide)
    | (with_reducible apply within_step (writeBlockEvents_within _ _ _ _ _); decide)
    | split

theorem modParam_within (s : State) (u k : Nat) (f : Param → Param) :
    Within [.units] s (modParam s u k f) := by
  unfold modParam
  repeat' first
    | with_reducible apply within_refl
    | with_reducible assumption
    | (with_reducible apply within_step (modUnit_within _ _ _); decide)
    | split

theorem windowWrite_within (s : State) (w off : Nat) (v : Word) :
    Within [.time, .units, .quills, .inboxes, .nibs, .nibSetup, .links, .streams, .trackers, .channels, .comparators, .adc, .eic, .raises, .blotter, .ink, .co, .power, .reflexDue] s (windowWrite s w off v) := by
  unfold windowWrite
  repeat' first
    | with_reducible apply within_refl
    | with_reducible assumption
    | (with_reducible apply within_ite <;> intro _)
    | (with_reducible apply within_step (headerWrite_within _ _ _ _); decide)
    | (with_reducible apply within_step (modParam_within _ _ _ _); decide)
    | split

end Sys2Proof.Machine
end

