-- ==== Sys2Proof/Laws/PartsEicRegs.lean ====
section
/-! SUPPORT. The parts of the state that each operation of Machine/EicRegs.lean can change. -/
namespace Sys2Proof.Machine

theorem takeArrival_within (s : State) (x : SrcIx) :
    Within [.eic] s (takeArrival s x) := by
  unfold takeArrival
  repeat' first
    | with_reducible apply within_refl
    | with_reducible assumption
    | (with_reducible apply within_ite <;> intro _)
    | (with_reducible apply within_step (arrive_within _ _ _); decide)
    | (with_reducible apply within_step (modEic_within _ _); decide)
    | (with_reducible apply within_step (modSource_within _ _ _); decide)
    | split

theorem putSrcCfg_within (s : State) (x : SrcIx) (v : Word) :
    Within [.eic] s (putSrcCfg s x v) := by
  unfold putSrcCfg
  repeat' first
    | with_reducible apply within_refl
    | with_reducible assumption
    | (with_reducible apply within_ite <;> intro _)
    | (with_reducible apply within_step (writeSrcCfg_within _ _ _ _); decide)
    | split

theorem sendVector_within (s : State) (v : Fin 16) :
    Within [.eic, .posted] s (sendVector s v) := by
  unfold sendVector
  repeat' first
    | with_reducible apply within_refl
    | with_reducible assumption
    | (with_reducible apply within_ite <;> intro _)
    | (extract_lets +onlyGivenNames u
       first
       | (refine within_cut (v := u) ?_ ?_
          all_goals (first | (with_reducible intro hu; revert hu; clear_value u; intro hu) | subst u))
       | clear_value u
       | subst u)
    | (with_reducible apply within_step (modEic_within _ _); decide)
    | (with_reducible apply within_step (post_within _ _); decide)
    | split

theorem sendMessages_within (s : State) :
    Within [.eic, .posted] s (sendMessages s) := by
  unfold sendMessages
  repeat' first
    | with_reducible apply within_refl
    | with_reducible assumption
    | (with_reducible apply within_step (sendVector_within _ _); decide)
    | (with_reducible apply within_forAll; intro _ _)

theorem modVector_within (s : State) (v : Fin 16) (f : MsixVector → MsixVector) :
    Within [.eic] s (modVector s v f) := by
  unfold modVector
  repeat' first
    | with_reducible apply within_refl
    | with_reducible assumption
    | (with_reducible apply within_step (modEic_within _ _); decide)
    | split

theorem msixWrite_within (s : State) (off : Nat) (w : Word) :
    Within [.eic] s (msixWrite s off w) := by
  unfold msixWrite
  repeat' first
    | with_reducible apply within_refl
    | with_reducible assumption
    | (extract_lets +onlyGivenNames u
       first
       | (refine within_cut (v := u) ?_ ?_
          all_goals (first | (with_reducible intro hu; revert hu; clear_value u; intro hu) | subst u))
       | clear_value u
       | subst u)
    | (with_reducible apply within_step (modVector_within _ _ _); decide)
    | split

theorem eicReadClear_within (s : State) (p : Path) (off : Nat) :
    Within [.eic] s (eicReadClear s p off) := by
  unfold eicReadClear
  repeat' first
    | with_reducible apply within_refl
    | with_reducible assumption
    | (with_reducible apply within_ite <;> intro _)
    | (with_reducible apply within_step (claimBy_within _ _ _ _); decide)
    | (with_reducible apply within_snd (claimBy_within _ _ _ _); with_reducible assumption; decide)
    | (with_reducible apply within_step (modEic_within _ _); decide)
    | split

theorem writeFallback_within (s : State) (v : Word) :
    Within [.eic] s (writeFallback s v) := by
  unfold writeFallback
  repeat' first
    | with_reducible apply within_refl
    | with_reducible assumption
    | (with_reducible apply within_ite <;> intro _)
    | (extract_lets +onlyGivenNames u
       first
       | (refine within_cut (v := u) ?_ ?_
          all_goals (first | (with_reducible intro hu; revert hu; clear_value u; intro hu) | subst u))
       | clear_value u
       | subst u)
    | (with_reducible apply within_step (modEic_within _ _); decide)
    | split

theorem eicWrite_within (s : State) (p : Path) (off : Nat) (v : Word) :
    Within [.eic] s (eicWrite s p off v) := by
  unfold eicWrite
  repeat' first
    | with_reducible apply within_refl
    | with_reducible assumption
    | (with_reducible apply within_ite <;> intro _)
    | (with_reducible apply within_step (arrive_within _ _ _); decide)
    | (with_reducible apply within_step (completeBy_within _ _ _ _ _); decide)
    | (with_reducible apply within_step (modEic_within _ _); decide)
    | (with_reducible apply within_step (putSrcCfg_within _ _ _); decide)
    | (with_reducible apply within_step (writeAwake_within _ _); decide)
    | (with_reducible apply within_step (writeFallback_within _ _); decide)
    | (with_reducible apply within_step (writeGrpCfg_within _ _ _); decide)
    | split

theorem judgeLevel_within (s : State) (x : SrcIx) :
    Within [.eic] s (judgeLevel s x) := by
  unfold judgeLevel
  repeat' first
    | with_reducible apply within_refl
    | with_reducible assumption
    | (with_reducible apply within_ite <;> intro _)
    | (extract_lets +onlyGivenNames u
       first
       | (refine within_cut (v := u) ?_ ?_
          all_goals (first | (with_reducible intro hu; revert hu; clear_value u; intro hu) | subst u))
       | clear_value u
       | subst u)
    | (with_reducible apply within_step (inputFalls_within _ _); decide)
    | (with_reducible apply within_step (takeArrival_within _ _); decide)
    | split

theorem eicRestore_within (s : State) (image : Option Eic) :
    Within [.eic] s (eicRestore s image) := by
  unfold eicRestore
  repeat' first
    | with_reducible apply within_refl
    | with_reducible assumption
    | (with_reducible apply within_ite <;> intro _)
    | (extract_lets +onlyGivenNames u
       first
       | (refine within_cut (v := u) ?_ ?_
          all_goals (first | (with_reducible intro hu; revert hu; clear_value u; intro hu) | subst u))
       | clear_value u
       | subst u)
    | (with_reducible apply within_step (judgeLevel_within _ _); decide)
    | (with_reducible apply within_step (modEic_within _ _); decide)
    | (with_reducible apply within_forAll; intro _ _)
    | split

end Sys2Proof.Machine
end

