-- ==== Sys2Proof/Laws/PartsPower.lean ====
section
/-! SUPPORT. The parts of the state that each operation of Machine/Power.lean can change. -/
namespace Sys2Proof.Machine

theorem coldState_within (s : State) : Within [.clock, .time, .folio, .units, .quills, .inboxes, .stores, .nibs, .nibSetup, .links, .safeLow, .streams, .trackers, .tickTrackers, .channels, .comparators, .adc, .counters, .eic, .raises, .blotter, .cells, .ink, .dma, .pool, .co, .scribe, .mode, .power, .host, .reflexDue, .latches] s (coldState s) := by
  intro k hk
  cases k <;> first | exact absurd (by decide) hk | rfl | exact ⟨rfl, rfl⟩ | exact ⟨rfl, rfl, rfl, rfl⟩

theorem coldFail_within (s : State) (x : Nat × Nat) :
    Within [.raises, .blotter, .ink, .pool] s (coldFail s x) := by
  unfold coldFail
  repeat' first
    | with_reducible apply within_refl
    | with_reducible assumption
    | (with_reducible apply within_ite <;> intro _)
    | (extract_lets +onlyGivenNames u
       first
       | (refine within_cut (v := u) ?_ ?_
          all_goals (first | (with_reducible intro hu; revert hu; clear_value u; intro hu) | subst u))
       | clear_value u
       | subst u)
    | (with_reducible apply within_step (addLedger_within _ _ _ _ _); decide)
    | (with_reducible apply within_step (modInk_keeps_cells _ _ ?hk); (case hk => first | with_reducible rfl | ((try dsimp only); (repeat' split) <;> with_reducible rfl)); decide)
    | (with_reducible apply within_step (modPool_within _ _); decide)
    | split

theorem formMaps_within (s : State) :
    Within [.quills, .inboxes, .nibs, .nibSetup, .adc, .cells, .ink, .pool] s (formMaps s) := by
  unfold formMaps
  repeat' first
    | with_reducible apply within_refl
    | with_reducible assumption
    | (extract_lets +onlyGivenNames u
       first
       | (refine within_cut (v := u) ?_ ?_
          all_goals (first | (with_reducible intro hu; revert hu; clear_value u; intro hu) | subst u))
       | clear_value u
       | subst u)
    | split
    | (intro k hk; cases k <;> first | exact absurd (by decide) hk | exact hu _ hk | rfl | exact ⟨rfl, rfl⟩ | exact ⟨rfl, rfl, rfl, rfl⟩)

theorem stageFailures_within (s : State) (failed : List (Nat × Nat)) :
    Within [.quills, .inboxes, .nibs, .nibSetup, .adc, .raises, .blotter, .cells, .ink, .pool] s (stageFailures s failed) := by
  unfold stageFailures
  repeat' first
    | with_reducible apply within_refl
    | with_reducible assumption
    | (with_reducible apply within_ite <;> intro _)
    | (extract_lets +onlyGivenNames u
       first
       | (refine within_cut (v := u) ?_ ?_
          all_goals (first | (with_reducible intro hu; revert hu; clear_value u; intro hu) | subst u))
       | clear_value u
       | subst u)
    | (with_reducible apply within_step (coldFail_within _ _); decide)
    | (with_reducible apply within_step (formMaps_within _); decide)
    | (with_reducible apply within_forAll; intro _ _)
    | split

theorem holdReset_within (s : State) (cause : BitVec 4) :
    Within [.clock, .time, .folio, .units, .quills, .inboxes, .stores, .nibs, .nibSetup, .links, .safeLow, .streams, .trackers, .tickTrackers, .channels, .comparators, .adc, .counters, .eic, .raises, .blotter, .cells, .ink, .dma, .pool, .co, .scribe, .mode, .power, .host, .reflexDue, .latches] s (holdReset s cause) := by
  unfold holdReset
  repeat' first
    | with_reducible apply within_refl
    | with_reducible assumption
    | (extract_lets +onlyGivenNames u
       first
       | (refine within_cut (v := u) ?_ ?_
          all_goals (first | (with_reducible intro hu; revert hu; clear_value u; intro hu) | subst u))
       | clear_value u
       | subst u)
    | (with_reducible apply within_step (coldState_within _); decide)
    | (with_reducible apply within_step (modPower_keeps_mode _ _ ?hk); (case hk => first | with_reducible rfl | ((try dsimp only); (repeat' split) <;> with_reducible rfl)); decide)
    | split

theorem checkKeepsake_within (s : State) :
    Within [.power, .free] s (checkKeepsake s) := by
  unfold checkKeepsake
  repeat' first
    | with_reducible apply within_refl
    | with_reducible assumption
    | (with_reducible apply within_ite <;> intro _)
    | (extract_lets +onlyGivenNames u
       first
       | (refine within_cut (v := u) ?_ ?_
          all_goals (first | (with_reducible intro hu; revert hu; clear_value u; intro hu) | subst u))
       | clear_value u
       | subst u)
    | (with_reducible apply within_step (drawFree_within _); decide)
    | (with_reducible apply within_step (modPower_keeps_mode _ _ ?hk); (case hk => first | with_reducible rfl | ((try dsimp only); (repeat' split) <;> with_reducible rfl)); decide)
    | split

theorem beginStart_within (s : State) :
    Within [.clock, .mode, .power, .free] s (beginStart s) := by
  unfold beginStart
  repeat' first
    | with_reducible apply within_refl
    | with_reducible assumption
    | (with_reducible apply within_ite <;> intro _)
    | (extract_lets +onlyGivenNames u
       first
       | (refine within_cut (v := u) ?_ ?_
          all_goals (first | (with_reducible intro hu; revert hu; clear_value u; intro hu) | subst u))
       | clear_value u
       | subst u)
    | (with_reducible apply within_step (checkKeepsake_within _); decide)
    | (with_reducible apply within_step (modPower_keeps_mode _ _ ?hk); (case hk => first | with_reducible rfl | ((try dsimp only); (repeat' split) <;> with_reducible rfl)); decide)
    | (with_reducible apply within_step (modPower_within _ _); decide)
    | (with_reducible apply within_step (modTime_keeps_clock _ _ ?hk); (case hk => first | with_reducible rfl | (simp only [clockOf]; done) | ((try dsimp only); (repeat' split) <;> with_reducible rfl)); decide)
    | (with_reducible apply within_step (modTime_keeps_rest _ _ ?hk); (case hk => first | with_reducible rfl | (simp only [restOfTime]; done) | ((try dsimp only); (repeat' split) <;> with_reducible rfl)); decide)
    | (with_reducible apply within_step (modTime_within _ _); decide)
    | split
    | (intro k hk; cases k <;> first | exact absurd (by decide) hk | exact hu _ hk | rfl | exact ⟨rfl, rfl⟩ | exact ⟨rfl, rfl, rfl, rfl⟩)

theorem porstWakes_within (s : State) :
    Within [.power] s (porstWakes s) := by
  unfold porstWakes
  repeat' first
    | with_reducible apply within_refl
    | with_reducible assumption
    | (with_reducible apply within_ite <;> intro _)
    | (with_reducible apply within_step (modPower_keeps_mode _ _ ?hk); (case hk => first | with_reducible rfl | ((try dsimp only); (repeat' split) <;> with_reducible rfl)); decide)
    | split

theorem pllsLock_within (s : State) (unlocked : BitVec 2) :
    Within [.clock, .time, .nibs, .nibSetup, .pool] s (pllsLock s unlocked) := by
  unfold pllsLock
  repeat' first
    | with_reducible apply within_refl
    | with_reducible assumption
    | (extract_lets +onlyGivenNames u
       first
       | (refine within_cut (v := u) ?_ ?_
          all_goals (first | (with_reducible intro hu; revert hu; clear_value u; intro hu) | subst u))
       | clear_value u
       | subst u)
    | (with_reducible apply within_step (fineAgain_within _); decide)
    | (with_reducible apply within_step (modPool_within _ _); decide)
    | split

theorem takeSafePin_within (s : State) :
    Within [.inboxes, .nibs, .nibSetup, .links, .safeLow, .streams, .eic, .raises, .blotter, .ink, .co, .reflexDue] s (takeSafePin s) := by
  unfold takeSafePin
  repeat' first
    | with_reducible apply within_refl
    | with_reducible assumption
    | (with_reducible apply within_ite <;> intro _)
    | (with_reducible apply within_step (safeNFalls_within _); decide)
    | split

theorem becomeReady_within (s : State) :
    Within [.clock, .inboxes, .nibs, .nibSetup, .links, .safeLow, .streams, .adc, .eic, .raises, .blotter, .ink, .co, .scribe, .mode, .power, .reflexDue] s (becomeReady s) := by
  unfold becomeReady
  repeat' first
    | with_reducible apply within_refl
    | with_reducible assumption
    | (with_reducible apply within_ite <;> intro _)
    | (extract_lets +onlyGivenNames u
       first
       | (refine within_cut (v := u) ?_ ?_
          all_goals (first | (with_reducible intro hu; revert hu; clear_value u; intro hu) | subst u))
       | clear_value u
       | subst u)
    | (with_reducible apply within_step (adcReview_within _); decide)
    | (with_reducible apply within_step (eicRestore_within _ _); decide)
    | (with_reducible apply within_step (modPower_keeps_mode _ _ ?hk); (case hk => first | with_reducible rfl | ((try dsimp only); (repeat' split) <;> with_reducible rfl)); decide)
    | (with_reducible apply within_step (modPower_within _ _); decide)
    | (with_reducible apply within_step (modScribe_within _ _); decide)
    | (with_reducible apply within_step (modTime_keeps_clock _ _ ?hk); (case hk => first | with_reducible rfl | (simp only [clockOf]; done) | ((try dsimp only); (repeat' split) <;> with_reducible rfl)); decide)
    | (with_reducible apply within_step (modTime_keeps_rest _ _ ?hk); (case hk => first | with_reducible rfl | (simp only [restOfTime]; done) | ((try dsimp only); (repeat' split) <;> with_reducible rfl)); decide)
    | (with_reducible apply within_step (modTime_within _ _); decide)
    | (with_reducible apply within_step (takeSafePin_within _); decide)
    | split
    | (intro k hk; cases k <;> first | exact absurd (by decide) hk | exact hu _ hk | rfl | exact ⟨rfl, rfl⟩ | exact ⟨rfl, rfl, rfl, rfl⟩)

theorem stageDone_within (s : State) (ok : Bool) (failed : List (Nat × Nat)) :
    Within [.clock, .time, .quills, .inboxes, .nibs, .nibSetup, .links, .safeLow, .streams, .adc, .eic, .raises, .blotter, .cells, .ink, .pool, .co, .scribe, .mode, .power, .reflexDue] s (stageDone s ok failed) := by
  unfold stageDone
  repeat' first
    | with_reducible apply within_refl
    | with_reducible assumption
    | (with_reducible apply within_ite <;> intro _)
    | (extract_lets +onlyGivenNames u
       first
       | (refine within_cut (v := u) ?_ ?_
          all_goals (first | (with_reducible intro hu; revert hu; clear_value u; intro hu) | subst u))
       | clear_value u
       | subst u)
    | (with_reducible apply within_step (becomeReady_within _); decide)
    | (with_reducible apply within_step (modPower_keeps_mode _ _ ?hk); (case hk => first | with_reducible rfl | ((try dsimp only); (repeat' split) <;> with_reducible rfl)); decide)
    | (with_reducible apply within_step (pllsLock_within _ _); decide)
    | (with_reducible apply within_step (stageFailures_within _ _); decide)
    | split

theorem beginRestart_within (s : State) :
    Within [.scribe] s (beginRestart s) := by
  unfold beginRestart
  repeat' first
    | with_reducible apply within_refl
    | with_reducible assumption
    | (with_reducible apply within_step (modScribe_within _ _); decide)
    | split

theorem enterSleep_within (s : State) :
    Within [.clock, .time, .eic, .pool, .scribe, .mode, .power, .host] s (enterSleep s) := by
  unfold enterSleep
  repeat' first
    | with_reducible apply within_refl
    | with_reducible assumption
    | (extract_lets +onlyGivenNames u
       first
       | (refine within_cut (v := u) ?_ ?_
          all_goals (first | (with_reducible intro hu; revert hu; clear_value u; intro hu) | subst u))
       | clear_value u
       | subst u)
    | (with_reducible apply within_step (modEic_within _ _); decide)
    | (with_reducible apply within_step (modHost_within _ _); decide)
    | (with_reducible apply within_step (modPool_within _ _); decide)
    | (with_reducible apply within_step (modPower_keeps_mode _ _ ?hk); (case hk => first | with_reducible rfl | ((try dsimp only); (repeat' split) <;> with_reducible rfl)); decide)
    | (with_reducible apply within_step (modPower_within _ _); decide)
    | (with_reducible apply within_step (modScribe_within _ _); decide)
    | (with_reducible apply within_step (modTime_keeps_clock _ _ ?hk); (case hk => first | with_reducible rfl | (simp only [clockOf]; done) | ((try dsimp only); (repeat' split) <;> with_reducible rfl)); decide)
    | (with_reducible apply within_step (modTime_keeps_rest _ _ ?hk); (case hk => first | with_reducible rfl | (simp only [restOfTime]; done) | ((try dsimp only); (repeat' split) <;> with_reducible rfl)); decide)
    | (with_reducible apply within_step (modTime_within _ _); decide)
    | split
    | (intro k hk; cases k <;> first | exact absurd (by decide) hk | exact hu _ hk | rfl | exact ⟨rfl, rfl⟩ | exact ⟨rfl, rfl, rfl, rfl⟩)

theorem enterStandby_within (s : State) :
    Within [.clock, .time, .folio, .units, .quills, .inboxes, .stores, .nibs, .nibSetup, .links, .safeLow, .streams, .trackers, .tickTrackers, .channels, .comparators, .adc, .counters, .eic, .raises, .blotter, .cells, .ink, .dma, .pool, .co, .scribe, .mode, .power, .host, .reflexDue, .latches] s (enterStandby s) := by
  unfold enterStandby
  repeat' first
    | with_reducible apply within_refl
    | with_reducible assumption
    | (extract_lets +onlyGivenNames u
       first
       | (refine within_cut (v := u) ?_ ?_
          all_goals (first | (with_reducible intro hu; revert hu; clear_value u; intro hu) | subst u))
       | clear_value u
       | subst u)
    | (with_reducible apply within_step (coldState_within _); decide)
    | (with_reducible apply within_step (modPower_keeps_mode _ _ ?hk); (case hk => first | with_reducible rfl | ((try dsimp only); (repeat' split) <;> with_reducible rfl)); decide)
    | (with_reducible apply within_step (modPower_within _ _); decide)
    | (with_reducible apply within_step (modTime_keeps_clock _ _ ?hk); (case hk => first | with_reducible rfl | (simp only [clockOf]; done) | ((try dsimp only); (repeat' split) <;> with_reducible rfl)); decide)
    | (with_reducible apply within_step (modTime_keeps_rest _ _ ?hk); (case hk => first | with_reducible rfl | (simp only [restOfTime]; done) | ((try dsimp only); (repeat' split) <;> with_reducible rfl)); decide)
    | (with_reducible apply within_step (modTime_within _ _); decide)
    | split
    | (intro k hk; cases k <;> first | exact absurd (by decide) hk | exact hu _ hk | rfl | exact ⟨rfl, rfl⟩ | exact ⟨rfl, rfl, rfl, rfl⟩)

theorem wakeSleep_within (s : State) (cause : Word) :
    Within [.time, .inboxes, .nibs, .nibSetup, .links, .safeLow, .streams, .eic, .raises, .blotter, .ink, .co, .scribe, .mode, .power, .host, .reflexDue] s (wakeSleep s cause) := by
  unfold wakeSleep
  repeat' first
    | with_reducible apply within_refl
    | with_reducible assumption
    | (extract_lets +onlyGivenNames u
       first
       | (refine within_cut (v := u) ?_ ?_
          all_goals (first | (with_reducible intro hu; revert hu; clear_value u; intro hu) | subst u))
       | clear_value u
       | subst u)
    | (with_reducible apply within_step (beginRestart_within _); decide)
    | (with_reducible apply within_step (eicRestore_within _ _); decide)
    | (with_reducible apply within_step (modHost_within _ _); decide)
    | (with_reducible apply within_step (modPower_keeps_mode _ _ ?hk); (case hk => first | with_reducible rfl | ((try dsimp only); (repeat' split) <;> with_reducible rfl)); decide)
    | (with_reducible apply within_step (modPower_within _ _); decide)
    | (with_reducible apply within_step (modTime_keeps_clock _ _ ?hk); (case hk => first | with_reducible rfl | (simp only [clockOf]; done) | ((try dsimp only); (repeat' split) <;> with_reducible rfl)); decide)
    | (with_reducible apply within_step (takeSafePin_within _); decide)
    | split
    | (intro k hk; cases k <;> first | exact absurd (by decide) hk | exact hu _ hk | rfl | exact ⟨rfl, rfl⟩ | exact ⟨rfl, rfl, rfl, rfl⟩)

theorem wakeStandby_within (s : State) (cause : Word) :
    Within [.power] s (wakeStandby s cause) := by
  unfold wakeStandby
  repeat' first
    | with_reducible apply within_refl
    | with_reducible assumption
    | (with_reducible apply within_step (modPower_keeps_mode _ _ ?hk); (case hk => first | with_reducible rfl | ((try dsimp only); (repeat' split) <;> with_reducible rfl)); decide)
    | split

theorem lpcmpSample_within (s : State) (uv : Int) :
    Within [.power] s (lpcmpSample s uv) := by
  unfold lpcmpSample
  repeat' first
    | with_reducible apply within_refl
    | with_reducible assumption
    | (with_reducible apply within_ite <;> intro _)
    | (extract_lets +onlyGivenNames u
       first
       | (refine within_cut (v := u) ?_ ?_
          all_goals (first | (with_reducible intro hu; revert hu; clear_value u; intro hu) | subst u))
       | clear_value u
       | subst u)
    | (with_reducible apply within_step (modPower_keeps_mode _ _ ?hk); (case hk => first | with_reducible rfl | ((try dsimp only); (repeat' split) <;> with_reducible rfl)); decide)
    | (with_reducible apply within_step (noteWake_within _ _); decide)
    | (with_reducible apply within_step (wakeStandby_within _ _); decide)
    | split

theorem vioFalls_within (s : State) (bank : Nat) :
    Within [.time, .inboxes, .nibs, .nibSetup, .balls, .streams, .trackers, .eic, .raises, .blotter, .power, .reflexDue] s (vioFalls s bank) := by
  unfold vioFalls
  repeat' first
    | with_reducible apply within_refl
    | with_reducible assumption
    | (with_reducible apply within_ite <;> intro _)
    | (extract_lets +onlyGivenNames u
       first
       | (refine within_cut (v := u) ?_ ?_
          all_goals (first | (with_reducible intro hu; revert hu; clear_value u; intro hu) | subst u))
       | clear_value u
       | subst u)
    | (with_reducible apply within_step (ballMoves_within _ _ _ _); decide)
    | (with_reducible apply within_step (setBall_within _ _ _); decide)
    | (with_reducible apply within_forAll; intro _ _)
    | split

theorem vioRises_within (s : State) (bank : Nat) :
    Within [.nibs, .nibSetup] s (vioRises s bank) := by
  unfold vioRises
  repeat' first
    | with_reducible apply within_refl
    | with_reducible assumption
    | (with_reducible apply within_ite <;> intro _)
    | split
    | (intro k hk; cases k <;> first | exact absurd (by decide) hk | exact hu _ hk | rfl | exact ⟨rfl, rfl⟩ | exact ⟨rfl, rfl, rfl, rfl⟩)

theorem linkDown_within (s : State) :
    Within [.eic, .raises, .blotter, .dma, .host] s (linkDown s) := by
  unfold linkDown
  repeat' first
    | with_reducible apply within_refl
    | with_reducible assumption
    | (with_reducible apply within_ite <;> intro _)
    | (extract_lets +onlyGivenNames u
       first
       | (refine within_cut (v := u) ?_ ?_
          all_goals (first | (with_reducible intro hu; revert hu; clear_value u; intro hu) | subst u))
       | clear_value u
       | subst u)
    | (with_reducible apply within_step (haltAll_within _ _); decide)
    | (with_reducible apply within_step (modHost_within _ _); decide)
    | (with_reducible apply within_step (raiseFault_within _ _ _); decide)
    | split

theorem keepAdvance_within (s : State) :
    Within [.power] s (keepAdvance s) := by
  unfold keepAdvance
  repeat' first
    | with_reducible apply within_refl
    | with_reducible assumption
    | (with_reducible apply within_ite <;> intro _)
    | (with_reducible apply within_step (modPower_keeps_mode _ _ ?hk); (case hk => first | with_reducible rfl | ((try dsimp only); (repeat' split) <;> with_reducible rfl)); decide)
    | split

theorem writeKeep_within (s : State) (v : Word) :
    Within [.power] s (writeKeep s v) := by
  unfold writeKeep
  repeat' first
    | with_reducible apply within_refl
    | with_reducible assumption
    | (with_reducible apply within_step (keepAdvance_within _); decide)
    | (with_reducible apply within_step (modPower_keeps_mode _ _ ?hk); (case hk => first | with_reducible rfl | ((try dsimp only); (repeat' split) <;> with_reducible rfl)); decide)
    | split

end Sys2Proof.Machine
end

