-- ==== Sys2Proof/Laws/PartsScribeRings.lean ====
section
/-! SUPPORT. The parts of the state that each operation of Machine/ScribeRings.lean can change. -/
namespace Sys2Proof.Machine

theorem mailboxResponse_within (s : State) (r : Response) :
    Within [.eic, .scribe] s (mailboxResponse s r) := by
  unfold mailboxResponse
  repeat' first
    | with_reducible apply within_refl
    | with_reducible assumption
    | (with_reducible apply within_ite <;> intro _)
    | (extract_lets +onlyGivenNames u
       first
       | (refine within_cut (v := u) ?_ ?_
          all_goals (first | (with_reducible intro hu; revert hu; clear_value u; intro hu) | subst u))
       | clear_value u
       | subst u)
    | (with_reducible apply within_step (modScribe_within _ _); decide)
    | (with_reducible apply within_step (pushCause_within _ _); decide)
    | split

theorem ringResponse_within (s : State) (r : Response) :
    Within [.eic, .scribe, .posted] s (ringResponse s r) := by
  unfold ringResponse
  repeat' first
    | with_reducible apply within_refl
    | with_reducible assumption
    | (with_reducible apply within_ite <;> intro _)
    | (extract_lets +onlyGivenNames u
       first
       | (refine within_cut (v := u) ?_ ?_
          all_goals (first | (with_reducible intro hu; revert hu; clear_value u; intro hu) | subst u))
       | clear_value u
       | subst u)
    | (with_reducible apply within_step (modScribe_within _ _); decide)
    | (with_reducible apply within_step (post_within _ _); decide)
    | (with_reducible apply within_step (pushCause_within _ _); decide)
    | split

theorem writeResponse_within (s : State) (r : Response) :
    Within [.eic, .scribe, .posted] s (writeResponse s r) := by
  unfold writeResponse
  repeat' first
    | with_reducible apply within_refl
    | with_reducible assumption
    | (with_reducible apply within_ite <;> intro _)
    | (extract_lets +onlyGivenNames u
       first
       | (refine within_cut (v := u) ?_ ?_
          all_goals (first | (with_reducible intro hu; revert hu; clear_value u; intro hu) | subst u))
       | clear_value u
       | subst u)
    | (with_reducible apply within_step (mailboxResponse_within _ _); decide)
    | (with_reducible apply within_step (modScribe_within _ _); decide)
    | (with_reducible apply within_step (ringResponse_within _ _); decide)
    | split

theorem giveResponse_within (s : State) (r : Response) :
    Within [.eic, .scribe, .posted] s (giveResponse s r) := by
  unfold giveResponse
  repeat' first
    | with_reducible apply within_refl
    | with_reducible assumption
    | (with_reducible apply within_ite <;> intro _)
    | (extract_lets +onlyGivenNames u
       first
       | (refine within_cut (v := u) ?_ ?_
          all_goals (first | (with_reducible intro hu; revert hu; clear_value u; intro hu) | subst u))
       | clear_value u
       | subst u)
    | (with_reducible apply within_step (modScribe_within _ _); decide)
    | (with_reducible apply within_step (writeResponse_within _ _); decide)
    | split

theorem completeHead_within (s : State) (status : Nat) (detail : Nat) (r0 : W64) (r1 : W64) :
    Within [.eic, .scribe, .posted] s (completeHead s status detail r0 r1) := by
  unfold completeHead
  repeat' first
    | with_reducible apply within_refl
    | with_reducible assumption
    | (with_reducible apply within_ite <;> intro _)
    | (extract_lets +onlyGivenNames u
       first
       | (refine within_cut (v := u) ?_ ?_
          all_goals (first | (with_reducible intro hu; revert hu; clear_value u; intro hu) | subst u))
       | clear_value u
       | subst u)
    | (with_reducible apply within_step (giveResponse_within _ _); decide)
    | (with_reducible apply within_step (modScribe_within _ _); decide)
    | split

theorem disarm_within (s : State) (o : CoOutcome) :
    Within [.co] s (disarm s o) := by
  unfold disarm
  repeat' first
    | with_reducible apply within_refl
    | with_reducible assumption
    | (with_reducible apply within_step (modCo_within _ _); decide)
    | split

theorem undoCmd_within (s : State) (op : Nat) :
    Within [.time, .units, .co, .scribe] s (undoCmd s op) := by
  unfold undoCmd
  repeat' first
    | with_reducible apply within_refl
    | with_reducible assumption
    | (with_reducible apply within_ite <;> intro _)
    | (with_reducible apply within_step (disarm_within _ _); decide)
    | (with_reducible apply within_step (modFolio_keeps_rest _ _ ?hk); (case hk => first | with_reducible rfl | (simp only [inForce]; done) | ((try dsimp only); (repeat' split) <;> with_reducible rfl)); decide)
    | (with_reducible apply within_step (modFolio_within _ _); decide)
    | (with_reducible apply within_step (modScribe_within _ _); decide)
    | (with_reducible apply within_step (modTime_keeps_clock _ _ ?hk); (case hk => first | with_reducible rfl | (simp only [clockOf]; done) | ((try dsimp only); (repeat' split) <;> with_reducible rfl)); decide)
    | split
    | (intro k hk; cases k <;> first | exact absurd (by decide) hk | exact hu _ hk | rfl | exact ⟨rfl, rfl⟩ | exact ⟨rfl, rfl, rfl, rfl⟩)

theorem modEntry_within (s : State) (seq : Word) (f : CmdEntry → CmdEntry) :
    Within [.scribe] s (modEntry s seq f) := by
  unfold modEntry
  repeat' first
    | with_reducible apply within_refl
    | with_reducible assumption
    | (with_reducible apply within_ite <;> intro _)
    | (with_reducible apply within_step (modScribe_within _ _); decide)
    | split

theorem abortMissed_within (s : State) (e : CmdEntry) (tag : Nat) :
    Within [.scribe] s (abortMissed s e tag) := by
  unfold abortMissed
  repeat' first
    | with_reducible apply within_refl
    | with_reducible assumption
    | (with_reducible apply within_ite <;> intro _)
    | (with_reducible apply within_step (modEntry_within _ _ _); decide)
    | split

theorem actAbort_within (s : State) (e : CmdEntry) :
    Within [.time, .units, .co, .scribe] s (actAbort s e) := by
  unfold actAbort
  repeat' first
    | with_reducible apply within_refl
    | with_reducible assumption
    | (with_reducible apply within_ite <;> intro _)
    | (extract_lets +onlyGivenNames u
       first
       | (refine within_cut (v := u) ?_ ?_
          all_goals (first | (with_reducible intro hu; revert hu; clear_value u; intro hu) | subst u))
       | clear_value u
       | subst u)
    | (with_reducible apply within_step (abortMissed_within _ _ _); decide)
    | (with_reducible apply within_step (modEntry_within _ _ _); decide)
    | (with_reducible apply within_step (modScribe_within _ _); decide)
    | (with_reducible apply within_step (undoCmd_within _ _); decide)
    | split
    | (intro k hk; cases k <;> first | exact absurd (by decide) hk | exact hu _ hk | rfl | exact ⟨rfl, rfl⟩ | exact ⟨rfl, rfl, rfl, rfl⟩)

theorem actAborts_within (s : State) :
    Within [.time, .units, .co, .scribe] s (actAborts s) := by
  unfold actAborts
  repeat' first
    | with_reducible apply within_refl
    | with_reducible assumption
    | (with_reducible apply within_ite <;> intro _)
    | (with_reducible apply within_step (actAbort_within _ _); decide)
    | (with_reducible apply within_forAll; intro _ _)
    | split

theorem scribeTurnFor_within (fuel : Nat) (s : State) : Within [.eic, .scribe, .posted] s (scribeTurnFor fuel s) := by
  induction fuel generalizing s with
  | zero => exact within_refl _ _
  | succ k ih =>
    unfold scribeTurnFor
    repeat' first
      | with_reducible apply within_refl
      | (with_reducible apply within_ite <;> intro _)
      | exact within_step (ih _) (List.Subset.refl _) (within_mono (completeHead_within _ _ _ _ _) (by decide))
      | split

theorem scribeTurn_within (s : State) :
    Within [.eic, .scribe, .posted] s (scribeTurn s) := by
  unfold scribeTurn
  repeat' first
    | with_reducible apply within_refl
    | with_reducible assumption
    | (with_reducible apply within_step (scribeTurnFor_within _ _); decide)

theorem setHeadPhase_within (s : State) (ph : CmdPhase) :
    Within [.scribe] s (setHeadPhase s ph) := by
  unfold setHeadPhase
  repeat' first
    | with_reducible apply within_refl
    | with_reducible assumption
    | (with_reducible apply within_step (modScribe_within _ _); decide)
    | split

theorem endCmd_within (s : State) (status : Nat) (detail : Nat) (r0 : W64) (r1 : W64) :
    Within [.eic, .scribe, .posted] s (endCmd s status detail r0 r1) := by
  unfold endCmd
  repeat' first
    | with_reducible apply within_refl
    | with_reducible assumption
    | (with_reducible apply within_step (completeHead_within _ _ _ _ _); decide)
    | (with_reducible apply within_step (scribeTurn_within _); decide)

theorem submit_within (s : State) (bytes : Option (BitVec 512)) (mailbox : Bool) :
    Within [.scribe] s (submit s bytes mailbox) := by
  unfold submit
  repeat' first
    | with_reducible apply within_refl
    | with_reducible assumption
    | (with_reducible apply within_ite <;> intro _)
    | (extract_lets +onlyGivenNames u
       first
       | (refine within_cut (v := u) ?_ ?_
          all_goals (first | (with_reducible intro hu; revert hu; clear_value u; intro hu) | subst u))
       | clear_value u
       | subst u)
    | (with_reducible apply within_step (modScribe_within _ _); decide)
    | split

theorem writeCmdTail_within (s : State) (v : Word) :
    Within [.scribe] s (writeCmdTail s v) := by
  unfold writeCmdTail
  repeat' first
    | with_reducible apply within_refl
    | with_reducible assumption
    | (with_reducible apply within_ite <;> intro _)
    | (extract_lets +onlyGivenNames u
       first
       | (refine within_cut (v := u) ?_ ?_
          all_goals (first | (with_reducible intro hu; revert hu; clear_value u; intro hu) | subst u))
       | clear_value u
       | subst u)
    | (with_reducible apply within_step (modScribe_within _ _); decide)
    | (with_reducible apply within_step (submit_within _ _ _); decide)
    | (with_reducible apply within_forAll; intro _ _)
    | split

theorem fetchCommand_within (s : State) (entry : BitVec 512) :
    Within [.time, .units, .eic, .co, .scribe, .posted] s (fetchCommand s entry) := by
  unfold fetchCommand
  repeat' first
    | with_reducible apply within_refl
    | with_reducible assumption
    | (with_reducible apply within_ite <;> intro _)
    | (extract_lets +onlyGivenNames u
       first
       | (refine within_cut (v := u) ?_ ?_
          all_goals (first | (with_reducible intro hu; revert hu; clear_value u; intro hu) | subst u))
       | clear_value u
       | subst u)
    | (with_reducible apply within_step (actAborts_within _); decide)
    | (with_reducible apply within_step (modEntry_within _ _ _); decide)
    | (with_reducible apply within_step (modScribe_within _ _); decide)
    | (with_reducible apply within_step (scribeTurn_within _); decide)
    | split

theorem submitMailbox_within (s : State) :
    Within [.time, .units, .eic, .co, .scribe, .posted] s (submitMailbox s) := by
  unfold submitMailbox
  repeat' first
    | with_reducible apply within_refl
    | with_reducible assumption
    | (with_reducible apply within_ite <;> intro _)
    | (extract_lets +onlyGivenNames u
       first
       | (refine within_cut (v := u) ?_ ?_
          all_goals (first | (with_reducible intro hu; revert hu; clear_value u; intro hu) | subst u))
       | clear_value u
       | subst u)
    | (with_reducible apply within_step (actAborts_within _); decide)
    | (with_reducible apply within_step (modScribe_within _ _); decide)
    | (with_reducible apply within_step (scribeTurn_within _); decide)
    | (with_reducible apply within_step (submit_within _ _ _); decide)
    | split

theorem releaseHeld_within (s : State) :
    Within [.eic, .scribe, .posted] s (releaseHeld s) := by
  unfold releaseHeld
  repeat' first
    | with_reducible apply within_refl
    | with_reducible assumption
    | (with_reducible apply within_ite <;> intro _)
    | (with_reducible apply within_step (modScribe_within _ _); decide)
    | (with_reducible apply within_step (scribeTurn_within _); decide)
    | (with_reducible apply within_step (writeResponse_within _ _); decide)
    | split

theorem writeRspCons_within (s : State) (v : Word) :
    Within [.eic, .scribe, .posted] s (writeRspCons s v) := by
  unfold writeRspCons
  repeat' first
    | with_reducible apply within_refl
    | with_reducible assumption
    | (with_reducible apply within_step (modScribe_within _ _); decide)
    | (with_reducible apply within_step (releaseHeld_within _); decide)
    | split

theorem writeRingCtrl_within (s : State) (rsp : Bool) (v : Word) :
    Within [.eic, .scribe, .posted] s (writeRingCtrl s rsp v) := by
  unfold writeRingCtrl
  repeat' first
    | with_reducible apply within_refl
    | with_reducible assumption
    | (with_reducible apply within_ite <;> intro _)
    | (extract_lets +onlyGivenNames u
       first
       | (refine within_cut (v := u) ?_ ?_
          all_goals (first | (with_reducible intro hu; revert hu; clear_value u; intro hu) | subst u))
       | clear_value u
       | subst u)
    | (with_reducible apply within_step (modScribe_within _ _); decide)
    | (with_reducible apply within_step (releaseHeld_within _); decide)
    | split

theorem scribeWrite_within (s : State) (off : Nat) (v : Word) :
    Within [.time, .units, .eic, .co, .scribe, .posted] s (scribeWrite s off v) := by
  unfold scribeWrite
  repeat' first
    | with_reducible apply within_refl
    | with_reducible assumption
    | (with_reducible apply within_ite <;> intro _)
    | (with_reducible apply within_dite <;> intro _)
    | (with_reducible apply within_step (modScribe_within _ _); decide)
    | (with_reducible apply within_step (submitMailbox_within _); decide)
    | (with_reducible apply within_step (writeCmdTail_within _ _); decide)
    | (with_reducible apply within_step (writeRingCtrl_within _ _ _); decide)
    | (with_reducible apply within_step (writeRspCons_within _ _); decide)
    | split

theorem scribeWide_within (s : State) (off : Nat) (v : W64) :
    Within [.scribe] s (scribeWide s off v) := by
  unfold scribeWide
  repeat' first
    | with_reducible apply within_refl
    | with_reducible assumption
    | (with_reducible apply within_ite <;> intro _)
    | (extract_lets +onlyGivenNames u
       first
       | (refine within_cut (v := u) ?_ ?_
          all_goals (first | (with_reducible intro hu; revert hu; clear_value u; intro hu) | subst u))
       | clear_value u
       | subst u)
    | (with_reducible apply within_step (modScribe_within _ _); decide)
    | split

end Sys2Proof.Machine
end

