-- ==== Sys2Proof/Laws/PartsBus.lean ====
section
/-! SUPPORT. The parts of the state that each operation of Machine/Bus.lean can change. -/
namespace Sys2Proof.Machine

theorem devWrite_within (s : State) (off : Nat) (v : Word) :
    Within [.power, .host] s (devWrite s off v) := by
  unfold devWrite
  repeat' first
    | with_reducible apply within_refl
    | with_reducible assumption
    | (with_reducible apply within_ite <;> intro _)
    | (with_reducible apply within_step (modHost_within _ _); decide)
    | (with_reducible apply within_step (modPower_keeps_mode _ _ ?hk); (case hk => first | with_reducible rfl | ((try dsimp only); (repeat' split) <;> with_reducible rfl)); decide)
    | (with_reducible apply within_step (writeKeep_within _ _); decide)
    | split

theorem placeReadEffect_within (s : State) (p : Path) (x : Place) :
    Within [.time, .quills, .nibs, .streams, .trackers, .channels, .comparators, .adc, .eic, .blotter, .ink, .power] s (placeReadEffect s p x) := by
  unfold placeReadEffect
  repeat' first
    | with_reducible apply within_refl
    | with_reducible assumption
    | (with_reducible apply within_ite <;> intro _)
    | (with_reducible apply within_step (acReadClear_within _ _ _); decide)
    | (with_reducible apply within_step (adcReadClear_within _ _); decide)
    | (with_reducible apply within_step (atReadClear_within _ _ _); decide)
    | (with_reducible apply within_step (blotterReadClear_within _ _); decide)
    | (with_reducible apply within_step (claimBy_within _ _ _ _); decide)
    | (with_reducible apply within_snd (claimBy_within _ _ _ _); with_reducible assumption; decide)
    | (with_reducible apply within_step (eicReadClear_within _ _ _); decide)
    | (with_reducible apply within_step (fbReadClear_within _ _ _); decide)
    | (with_reducible apply within_step (inkReadClear_within _ _); decide)
    | (with_reducible apply within_step (keepAdvance_within _); decide)
    | (with_reducible apply within_step (modStream_within _ _ _); decide)
    | (with_reducible apply within_step (nibReadClear_within _ _ _); decide)
    | (with_reducible apply within_step (quillReadClear_within _ _ _); decide)
    | (with_reducible apply within_step (timeReadClear_within _ _); decide)
    | split

theorem putPlace_within (s : State) (p : Path) (x : Place) (v : Word) :
    Within [.time, .units, .quills, .inboxes, .nibs, .nibSetup, .links, .streams, .trackers, .channels, .comparators, .adc, .counters, .eic, .raises, .blotter, .ink, .dma, .co, .scribe, .power, .host, .reflexDue, .posted] s (putPlace s p x v) := by
  unfold putPlace
  repeat' first
    | with_reducible apply within_refl
    | with_reducible assumption
    | (with_reducible apply within_ite <;> intro _)
    | (extract_lets +onlyGivenNames u
       first
       | (refine within_cut (v := u) ?_ ?_
          all_goals (first | (with_reducible intro hu; revert hu; clear_value u; intro hu) | subst u))
       | clear_value u
       | subst u)
    | (with_reducible apply within_step (acWrite_within _ _ _ _); decide)
    | (with_reducible apply within_step (adcWrite_within _ _ _); decide)
    | (with_reducible apply within_step (atWrite_within _ _ _ _); decide)
    | (with_reducible apply within_step (blotterWrite_within _ _ _); decide)
    | (with_reducible apply within_step (ceWrite_within _ _ _ _ _); decide)
    | (with_reducible apply within_step (chanWrite_within _ _ _ _); decide)
    | (with_reducible apply within_step (completeBy_within _ _ _ _ _); decide)
    | (with_reducible apply within_step (devWrite_within _ _ _); decide)
    | (with_reducible apply within_step (dmaWrite_within _ _ _); decide)
    | (with_reducible apply within_step (eicWrite_within _ _ _ _); decide)
    | (with_reducible apply within_step (fbWrite_within _ _ _ _); decide)
    | (with_reducible apply within_step (headerWrite_within _ _ _ _); decide)
    | (with_reducible apply within_step (inkWrite_within _ _ _); decide)
    | (with_reducible apply within_step (msixWrite_within _ _ _); decide)
    | (with_reducible apply nibRanked_within; decide; intro _)
    | (with_reducible apply within_step (nibWrite_within _ _ _ _); decide)
    | (with_reducible apply within_step (quillWrite_within _ _ _ _); decide)
    | (with_reducible apply within_step (rlWrite_within _ _ _ _); decide)
    | (with_reducible apply within_step (scribeWrite_within _ _ _); decide)
    | (with_reducible apply within_step (timeWrite_within _ _ _); decide)
    | (with_reducible apply within_step (windowWrite_within _ _ _ _); decide)
    | (with_reducible apply within_step (writeCsCtrl_within _ _ _); decide)
    | split

theorem placeWrite_within (s : State) (p : Path) (x : Place) (v : Word) :
    Within [.time, .units, .quills, .inboxes, .nibs, .nibSetup, .links, .streams, .trackers, .channels, .comparators, .adc, .counters, .eic, .raises, .blotter, .ink, .dma, .co, .scribe, .power, .host, .reflexDue, .posted] s (placeWrite s p x v) := by
  unfold placeWrite
  repeat' first
    | with_reducible apply within_refl
    | with_reducible assumption
    | (with_reducible apply within_ite <;> intro _)
    | (with_reducible apply within_step (putPlace_within _ _ _ _); decide)
    | split

theorem placeWide_within (s : State) (p : Path) (x : Place) (b : Nat) (v : W64) :
    Within [.inboxes, .nibs, .trackers, .channels, .counters, .eic, .raises, .blotter, .dma, .scribe] s (placeWide s p x b v) := by
  unfold placeWide
  repeat' first
    | with_reducible apply within_refl
    | with_reducible assumption
    | (with_reducible apply within_ite <;> intro _)
    | (with_reducible apply within_step (atWide_within _ _ _ _); decide)
    | (with_reducible apply within_step (fbWide_within _ _ _ _); decide)
    | (with_reducible apply within_step (modCe_within _ _ _); decide)
    | (with_reducible apply within_step (scribeWide_within _ _ _); decide)
    | (with_reducible apply within_step (writeCeCount_within _ _ _ _); decide)
    | (with_reducible apply within_step (writeCqBase_within _ _ _); decide)
    | (with_reducible apply within_step (writeHead_within _ _ _); decide)
    | split

theorem latchGroups_within (s : State) (p : Path) (x : Place) (addr b n k : Nat) :
    Within [.latches] s (latchGroups s p x addr b n k) := by
  induction k generalizing s with
  | zero => exact within_refl _ _
  | succ k ih => unfold latchGroups; exact within_step (latchRead_within _ _ _ _) (by decide) (ih _)

theorem busRead_within (s : State) (p : Path) (addr : Nat) :
    Within [.time, .quills, .nibs, .streams, .trackers, .channels, .comparators, .adc, .eic, .blotter, .ink, .power, .latches] s (busRead s p addr).2 := by
  unfold busRead
  repeat' first
    | with_reducible apply within_refl
    | with_reducible assumption
    | (with_reducible apply within_ite <;> intro _)
    | (extract_lets +onlyGivenNames u
       first
       | (refine within_cut (v := u) ?_ ?_
          all_goals (first | (with_reducible intro hu; revert hu; clear_value u; intro hu) | subst u))
       | clear_value u
       | subst u)
    | (with_reducible apply within_step (latchGroups_within _ _ _ _ _ _ _); decide)
    | (with_reducible apply within_step (placeReadEffect_within _ _ _); decide)
    | split

theorem busWrite_within (s : State) (p : Path) (addr : Nat) (v : Word) :
    Within [.time, .units, .quills, .inboxes, .nibs, .nibSetup, .links, .streams, .trackers, .channels, .comparators, .adc, .counters, .eic, .raises, .blotter, .ink, .dma, .co, .scribe, .power, .host, .reflexDue, .posted, .latches] s (busWrite s p addr v) := by
  unfold busWrite
  repeat' first
    | with_reducible apply within_refl
    | with_reducible assumption
    | (with_reducible apply within_ite <;> intro _)
    | (with_reducible apply within_step (holdLow_within _ _ _ _); decide)
    | (with_reducible apply within_step (placeWide_within _ _ _ _ _); decide)
    | (with_reducible apply within_step (placeWrite_within _ _ _ _); decide)
    | split

theorem recordWrite_within (s : State) (addr : Nat) (v : W64) (wide : Bool) :
    Within [.time, .units, .quills, .inboxes, .nibs, .nibSetup, .links, .streams, .trackers, .channels, .comparators, .adc, .counters, .eic, .raises, .blotter, .ink, .dma, .co, .scribe, .power, .host, .reflexDue, .posted] s (recordWrite s addr v wide) := by
  unfold recordWrite
  repeat' first
    | with_reducible apply within_refl
    | with_reducible assumption
    | (with_reducible apply within_ite <;> intro _)
    | (extract_lets +onlyGivenNames u
       first
       | (refine within_cut (v := u) ?_ ?_
          all_goals (first | (with_reducible intro hu; revert hu; clear_value u; intro hu) | subst u))
       | clear_value u
       | subst u)
    | (with_reducible apply within_step (ceRecordWrite_within _ _ _ _ _); decide)
    | (with_reducible apply within_step (placeWide_within _ _ _ _ _); decide)
    | (with_reducible apply within_step (placeWrite_within _ _ _ _); decide)
    | split

theorem setParams_within (s : State) (l : List (Nat × Nat)) (v : Word) :
    Within [.units] s (setParams s l v) := by
  unfold setParams
  repeat' first
    | with_reducible apply within_refl
    | with_reducible assumption
    | (with_reducible apply within_step (modParam_within _ _ _ _); decide)
    | (with_reducible apply within_forAll; intro _ _)
    | split

theorem writeLane_within (s : State) (b : InkIx) (w : Fin 4096) (lane : Fin 4) (v : Word) :
    Within [.raises, .blotter, .cells, .ink, .co] s (writeLane s b w lane v) := by
  unfold writeLane
  repeat' first
    | with_reducible apply within_refl
    | with_reducible assumption
    | (with_reducible apply within_step (inkWriteWord_within _ _ _ _ _ _); decide)

theorem applyLane_within (s : State) (b : InkIx) (w : Fin 4096) (lane : Fin 4) (v : Word) :
    Within [.quills, .raises, .blotter, .cells, .ink, .co] s (applyLane s b w lane v) := by
  unfold applyLane
  repeat' first
    | with_reducible apply within_refl
    | with_reducible assumption
    | (with_reducible apply within_ite <;> intro _)
    | (extract_lets +onlyGivenNames u
       first
       | (refine within_cut (v := u) ?_ ?_
          all_goals (first | (with_reducible intro hu; revert hu; clear_value u; intro hu) | subst u))
       | clear_value u
       | subst u)
    | (with_reducible apply within_step (modQuill_keeps_inbox _ _ _ ?hk); (case hk => first | with_reducible rfl | (simp only [inboxOf]; done) | ((try dsimp only); (repeat' split) <;> (simp only [inboxOf]; done))); decide)
    | (with_reducible apply within_step (modQuill_within _ _ _); decide)
    | (with_reducible apply within_step (writeLane_within _ _ _ _ _); decide)
    | split

theorem writeTarget_within (s : State) (held : List (Nat × Word)) (t : ParamTarget) (v : Word) :
    Within [.time, .units, .quills, .inboxes, .nibs, .nibSetup, .links, .streams, .trackers, .channels, .comparators, .adc, .counters, .eic, .raises, .blotter, .cells, .ink, .dma, .co, .scribe, .power, .host, .reflexDue, .posted] s (writeTarget s held t v).1 := by
  unfold writeTarget
  repeat' first
    | with_reducible apply within_refl
    | with_reducible assumption
    | (with_reducible apply within_ite <;> intro _)
    | (with_reducible apply within_step (applyLane_within _ _ _ _ _); decide)
    | (with_reducible apply within_step (recordWrite_within _ _ _ _); decide)
    | split

theorem applyParam_within (u : Nat) (acc : State × List (Nat × Word)) (k : Nat) :
    Within [.time, .units, .quills, .inboxes, .nibs, .nibSetup, .links, .streams, .trackers, .channels, .comparators, .adc, .counters, .eic, .raises, .blotter, .cells, .ink, .dma, .co, .scribe, .power, .host, .reflexDue, .posted] acc.1 (applyParam u acc k).1 := by
  obtain ⟨s, held⟩ := acc
  unfold applyParam
  dsimp only
  split
  · exact within_refl _ _
  · exact within_step (writeTarget_within _ _ _ _) (by decide)
      (within_step (setParams_within _ _ _) (by decide) (within_mono (modParam_within _ _ _ _) (by decide)))

theorem applyGlyph_within (s : State) (u : Nat) : Within [.time, .units, .quills, .inboxes, .nibs, .nibSetup, .links, .streams, .trackers, .channels, .comparators, .adc, .counters, .eic, .raises, .blotter, .cells, .ink, .dma, .co, .scribe, .power, .host, .reflexDue, .posted] s (applyGlyph s u) := by
  unfold applyGlyph
  split
  · exact within_refl _ _
  · rename_i x _
    suffices h : ∀ (l : List Nat) (acc : State × List (Nat × Word)), Within [.time, .units, .quills, .inboxes, .nibs, .nibSetup, .links, .streams, .trackers, .channels, .comparators, .adc, .counters, .eic, .raises, .blotter, .cells, .ink, .dma, .co, .scribe, .power, .host, .reflexDue, .posted] s acc.1 →
        Within [.time, .units, .quills, .inboxes, .nibs, .nibSetup, .links, .streams, .trackers, .channels, .comparators, .adc, .counters, .eic, .raises, .blotter, .cells, .ink, .dma, .co, .scribe, .power, .host, .reflexDue, .posted] s (l.foldl (applyParam u) acc).1 from h _ _ (within_refl _ _)
    intro l
    induction l with
    | nil => exact fun _ h => h
    | cons k l ih =>
      exact fun acc h => ih _ (within_step (applyParam_within u acc k) (List.Subset.refl _) h)

theorem regwRecord_within (s : State) (addr : Nat) (v : W64) (wide : Bool) :
    Within [.time, .units, .quills, .inboxes, .nibs, .nibSetup, .links, .streams, .trackers, .channels, .comparators, .adc, .counters, .eic, .raises, .blotter, .cells, .ink, .dma, .co, .scribe, .power, .host, .reflexDue, .posted] s (regwRecord s addr v wide) := by
  unfold regwRecord
  repeat' first
    | with_reducible apply within_refl
    | with_reducible assumption
    | (extract_lets +onlyGivenNames u
       first
       | (refine within_cut (v := u) ?_ ?_
          all_goals (first | (with_reducible intro hu; revert hu; clear_value u; intro hu) | subst u))
       | clear_value u
       | subst u)
    | (with_reducible apply within_step (recordWrite_within _ _ _ _); decide)
    | (with_reducible apply within_step (setParams_within _ _ _); decide)
    | (with_reducible apply within_step (writeLane_within _ _ _ _ _); decide)
    | split

end Sys2Proof.Machine
end

