-- ==== Sys2Proof/Laws/PartsFolio.lean ====
section
/-! SUPPORT. The parts of the state that each operation of Machine/Folio.lean can change. -/
namespace Sys2Proof.Machine

theorem freshAdc_within (s : State) :
    Within [.adc] s (freshAdc s) := by
  unfold freshAdc
  repeat' first
    | with_reducible apply within_refl
    | with_reducible assumption
    | (with_reducible apply within_step (adcReview_within _); decide)
    | (intro k hk; cases k <;> first | exact absurd (by decide) hk | exact hu _ hk | rfl | exact ⟨rfl, rfl⟩ | exact ⟨rfl, rfl, rfl, rfl⟩)

theorem retireBadStore_within (s : State) (p : PhysIx) :
    Within [.quills, .raises, .blotter, .ink, .pool] s (retireBadStore s p) := by
  unfold retireBadStore
  repeat' first
    | with_reducible apply within_refl
    | with_reducible assumption
    | (with_reducible apply within_ite <;> intro _)
    | (extract_lets +onlyGivenNames u
       first
       | (refine within_cut (v := u) ?_ ?_
          all_goals (first | (with_reducible intro hu; revert hu; clear_value u; intro hu) | subst u))
       | clear_value u
       | subst u)
    | (with_reducible apply within_step (modPool_within _ _); decide)
    | (with_reducible apply within_step (modQuill_keeps_inbox _ _ _ ?hk); (case hk => first | with_reducible rfl | (simp only [inboxOf]; done) | ((try dsimp only); (repeat' split) <;> (simp only [inboxOf]; done))); decide)
    | (with_reducible apply within_step (modQuill_within _ _ _); decide)
    | (with_reducible apply within_step (retirePhys_within _ _ _ _); decide)
    | (with_reducible apply within_step (setRole_within _ _ _); decide)
    | split

theorem resetResources_within (s : State) :
    Within [.folio, .units, .quills, .inboxes, .stores, .nibs, .nibSetup, .links, .streams, .trackers, .tickTrackers, .channels, .comparators, .adc, .counters, .raises, .blotter, .cells, .ink, .dma, .pool, .co, .scribe, .reflexDue] s (resetResources s) := by
  unfold resetResources
  repeat' first
    | with_reducible apply within_refl
    | with_reducible assumption
    | (with_reducible apply within_ite <;> intro _)
    | (extract_lets +onlyGivenNames u
       first
       | (refine within_cut (v := u) ?_ ?_
          all_goals (first | (with_reducible intro hu; revert hu; clear_value u; intro hu) | subst u))
       | clear_value u
       | subst u)
    | (with_reducible apply within_step (endCopies_within _); decide)
    | (with_reducible apply within_step (freshAdc_within _); decide)
    | (with_reducible apply within_step (modPool_within _ _); decide)
    | (with_reducible apply within_step (moveEnds_within _ _); decide)
    | (with_reducible apply within_step (retireBadStore_within _ _); decide)
    | (with_reducible apply within_forAll; intro _ _)
    | split
    | (intro k hk; cases k <;> first | exact absurd (by decide) hk | exact hu _ hk | rfl | exact ⟨rfl, rfl⟩ | exact ⟨rfl, rfl, rfl, rfl⟩)

theorem bindUnit_within (s : State) (r : UnitRec) :
    Within [.nibs, .nibSetup, .trackers, .comparators, .adc] s (bindUnit s r) := by
  unfold bindUnit
  repeat' first
    | with_reducible apply within_refl
    | with_reducible assumption
    | (with_reducible apply within_ite <;> intro _)
    | (extract_lets +onlyGivenNames u
       first
       | (refine within_cut (v := u) ?_ ?_
          all_goals (first | (with_reducible intro hu; revert hu; clear_value u; intro hu) | subst u))
       | clear_value u
       | subst u)
    | (with_reducible apply within_step (modAdc_within _ _); decide)
    | (with_reducible apply within_step (modComp_within _ _ _); decide)
    | (with_reducible apply within_step (modNib_keeps_setup _ _ _ ?hk); (case hk => first | with_reducible rfl | (simp only [setupOf]; done) | ((try dsimp only); (repeat' split) <;> (simp only [setupOf]; done))); decide)
    | (with_reducible apply within_step (modNib_keeps_doing _ _ _ ?hk); (case hk => first | with_reducible rfl | (simp only [doingOf]; done) | ((try dsimp only); (repeat' split) <;> (simp only [doingOf]; done))); decide)
    | (with_reducible apply within_step (modNib_within _ _ _); decide)
    | (with_reducible apply within_step (modTrack_within _ _ _); decide)
    | (with_reducible apply within_step (movePin_within _ _ _); decide)
    | split
    | (intro k hk; cases k <;> first | exact absurd (by decide) hk | exact hu _ hk | rfl | exact ⟨rfl, rfl⟩ | exact ⟨rfl, rfl, rfl, rfl⟩)

theorem takeBank_within (s : State) (r : UnitRec) :
    Within [.ink] s (takeBank s r) := by
  unfold takeBank
  repeat' first
    | with_reducible apply within_refl
    | with_reducible assumption
    | (with_reducible apply within_ite <;> intro _)
    | (with_reducible apply within_step (modBank_within _ _ _); decide)
    | split

theorem loadProgram_within (s : State) (p : Program) :
    Within [.quills, .stores] s (loadProgram s p) := by
  unfold loadProgram
  repeat' first
    | with_reducible apply within_refl
    | with_reducible assumption
    | (extract_lets +onlyGivenNames u
       first
       | (refine within_cut (v := u) ?_ ?_
          all_goals (first | (with_reducible intro hu; revert hu; clear_value u; intro hu) | subst u))
       | clear_value u
       | subst u)
    | (with_reducible apply within_step (modQuill_keeps_inbox _ _ _ ?hk); (case hk => first | with_reducible rfl | (simp only [inboxOf]; done) | ((try dsimp only); (repeat' split) <;> (simp only [inboxOf]; done))); decide)
    | (with_reducible apply within_step (modQuill_within _ _ _); decide)
    | split
    | (intro k hk; cases k <;> first | exact absurd (by decide) hk | exact hu _ hk | rfl | exact ⟨rfl, rfl⟩ | exact ⟨rfl, rfl, rfl, rfl⟩)

theorem fillBank_within (s : State) (f : InkFill) :
    Within [.cells, .ink] s (fillBank s f) := by
  unfold fillBank
  repeat' first
    | with_reducible apply within_refl
    | with_reducible assumption
    | (extract_lets +onlyGivenNames u
       first
       | (refine within_cut (v := u) ?_ ?_
          all_goals (first | (with_reducible intro hu; revert hu; clear_value u; intro hu) | subst u))
       | clear_value u
       | subst u)
    | (with_reducible apply within_step (putWhole_within _ _ _); decide)
    | (with_reducible apply within_forAll; intro _ _)
    | split

theorem loadLevels_within (s : State) :
    Within [.blotter] s (loadLevels s) := by
  unfold loadLevels
  repeat' first
    | with_reducible apply within_refl
    | with_reducible assumption
    | (extract_lets +onlyGivenNames u
       first
       | (refine within_cut (v := u) ?_ ?_
          all_goals (first | (with_reducible intro hu; revert hu; clear_value u; intro hu) | subst u))
       | clear_value u
       | subst u)
    | (with_reducible apply within_step (modBlotter_keeps_queue _ _ ?hk); (case hk => first | with_unfolding_all rfl | with_reducible rfl | ((try dsimp only); (repeat' split) <;> with_reducible rfl)); decide)
    | split

theorem configWrite_within (s : State) (addr : Nat) (v : Word) :
    Within [.time, .units, .quills, .inboxes, .nibs, .nibSetup, .links, .streams, .trackers, .channels, .comparators, .adc, .counters, .eic, .raises, .blotter, .ink, .dma, .co, .scribe, .power, .host, .reflexDue, .posted, .latches] s (configWrite s addr v).1 := by
  unfold configWrite
  repeat' first
    | with_reducible apply within_refl
    | with_reducible assumption
    | (with_reducible apply within_ite <;> intro _)
    | (extract_lets +onlyGivenNames u
       first
       | (refine within_cut (v := u) ?_ ?_
          all_goals (first | (with_reducible intro hu; revert hu; clear_value u; intro hu) | subst u))
       | clear_value u
       | subst u)
    | (with_reducible apply within_step (blotterConfig_within _ _ _); decide)
    | (with_reducible apply within_step (busWrite_within _ _ _ _); decide)
    | split

theorem configAll_within (s : State) (l : List (Nat × ConfigRec)) : Within [.time, .units, .quills, .inboxes, .nibs, .nibSetup, .links, .streams, .trackers, .channels, .comparators, .adc, .counters, .eic, .raises, .blotter, .ink, .dma, .co, .scribe, .power, .host, .reflexDue, .posted, .latches] s (configAll s l).1 := by
  induction l generalizing s with
  | nil => exact within_refl _ _
  | cons x rest ih =>
    obtain ⟨o, c⟩ := x
    unfold configAll
    split
    rename_i t bad h
    split
    · exact within_fst (configWrite_within _ _ _) h (by decide) (within_refl _ _)
    · exact within_step (ih _) (List.Subset.refl _)
        (within_fst (configWrite_within _ _ _) h (by decide) (within_refl _ _))

theorem loadImage_within (s : State) (im : Image) :
    Within [.time, .folio, .units, .quills, .inboxes, .stores, .nibs, .nibSetup, .links, .streams, .trackers, .tickTrackers, .channels, .comparators, .adc, .counters, .eic, .raises, .blotter, .cells, .ink, .dma, .pool, .co, .scribe, .power, .host, .reflexDue, .posted, .latches] s (loadImage s im).1 := by
  unfold loadImage
  repeat' first
    | with_reducible apply within_refl
    | with_reducible assumption
    | (extract_lets +onlyGivenNames u
       first
       | (refine within_cut (v := u) ?_ ?_
          all_goals (first | (with_reducible intro hu; revert hu; clear_value u; intro hu) | subst u))
       | clear_value u
       | subst u)
    | (with_reducible apply within_step (bindUnit_within _ _); decide)
    | (with_reducible apply within_step (configAll_within _ _); decide)
    | (with_reducible apply within_fst (configAll_within _ _); with_reducible assumption; decide)
    | (with_reducible apply within_step (fillBank_within _ _); decide)
    | (with_reducible apply within_step (loadLevels_within _); decide)
    | (with_reducible apply within_step (loadProgram_within _ _); decide)
    | (with_reducible apply within_step (modFolio_keeps_units _ _ ?hk); (case hk => first | (simp only [unitsOf]; done) | with_reducible rfl | ((try dsimp only); (repeat' split) <;> with_reducible rfl)); decide)
    | (with_reducible apply within_step (modFolio_keeps_rest _ _ ?hk); (case hk => first | with_reducible rfl | (simp only [inForce]; done) | ((try dsimp only); (repeat' split) <;> with_reducible rfl)); decide)
    | (with_reducible apply within_step (modFolio_within _ _); decide)
    | (with_reducible apply within_step (resetResources_within _); decide)
    | (with_reducible apply within_step (takeBank_within _ _); decide)
    | (with_reducible apply within_forAll; intro _ _)
    | split

theorem divideSpares_within (s : State) :
    Within [.quills, .raises, .blotter, .pool] s (divideSpares s) := by
  unfold divideSpares
  repeat' first
    | with_reducible apply within_refl
    | with_reducible assumption
    | (with_reducible apply within_ite <;> intro _)
    | (extract_lets +onlyGivenNames u
       first
       | (refine within_cut (v := u) ?_ ?_
          all_goals (first | (with_reducible intro hu; revert hu; clear_value u; intro hu) | subst u))
       | clear_value u
       | subst u)
    | (with_reducible apply within_step (modQuill_keeps_inbox _ _ _ ?hk); (case hk => first | with_reducible rfl | (simp only [inboxOf]; done) | ((try dsimp only); (repeat' split) <;> (simp only [inboxOf]; done))); decide)
    | (with_reducible apply within_step (modQuill_within _ _ _); decide)
    | (with_reducible apply within_step (reviewRoles_within _); decide)
    | (with_reducible apply within_step (setRole_within _ _ _); decide)
    | (with_reducible apply within_forAll; intro _ _)
    | split

theorem boundSafe_within (s : State) (n : NibIx) :
    Within [.nibs, .nibSetup] s (boundSafe s n) := by
  unfold boundSafe
  repeat' first
    | with_reducible apply within_refl
    | with_reducible assumption
    | (with_reducible apply within_ite <;> intro _)
    | (with_reducible apply within_step (setDrive_within _ _ _); decide)
    | split

theorem applyGlyphs_within (s : State) (glyphs : List UnitRec) :
    Within [.time, .units, .quills, .inboxes, .nibs, .nibSetup, .links, .streams, .trackers, .channels, .comparators, .adc, .counters, .eic, .raises, .blotter, .cells, .ink, .dma, .co, .scribe, .power, .host, .reflexDue, .posted] s (applyGlyphs s glyphs) := by
  unfold applyGlyphs
  repeat' first
    | with_reducible apply within_refl
    | with_reducible assumption
    | (with_reducible apply within_step (applyGlyph_within _ _); decide)
    | (with_reducible apply within_forAll; intro _ _)
    | split

theorem enableAtStart_within (s : State) (units : List UnitRec) :
    Within [.units, .quills, .inboxes, .nibs, .nibSetup, .links, .streams, .trackers, .channels, .comparators, .adc, .counters, .eic, .raises, .blotter, .ink, .co] s (enableAtStart s units) := by
  unfold enableAtStart
  repeat' first
    | with_reducible apply within_refl
    | with_reducible assumption
    | (with_reducible apply within_step (setOwnEnable_within _ _ _); decide)
    | (with_reducible apply within_forAll; intro _ _)
    | split

theorem startFolio_within (s : State) :
    Within [.clock, .time, .folio, .units, .quills, .inboxes, .nibs, .nibSetup, .links, .streams, .trackers, .channels, .comparators, .adc, .counters, .eic, .raises, .blotter, .cells, .ink, .dma, .pool, .co, .scribe, .power, .host, .reflexDue, .posted] s (startFolio s) := by
  unfold startFolio
  repeat' first
    | with_reducible apply within_refl
    | with_reducible assumption
    | (with_reducible apply within_ite <;> intro _)
    | (extract_lets +onlyGivenNames u
       first
       | (refine within_cut (v := u) ?_ ?_
          all_goals (first | (with_reducible intro hu; revert hu; clear_value u; intro hu) | subst u))
       | clear_value u
       | subst u)
    | (with_reducible apply within_step (applyGlyphs_within _ _); decide)
    | (with_reducible apply within_step (boundSafe_within _ _); decide)
    | (with_reducible apply within_step (divideSpares_within _); decide)
    | (with_reducible apply within_step (enableAtStart_within _ _); decide)
    | (with_reducible apply within_step (modFolio_keeps_units _ _ ?hk); (case hk => first | (simp only [unitsOf]; done) | with_reducible rfl | ((try dsimp only); (repeat' split) <;> with_reducible rfl)); decide)
    | (with_reducible apply within_step (modFolio_keeps_rest _ _ ?hk); (case hk => first | with_reducible rfl | (simp only [inForce]; done) | ((try dsimp only); (repeat' split) <;> with_reducible rfl)); decide)
    | (with_reducible apply within_step (modFolio_within _ _); decide)
    | (with_reducible apply within_step (modHost_within _ _); decide)
    | (with_reducible apply within_step (modQuill_keeps_inbox _ _ _ ?hk); (case hk => first | with_reducible rfl | (simp only [inboxOf]; done) | ((try dsimp only); (repeat' split) <;> (simp only [inboxOf]; done))); decide)
    | (with_reducible apply within_step (modQuill_within _ _ _); decide)
    | (with_reducible apply within_step (modTime_keeps_clock _ _ ?hk); (case hk => first | with_reducible rfl | (simp only [clockOf]; done) | ((try dsimp only); (repeat' split) <;> with_reducible rfl)); decide)
    | (with_reducible apply within_step (modTime_keeps_rest _ _ ?hk); (case hk => first | with_reducible rfl | (simp only [restOfTime]; done) | ((try dsimp only); (repeat' split) <;> with_reducible rfl)); decide)
    | (with_reducible apply within_step (modTime_within _ _); decide)
    | (with_reducible apply within_step (setPeriod_within _ _); decide)
    | (with_reducible apply within_forAll; intro _ _)
    | split
    | (intro k hk; cases k <;> first | exact absurd (by decide) hk | exact hu _ hk | rfl | exact ⟨rfl, rfl⟩ | exact ⟨rfl, rfl, rfl, rfl⟩)

end Sys2Proof.Machine
end

