-- ==== Sys2Proof/Laws/PartsFrames.lean ====
section
/-! SUPPORT. The parts of the state that each operation of Machine/Frames.lean can change. -/
namespace Sys2Proof.Machine

theorem settleFates_within (s : State) (fates : Vector Fate 16) :
    Within [.quills, .inboxes, .nibs, .streams, .eic, .raises, .blotter] s (settleFates s fates) := by
  unfold settleFates
  repeat' first
    | with_reducible apply within_refl
    | with_reducible assumption
    | (with_reducible apply within_step (holdOwned_within _ _); decide)
    | (with_reducible apply within_step (modQuill_keeps_inbox _ _ _ ?hk); (case hk => first | with_reducible rfl | (simp only [inboxOf]; done) | ((try dsimp only); (repeat' split) <;> (simp only [inboxOf]; done))); decide)
    | (with_reducible apply within_step (modQuill_within _ _ _); decide)
    | (with_reducible apply within_forAll; intro _ _)
    | split

theorem tbSteps_within (s : State) (d : W64) :
    Within [.time, .inboxes, .nibs, .nibSetup, .links, .streams, .channels, .comparators, .adc, .eic, .raises, .blotter, .ink, .co, .power] s (tbSteps s d) := by
  unfold tbSteps
  repeat' first
    | with_reducible apply within_refl
    | with_reducible assumption
    | (extract_lets +onlyGivenNames u
       first
       | (refine within_cut (v := u) ?_ ?_
          all_goals (first | (with_reducible intro hu; revert hu; clear_value u; intro hu) | subst u))
       | clear_value u
       | subst u)
    | (with_reducible apply within_step (inputSteps_within _ _); decide)
    | (with_reducible apply within_step (modAdc_within _ _); decide)
    | (with_reducible apply within_step (modCo_within _ _); decide)
    | (with_reducible apply within_step (modInk_keeps_cells _ _ ?hk); (case hk => first | with_reducible rfl | ((try dsimp only); (repeat' split) <;> with_reducible rfl)); decide)
    | (with_reducible apply within_step (modMarch_within _ _); decide)
    | (with_reducible apply within_step (modPower_keeps_mode _ _ ?hk); (case hk => first | with_reducible rfl | ((try dsimp only); (repeat' split) <;> with_reducible rfl)); decide)
    | (with_reducible apply within_step (modTime_keeps_clock _ _ ?hk); (case hk => first | with_reducible rfl | (simp only [clockOf]; done) | ((try dsimp only); (repeat' split) <;> with_reducible rfl)); decide)
    | (with_reducible apply within_step (settle_within _); decide)
    | split
    | (intro k hk; cases k <;> first | exact absurd (by decide) hk | exact hu _ hk | rfl | exact ⟨rfl, rfl⟩ | exact ⟨rfl, rfl, rfl, rfl⟩)

theorem tickTime_within (s : State) :
    Within [.clock, .time, .inboxes, .nibs, .nibSetup, .links, .streams, .channels, .comparators, .adc, .eic, .raises, .blotter, .ink, .co, .power] s (tickTime s) := by
  unfold tickTime
  repeat' first
    | with_reducible apply within_refl
    | with_reducible assumption
    | (extract_lets +onlyGivenNames u
       first
       | (refine within_cut (v := u) ?_ ?_
          all_goals (first | (with_reducible intro hu; revert hu; clear_value u; intro hu) | subst u))
       | clear_value u
       | subst u)
    | (with_reducible apply within_step (modSync_within _ _); decide)
    | (with_reducible apply within_step (modTime_keeps_clock _ _ ?hk); (case hk => first | with_reducible rfl | (simp only [clockOf]; done) | ((try dsimp only); (repeat' split) <;> with_reducible rfl)); decide)
    | (with_reducible apply within_step (modTime_keeps_rest _ _ ?hk); (case hk => first | with_reducible rfl | (simp only [restOfTime]; done) | ((try dsimp only); (repeat' split) <;> with_reducible rfl)); decide)
    | (with_reducible apply within_step (modTime_within _ _); decide)
    | (with_reducible apply within_step (tbSteps_within _ _); decide)
    | split
    | (intro k hk; cases k <;> first | exact absurd (by decide) hk | exact hu _ hk | rfl | exact ⟨rfl, rfl⟩ | exact ⟨rfl, rfl, rfl, rfl⟩)

theorem keepTick_within (s : State) (q : QuillIx) :
    Within [.quills] s (keepTick s q) := by
  unfold keepTick
  repeat' first
    | with_reducible apply within_refl
    | with_reducible assumption
    | (with_reducible apply within_ite <;> intro _)
    | (with_reducible apply within_step (modQuill_keeps_inbox _ _ _ ?hk); (case hk => first | with_reducible rfl | (simp only [inboxOf]; done) | ((try dsimp only); (repeat' split) <;> (simp only [inboxOf]; done))); decide)
    | (with_reducible apply within_step (modQuill_within _ _ _); decide)
    | split

theorem keepTicks_within (s : State) :
    Within [.quills] s (keepTicks s) := by
  unfold keepTicks
  repeat' first
    | with_reducible apply within_refl
    | with_reducible assumption
    | (with_reducible apply within_step (keepTick_within _ _); decide)
    | (with_reducible apply within_forAll; intro _ _)

theorem clearTaken_within (s : State) :
    Within [.nibs, .nibSetup] s (clearTaken s) := by
  unfold clearTaken
  repeat' first
    | with_reducible apply within_refl
    | with_reducible assumption
    | split
    | (intro k hk; cases k <;> first | exact absurd (by decide) hk | exact hu _ hk | rfl | exact ⟨rfl, rfl⟩ | exact ⟨rfl, rfl, rfl, rfl⟩)

theorem tickBegin_within (s : State) (newPeriod : Bool) :
    Within [.clock, .time, .quills, .inboxes, .nibs, .nibSetup, .links, .streams, .channels, .comparators, .adc, .counters, .eic, .raises, .blotter, .ink, .co, .power, .free] s (tickBegin s newPeriod) := by
  unfold tickBegin
  repeat' first
    | with_reducible apply within_refl
    | with_reducible assumption
    | (extract_lets +onlyGivenNames u
       first
       | (refine within_cut (v := u) ?_ ?_
          all_goals (first | (with_reducible intro hu; revert hu; clear_value u; intro hu) | subst u))
       | clear_value u
       | subst u)
    | (with_reducible apply within_step (ceTick_within _); decide)
    | (with_reducible apply within_step (clearTaken_within _); decide)
    | (with_reducible apply within_step (emuOffsetTick_within _); decide)
    | (with_reducible apply within_step (fbTick_within _ _); decide)
    | (with_reducible apply within_step (gatesTick_within _ _); decide)
    | (with_reducible apply within_step (keepTicks_within _); decide)
    | (with_reducible apply within_step (modBlotter_keeps_queue _ _ ?hk); (case hk => first | with_unfolding_all rfl | with_reducible rfl | ((try dsimp only); (repeat' split) <;> with_reducible rfl)); decide)
    | (with_reducible apply within_step (syncTick_within _); decide)
    | (with_reducible apply within_step (tickTime_within _); decide)
    | (with_reducible apply within_step (toggleAlive_within _); decide)
    | (with_reducible apply within_forAll; intro _ _)
    | split

theorem commitInk_within (s : State) (outs : List FrameOut) :
    Within [.raises, .blotter, .cells, .ink, .co] s (commitInk s outs) := by
  unfold commitInk
  repeat' first
    | with_reducible apply within_refl
    | with_reducible assumption
    | (with_reducible apply within_step (inkWriteWord_within _ _ _ _ _ _); decide)
    | (with_reducible apply within_forAll; intro _ _)
    | split

theorem takeCtrl_within (s : State) :
    Within [.units] s (takeCtrl s).2 := by
  unfold takeCtrl
  repeat' first
    | with_reducible apply within_refl
    | with_reducible assumption
    | (extract_lets +onlyGivenNames u
       first
       | (refine within_cut (v := u) ?_ ?_
          all_goals (first | (with_reducible intro hu; revert hu; clear_value u; intro hu) | subst u))
       | clear_value u
       | subst u)
    | (with_reducible apply within_step (modFolio_keeps_rest _ _ ?hk); (case hk => first | with_reducible rfl | (simp only [inForce]; done) | ((try dsimp only); (repeat' split) <;> with_reducible rfl)); decide)
    | (with_reducible apply within_step (modFolio_within _ _); decide)
    | split

theorem applyDue_within (s : State) (due : List CtrlPend) :
    Within [.time, .units, .quills, .inboxes, .nibs, .nibSetup, .links, .streams, .trackers, .channels, .comparators, .adc, .counters, .eic, .raises, .blotter, .cells, .ink, .dma, .co, .scribe, .power, .host, .reflexDue, .posted] s (applyDue s due) := by
  unfold applyDue
  repeat' first
    | with_reducible apply within_refl
    | with_reducible assumption
    | (extract_lets +onlyGivenNames u
       first
       | (refine within_cut (v := u) ?_ ?_
          all_goals (first | (with_reducible intro hu; revert hu; clear_value u; intro hu) | subst u))
       | clear_value u
       | subst u)
    | (with_reducible apply within_step (applyGlyph_within _ _); decide)
    | (with_reducible apply within_step (raiseGlyphEvent_within _ _ _); decide)
    | (with_reducible apply within_forAll; intro _ _)
    | split

theorem commitRegw_within (s : State) (q : QuillIx) (r : W128) :
    Within [.time, .units, .quills, .inboxes, .nibs, .nibSetup, .links, .streams, .trackers, .channels, .comparators, .adc, .counters, .eic, .raises, .blotter, .cells, .ink, .dma, .co, .scribe, .power, .host, .reflexDue, .posted] s (commitRegw s q r) := by
  unfold commitRegw
  repeat' first
    | with_reducible apply within_refl
    | with_reducible assumption
    | (with_reducible apply within_ite <;> intro _)
    | (extract_lets +onlyGivenNames u
       first
       | (refine within_cut (v := u) ?_ ?_
          all_goals (first | (with_reducible intro hu; revert hu; clear_value u; intro hu) | subst u))
       | clear_value u
       | subst u)
    | (with_reducible apply within_step (advise_within _ _ _); decide)
    | (with_reducible apply within_step (modQuill_keeps_inbox _ _ _ ?hk); (case hk => first | with_reducible rfl | (simp only [inboxOf]; done) | ((try dsimp only); (repeat' split) <;> (simp only [inboxOf]; done))); decide)
    | (with_reducible apply within_step (modQuill_within _ _ _); decide)
    | (with_reducible apply within_step (regwRecord_within _ _ _ _); decide)
    | split

theorem commitRegws_within (s : State) (outs : List FrameOut) :
    Within [.time, .units, .quills, .inboxes, .nibs, .nibSetup, .links, .streams, .trackers, .channels, .comparators, .adc, .counters, .eic, .raises, .blotter, .cells, .ink, .dma, .co, .scribe, .power, .host, .reflexDue, .posted] s (commitRegws s outs) := by
  unfold commitRegws
  repeat' first
    | with_reducible apply within_refl
    | with_reducible assumption
    | (with_reducible apply within_step (commitRegw_within _ _ _); decide)
    | (with_reducible apply within_forAll; intro _ _)
    | split

theorem commitVirtual_within (q : QuillIx) (l : List CommitRec) (s : State) :
    Within [.quills, .inboxes, .nibs, .nibSetup, .streams, .trackers, .channels, .eic, .raises, .blotter] s (commitVirtual q l s) := by
  fun_induction commitVirtual q l s with
  | case1 => exact within_refl _ _
  | case2 s p d rest ih =>
    refine within_step ih (List.Subset.refl _) ?_
    split
    · exact within_mono (virtualUpdate_within _ _ _) (by decide)
    · exact within_mono (advise_within _ _ _) (by decide)
  | case3 => rename_i ih; exact within_step ih (List.Subset.refl _) (within_mono (advise_within _ _ _) (by decide))
  | case4 => rename_i ih; exact within_step ih (List.Subset.refl _) (within_mono (advise_within _ _ _) (by decide))
  | _ => rename_i ih; exact ih

theorem commitVirtuals_within (s : State) (outs : List FrameOut) :
    Within [.quills, .inboxes, .nibs, .nibSetup, .streams, .trackers, .channels, .eic, .raises, .blotter] s (commitVirtuals s outs) := by
  unfold commitVirtuals
  repeat' first
    | with_reducible apply within_refl
    | with_reducible assumption
    | (with_reducible apply within_step (commitVirtual_within _ _ _); decide)
    | (with_reducible apply within_forAll; intro _ _)
    | split

theorem commitStrokes_within (s : State) (outs : List FrameOut) :
    Within [.inboxes, .nibs, .streams, .eic, .raises, .blotter] s (commitStrokes s outs) := by
  unfold commitStrokes
  repeat' first
    | with_reducible apply within_refl
    | with_reducible assumption
    | (with_reducible apply within_step (commitStroke_within _ _ _ _); decide)
    | (with_reducible apply within_step (predictAll_within _); decide)
    | (with_reducible apply within_forAll; intro _ _)
    | split

theorem commitSignals_within (s : State) (outs : List FrameOut) :
    Within [.eic, .raises, .blotter] s (commitSignals s outs) := by
  unfold commitSignals
  repeat' first
    | with_reducible apply within_refl
    | with_reducible assumption
    | (with_reducible apply within_step (deliverEvent_within _ _ _ _ _); decide)
    | (with_reducible apply within_forAll; intro _ _)
    | split

theorem assignAudits_within (s : State) :
    Within [.quills, .pool] s (assignAudits s) := by
  unfold assignAudits
  repeat' first
    | with_reducible apply within_refl
    | with_reducible assumption
    | (with_reducible apply within_ite <;> intro _)
    | (extract_lets +onlyGivenNames u
       first
       | (refine within_cut (v := u) ?_ ?_
          all_goals (first | (with_reducible intro hu; revert hu; clear_value u; intro hu) | subst u))
       | clear_value u
       | subst u)
    | (with_reducible apply within_step (modPool_within _ _); decide)
    | (with_reducible apply within_step (modQuill_keeps_inbox _ _ _ ?hk); (case hk => first | with_reducible rfl | (simp only [inboxOf]; done) | ((try dsimp only); (repeat' split) <;> (simp only [inboxOf]; done))); decide)
    | (with_reducible apply within_step (modQuill_within _ _ _); decide)
    | (with_reducible apply within_forAll; intro _ _)
    | split

theorem gatherQuill_within (s : State) (tracks : List (Nat × W128)) (q : QuillIx) :
    Within [.quills, .inboxes, .eic, .raises, .blotter] s (gatherQuill s tracks q) := by
  unfold gatherQuill
  repeat' first
    | with_reducible apply within_refl
    | with_reducible assumption
    | (with_reducible apply within_ite <;> intro _)
    | (extract_lets +onlyGivenNames u
       first
       | (refine within_cut (v := u) ?_ ?_
          all_goals (first | (with_reducible intro hu; revert hu; clear_value u; intro hu) | subst u))
       | clear_value u
       | subst u)
    | (with_reducible apply within_step (enterHalt_within _ _); decide)
    | (with_reducible apply within_step (modQuill_keeps_inbox _ _ _ ?hk); (case hk => first | with_reducible rfl | (simp only [inboxOf]; done) | ((try dsimp only); (repeat' split) <;> (simp only [inboxOf]; done))); decide)
    | (with_reducible apply within_step (modQuill_within _ _ _); decide)
    | split

theorem gatherAll_within (s : State) :
    Within [.quills, .inboxes, .eic, .raises, .blotter, .pool] s (gatherAll s) := by
  unfold gatherAll
  repeat' first
    | with_reducible apply within_refl
    | with_reducible assumption
    | (with_reducible apply within_ite <;> intro _)
    | (extract_lets +onlyGivenNames u
       first
       | (refine within_cut (v := u) ?_ ?_
          all_goals (first | (with_reducible intro hu; revert hu; clear_value u; intro hu) | subst u))
       | clear_value u
       | subst u)
    | (with_reducible apply within_step (assignAudits_within _); decide)
    | (with_reducible apply within_step (gatherQuill_within _ _ _); decide)
    | (with_reducible apply within_forAll; intro _ _)
    | split

theorem laneTransfers_within (s : State) :
    Within [.raises, .blotter] s (laneTransfers s) := by
  unfold laneTransfers
  repeat' first
    | with_reducible apply within_refl
    | with_reducible assumption
    | (with_reducible apply within_ite <;> intro _)
    | (extract_lets +onlyGivenNames u
       first
       | (refine within_cut (v := u) ?_ ?_
          all_goals (first | (with_reducible intro hu; revert hu; clear_value u; intro hu) | subst u))
       | clear_value u
       | subst u)
    | (with_reducible apply within_step (busTransfer_within _ _); decide)
    | (with_reducible apply within_forAll; intro _ _)
    | split

theorem closeFrame_within (s : State) (mismatched : List QuillIx) (votes : List (QuillIx × Vote)) :
    Within [.units, .quills, .raises, .blotter, .pool] s (closeFrame s mismatched votes) := by
  unfold closeFrame
  repeat' first
    | with_reducible apply within_refl
    | with_reducible assumption
    | (with_reducible apply within_ite <;> intro _)
    | (extract_lets +onlyGivenNames u
       first
       | (refine within_cut (v := u) ?_ ?_
          all_goals (first | (with_reducible intro hu; revert hu; clear_value u; intro hu) | subst u))
       | clear_value u
       | subst u)
    | (with_reducible apply within_step (laneTransfers_within _); decide)
    | (with_reducible apply within_step (modFolio_keeps_rest _ _ ?hk); (case hk => first | with_reducible rfl | (simp only [inForce]; done) | ((try dsimp only); (repeat' split) <;> with_reducible rfl)); decide)
    | (with_reducible apply within_step (modFolio_within _ _); decide)
    | (with_reducible apply within_step (modPool_within _ _); decide)
    | (with_reducible apply within_step (modQuill_keeps_inbox _ _ _ ?hk); (case hk => first | with_reducible rfl | (simp only [inboxOf]; done) | ((try dsimp only); (repeat' split) <;> (simp only [inboxOf]; done))); decide)
    | (with_reducible apply within_step (modQuill_within _ _ _); decide)
    | (with_reducible apply within_forAll; intro _ _)
    | split

theorem endTrigger_within (s : State) (o : CoOutcome) (status : Nat) :
    Within [.eic, .co, .scribe, .posted] s (endTrigger s o status) := by
  unfold endTrigger
  repeat' first
    | with_reducible apply within_refl
    | with_reducible assumption
    | (with_reducible apply within_ite <;> intro _)
    | (extract_lets +onlyGivenNames u
       first
       | (refine within_cut (v := u) ?_ ?_
          all_goals (first | (with_reducible intro hu; revert hu; clear_value u; intro hu) | subst u))
       | clear_value u
       | subst u)
    | (with_reducible apply within_step (disarm_within _ _); decide)
    | (with_reducible apply within_step (endCmd_within _ _ _ _ _); decide)
    | split

theorem leafUnready_within (s : State) (f : StagedLeaf → Bool) :
    Within [.eic, .co, .scribe, .posted] s (leafUnready s f) := by
  unfold leafUnready
  repeat' first
    | with_reducible apply within_refl
    | with_reducible assumption
    | (with_reducible apply within_ite <;> intro _)
    | (extract_lets +onlyGivenNames u
       first
       | (refine within_cut (v := u) ?_ ?_
          all_goals (first | (with_reducible intro hu; revert hu; clear_value u; intro hu) | subst u))
       | clear_value u
       | subst u)
    | (with_reducible apply within_step (endTrigger_within _ _ _); decide)
    | (with_reducible apply within_step (modCo_within _ _); decide)
    | split

theorem beginDispute_within (s : State) (q : QuillIx) :
    Within [.quills, .eic, .raises, .blotter, .pool, .co, .scribe, .posted] s (beginDispute s q) := by
  unfold beginDispute
  repeat' first
    | with_reducible apply within_refl
    | with_reducible assumption
    | (with_reducible apply within_ite <;> intro _)
    | (extract_lets +onlyGivenNames u
       first
       | (refine within_cut (v := u) ?_ ?_
          all_goals (first | (with_reducible intro hu; revert hu; clear_value u; intro hu) | subst u))
       | clear_value u
       | subst u)
    | (with_reducible apply within_step (leafUnready_within _ _); decide)
    | (with_reducible apply within_step (modCo_within _ _); decide)
    | (with_reducible apply within_step (modPool_within _ _); decide)
    | (with_reducible apply within_step (modQuill_keeps_inbox _ _ _ ?hk); (case hk => first | with_reducible rfl | (simp only [inboxOf]; done) | ((try dsimp only); (repeat' split) <;> (simp only [inboxOf]; done))); decide)
    | (with_reducible apply within_step (modQuill_within _ _ _); decide)
    | (with_reducible apply within_step (raiseAt_within _ _ _ _); decide)
    | (with_reducible apply within_step (raiseFault_within _ _ _); decide)
    | (with_reducible apply within_step (setRole_within _ _ _); decide)
    | split

theorem countDispute_within (s : State) (q : QuillIx) :
    Within [.quills, .raises, .blotter] s (countDispute s q) := by
  unfold countDispute
  repeat' first
    | with_reducible apply within_refl
    | with_reducible assumption
    | (extract_lets +onlyGivenNames u
       first
       | (refine within_cut (v := u) ?_ ?_
          all_goals (first | (with_reducible intro hu; revert hu; clear_value u; intro hu) | subst u))
       | clear_value u
       | subst u)
    | (with_reducible apply within_step (modQuill_keeps_inbox _ _ _ ?hk); (case hk => first | with_reducible rfl | (simp only [inboxOf]; done) | ((try dsimp only); (repeat' split) <;> (simp only [inboxOf]; done))); decide)
    | (with_reducible apply within_step (modQuill_within _ _ _); decide)
    | (with_reducible apply within_step (raiseFault_within _ _ _); decide)
    | split

theorem endVote_within (s : State) (v : VoteSt) :
    Within [.quills, .raises, .blotter, .ink, .pool] s (endVote s v) := by
  unfold endVote
  repeat' first
    | with_reducible apply within_refl
    | with_reducible assumption
    | (extract_lets +onlyGivenNames u
       first
       | (refine within_cut (v := u) ?_ ?_
          all_goals (first | (with_reducible intro hu; revert hu; clear_value u; intro hu) | subst u))
       | clear_value u
       | subst u)
    | (with_reducible apply within_step (modPool_within _ _); decide)
    | (with_reducible apply within_step (moveQuill_within _ _ _ _); decide)
    | (with_reducible apply within_step (raiseFault_within _ _ _); decide)
    | (with_reducible apply within_step (retirePhys_within _ _ _ _); decide)
    | split

theorem disputesTick_within (s : State) (superseded : QuillIx → Bool) :
    Within [.quills, .eic, .raises, .blotter, .ink, .pool, .co, .scribe, .posted] s (disputesTick s superseded) := by
  unfold disputesTick
  repeat' first
    | with_reducible apply within_refl
    | with_reducible assumption
    | (with_reducible apply within_ite <;> intro _)
    | (extract_lets +onlyGivenNames u
       first
       | (refine within_cut (v := u) ?_ ?_
          all_goals (first | (with_reducible intro hu; revert hu; clear_value u; intro hu) | subst u))
       | clear_value u
       | subst u)
    | (with_reducible apply within_step (beginDispute_within _ _); decide)
    | (with_reducible apply within_step (countDispute_within _ _); decide)
    | (with_reducible apply within_step (endVote_within _ _); decide)
    | (with_reducible apply within_step (modPool_within _ _); decide)
    | (with_reducible apply within_forAll; intro _ _)
    | split

end Sys2Proof.Machine
end

