-- ==== Sys2Proof/Laws/PartsStaging.lean ====
section
/-! SUPPORT. The parts of the state that each operation of Machine/Staging.lean can change. -/
namespace Sys2Proof.Machine

theorem freshResource_within (s : State) (r : UnitRec) :
    Within [.nibs, .nibSetup, .links, .streams, .trackers, .channels, .comparators, .adc, .counters, .dma] s (freshResource s r) := by
  unfold freshResource
  repeat' first
    | with_reducible apply within_refl
    | with_reducible assumption
    | (with_reducible apply within_step (freshAdc_within _); decide)
    | (with_reducible apply within_step (modCe_within _ _ _); decide)
    | (with_reducible apply within_step (modChan_within _ _ _); decide)
    | (with_reducible apply within_step (modComp_within _ _ _); decide)
    | (with_reducible apply within_step (modFb_within _ _ _); decide)
    | (with_reducible apply within_step (modLink_within _ _ _); decide)
    | (with_reducible apply within_step (modStream_within _ _ _); decide)
    | (with_reducible apply within_step (modTrack_within _ _ _); decide)
    | split
    | (intro k hk; cases k <;> first | exact absurd (by decide) hk | exact hu _ hk | rfl | exact ⟨rfl, rfl⟩ | exact ⟨rfl, rfl, rfl, rfl⟩)

theorem installUnits_within (s : State) (ims : List Image) :
    Within [.units] s (installUnits s ims) := by
  unfold installUnits
  repeat' first
    | with_reducible apply within_refl
    | with_reducible assumption
    | (extract_lets +onlyGivenNames u
       first
       | (refine within_cut (v := u) ?_ ?_
          all_goals (first | (with_reducible intro hu; revert hu; clear_value u; intro hu) | subst u))
       | clear_value u
       | subst u)
    | (with_reducible apply within_step (modFolio_keeps_rest _ _ ?hk); (case hk => first | with_reducible rfl | (simp only [inForce]; done) | ((try dsimp only); (repeat' split) <;> with_reducible rfl)); decide)
    | (with_reducible apply within_step (modFolio_within _ _); decide)
    | split

theorem shadowUnits_within (s : State) (ims : List Image) :
    Within [.units, .nibs, .nibSetup, .links, .streams, .trackers, .channels, .comparators, .adc, .counters, .dma] s (shadowUnits s ims) := by
  unfold shadowUnits
  repeat' first
    | with_reducible apply within_refl
    | with_reducible assumption
    | (extract_lets +onlyGivenNames u
       first
       | (refine within_cut (v := u) ?_ ?_
          all_goals (first | (with_reducible intro hu; revert hu; clear_value u; intro hu) | subst u))
       | clear_value u
       | subst u)
    | (with_reducible apply within_step (bindUnit_within _ _); decide)
    | (with_reducible apply within_step (freshResource_within _ _); decide)
    | (with_reducible apply within_step (installUnits_within _ _); decide)
    | (with_reducible apply within_forAll; intro _ _)
    | split

theorem fillStaged_within (s : State) (im : Image) (x : InkIx × Nat) :
    Within [.cells, .ink] s (fillStaged s im x) := by
  unfold fillStaged
  repeat' first
    | with_reducible apply within_refl
    | with_reducible assumption
    | (extract_lets +onlyGivenNames u
       first
       | (refine within_cut (v := u) ?_ ?_
          all_goals (first | (with_reducible intro hu; revert hu; clear_value u; intro hu) | subst u))
       | clear_value u
       | subst u)
    | (with_reducible apply within_step (endFreeTest_within _ _); decide)
    | (with_reducible apply within_step (putWhole_within _ _ _); decide)
    | (with_reducible apply within_step (zeroBank_within _ _); decide)
    | (with_reducible apply within_forAll; intro _ _)
    | split

theorem prepare_within (s : State) (p : Program) (standby : Option PhysIx) :
    Within [.quills, .inboxes, .stores, .eic, .raises, .blotter, .pool] s (prepare s p standby).1 := by
  unfold prepare
  repeat' first
    | with_reducible apply within_refl
    | with_reducible assumption
    | (extract_lets +onlyGivenNames u
       first
       | (refine within_cut (v := u) ?_ ?_
          all_goals (first | (with_reducible intro hu; revert hu; clear_value u; intro hu) | subst u))
       | clear_value u
       | subst u)
    | (with_reducible apply within_step (modQuill_keeps_inbox _ _ _ ?hk); (case hk => first | with_reducible rfl | (simp only [inboxOf]; done) | ((try dsimp only); (repeat' split) <;> (simp only [inboxOf]; done))); decide)
    | (with_reducible apply within_step (modQuill_within _ _ _); decide)
    | (with_reducible apply within_step (raiseQuillEvent_within _ _ _); decide)
    | (with_reducible apply within_step (setRole_within _ _ _); decide)
    | split
    | (intro k hk; cases k <;> first | exact absurd (by decide) hk | exact hu _ hk | rfl | exact ⟨rfl, rfl⟩ | exact ⟨rfl, rfl, rfl, rfl⟩)

theorem prepareAll_within (s : State) (l : List Program) (free : List PhysIx) :
    Within [.quills, .inboxes, .stores, .eic, .raises, .blotter, .pool] s (prepareAll s l free).1 := by
  induction l generalizing s free with
  | nil => exact within_refl _ _
  | cons p rest ih =>
    unfold prepareAll
    dsimp only
    exact within_step (ih _ _) (List.Subset.refl _) (within_mono (prepare_within _ _ _) (by decide))

theorem releaseLeaf_within (s : State) (l : StagedLeaf) :
    Within [.quills, .pool] s (releaseLeaf s l) := by
  unfold releaseLeaf
  repeat' first
    | with_reducible apply within_refl
    | with_reducible assumption
    | (with_reducible apply within_ite <;> intro _)
    | (with_reducible apply within_step (modQuill_keeps_inbox _ _ _ ?hk); (case hk => first | with_reducible rfl | (simp only [inboxOf]; done) | ((try dsimp only); (repeat' split) <;> (simp only [inboxOf]; done))); decide)
    | (with_reducible apply within_step (modQuill_within _ _ _); decide)
    | (with_reducible apply within_step (setRole_within _ _ _); decide)
    | (with_reducible apply within_forAll; intro _ _)
    | split

theorem releaseStaged_within (s : State) (f : StagedLeaf → Bool) :
    Within [.quills, .pool, .co] s (releaseStaged s f) := by
  unfold releaseStaged
  repeat' first
    | with_reducible apply within_refl
    | with_reducible assumption
    | (extract_lets +onlyGivenNames u
       first
       | (refine within_cut (v := u) ?_ ?_
          all_goals (first | (with_reducible intro hu; revert hu; clear_value u; intro hu) | subst u))
       | clear_value u
       | subst u)
    | (with_reducible apply within_step (modCo_within _ _); decide)
    | (with_reducible apply within_step (releaseLeaf_within _ _); decide)
    | (with_reducible apply within_forAll; intro _ _)
    | split

theorem stageLeaf_within (s : State) (b : Bytes) :
    Within [.quills, .inboxes, .stores, .eic, .raises, .blotter, .cells, .ink, .pool, .co] s (stageLeaf s b).1 := by
  unfold stageLeaf
  repeat' first
    | with_reducible apply within_refl
    | with_reducible assumption
    | (with_reducible apply within_ite <;> intro _)
    | (extract_lets +onlyGivenNames u
       first
       | (refine within_cut (v := u) ?_ ?_
          all_goals (first | (with_reducible intro hu; revert hu; clear_value u; intro hu) | subst u))
       | clear_value u
       | subst u)
    | (with_reducible apply within_step (fillStaged_within _ _ _); decide)
    | (with_reducible apply within_step (modCo_within _ _); decide)
    | (with_reducible apply within_step (prepareAll_within _ _ _); decide)
    | (with_reducible apply within_fst (prepareAll_within _ _ _); with_reducible assumption; decide)
    | (with_reducible apply within_step (releaseStaged_within _ _); decide)
    | (with_reducible apply within_forAll; intro _ _)
    | split

theorem reviewStaged_within (s : State) :
    Within [.eic, .co, .scribe, .posted] s (reviewStaged s) := by
  unfold reviewStaged
  repeat' first
    | with_reducible apply within_refl
    | with_reducible assumption
    | (with_reducible apply within_ite <;> intro _)
    | (extract_lets +onlyGivenNames u
       first
       | (refine within_cut (v := u) ?_ ?_
          all_goals (first | (with_reducible intro hu; revert hu; clear_value u; intro hu) | subst u))
       | clear_value u
       | subst u)
    | (with_reducible apply within_step (leafUnready_within _ _); decide)
    | split

theorem spareFromLeaf_within (s : State) :
    Within [.eic, .co, .scribe, .posted] s (spareFromLeaf s) := by
  unfold spareFromLeaf
  repeat' first
    | with_reducible apply within_refl
    | with_reducible assumption
    | (with_reducible apply within_ite <;> intro _)
    | (extract_lets +onlyGivenNames u
       first
       | (refine within_cut (v := u) ?_ ?_
          all_goals (first | (with_reducible intro hu; revert hu; clear_value u; intro hu) | subst u))
       | clear_value u
       | subst u)
    | (with_reducible apply within_step (leafUnready_within _ _); decide)
    | (with_reducible apply within_step (modCo_within _ _); decide)
    | split

theorem commitTrigger_within (s : State) (due : W64) :
    Within [.co, .scribe] s (commitTrigger s due) := by
  unfold commitTrigger
  repeat' first
    | with_reducible apply within_refl
    | with_reducible assumption
    | (with_reducible apply within_ite <;> intro _)
    | (extract_lets +onlyGivenNames u
       first
       | (refine within_cut (v := u) ?_ ?_
          all_goals (first | (with_reducible intro hu; revert hu; clear_value u; intro hu) | subst u))
       | clear_value u
       | subst u)
    | (with_reducible apply within_step (modCo_within _ _); decide)
    | (with_reducible apply within_step (setHeadPhase_within _ _); decide)
    | split

theorem frameTriggerClose_within (s : State) :
    Within [.co, .scribe] s (frameTriggerClose s) := by
  unfold frameTriggerClose
  repeat' first
    | with_reducible apply within_refl
    | with_reducible assumption
    | (with_reducible apply within_ite <;> intro _)
    | (with_reducible apply within_step (commitTrigger_within _ _); decide)
    | split

theorem triggerTick_within (s : State) :
    Within [.eic, .co, .scribe, .posted] s (triggerTick s) := by
  unfold triggerTick
  repeat' first
    | with_reducible apply within_refl
    | with_reducible assumption
    | (with_reducible apply within_ite <;> intro _)
    | (extract_lets +onlyGivenNames u
       first
       | (refine within_cut (v := u) ?_ ?_
          all_goals (first | (with_reducible intro hu; revert hu; clear_value u; intro hu) | subst u))
       | clear_value u
       | subst u)
    | (with_reducible apply within_step (commitTrigger_within _ _); decide)
    | (with_reducible apply within_step (endTrigger_within _ _ _); decide)
    | (with_reducible apply within_step (modCo_within _ _); decide)
    | split

end Sys2Proof.Machine
end

