-- ==== Sys2Proof/Laws/PartsChangeover.lean ====
section
/-! SUPPORT. The parts of the state that each operation of Machine/Changeover.lean can change. -/
namespace Sys2Proof.Machine

theorem nibLeaves_within (s : State) (n : NibIx) :
    Within [.inboxes, .nibs, .streams, .eic, .raises, .blotter] s (nibLeaves s n) := by
  unfold nibLeaves
  repeat' first
    | with_reducible apply within_refl
    | with_reducible assumption
    | (with_reducible apply within_step (closeWindows_within _ _ _); decide)
    | (with_reducible apply within_step (stopOutput_within _ _ _); decide)

theorem trackLeaves_within (s : State) (i : TrackIx) :
    Within [.inboxes, .nibs, .nibSetup, .streams, .trackers, .channels, .eic, .raises, .blotter] s (trackLeaves s i) := by
  unfold trackLeaves
  repeat' first
    | with_reducible apply within_refl
    | with_reducible assumption
    | (with_reducible apply within_ite <;> intro _)
    | (extract_lets +onlyGivenNames u
       first
       | (refine within_cut (v := u) ?_ ?_
          all_goals (first | (with_reducible intro hu; revert hu; clear_value u; intro hu) | subst u))
       | clear_value u
       | subst u)
    | (with_reducible apply within_step (cancelUnlocked_within _ _ _); decide)
    | (with_reducible apply within_step (modTrack_within _ _ _); decide)
    | (with_reducible apply within_step (trackOff_within _ _); decide)
    | split

theorem fbLeaves_within (s : State) (b : FbIx) :
    Within [.nibs, .channels] s (fbLeaves s b) := by
  unfold fbLeaves
  repeat' first
    | with_reducible apply within_refl
    | with_reducible assumption
    | (with_reducible apply within_ite <;> intro _)
    | (extract_lets +onlyGivenNames u
       first
       | (refine within_cut (v := u) ?_ ?_
          all_goals (first | (with_reducible intro hu; revert hu; clear_value u; intro hu) | subst u))
       | clear_value u
       | subst u)
    | (with_reducible apply within_step (emuOff_within _ _); decide)
    | (with_reducible apply within_step (fbOff_within _ _); decide)
    | (with_reducible apply within_step (modFb_within _ _ _); decide)
    | split

theorem quillGoes_within (s : State) (q : QuillIx) :
    Within [.quills] s (quillGoes s q) := by
  unfold quillGoes
  repeat' first
    | with_reducible apply within_refl
    | with_reducible assumption
    | (with_reducible apply within_step (modQuill_keeps_inbox _ _ _ ?hk); (case hk => first | with_reducible rfl | (simp only [inboxOf]; done) | ((try dsimp only); (repeat' split) <;> (simp only [inboxOf]; done))); decide)
    | (with_reducible apply within_step (modQuill_within _ _ _); decide)
    | split

theorem leaveUnit_within (w : Swap) (s : State) (x : UnitSt) :
    Within [.quills, .inboxes, .nibs, .nibSetup, .links, .streams, .trackers, .channels, .comparators, .adc, .counters, .eic, .raises, .blotter, .ink, .dma, .posted] s (leaveUnit w s x) := by
  unfold leaveUnit
  repeat' first
    | with_reducible apply within_refl
    | with_reducible assumption
    | (with_reducible apply within_ite <;> intro _)
    | (extract_lets +onlyGivenNames u
       first
       | (refine within_cut (v := u) ?_ ?_
          all_goals (first | (with_reducible intro hu; revert hu; clear_value u; intro hu) | subst u))
       | clear_value u
       | subst u)
    | (with_reducible apply within_step (chanLeaves_within _ _); decide)
    | (with_reducible apply within_step (fbLeaves_within _ _); decide)
    | (with_reducible apply within_step (freshAdc_within _); decide)
    | (with_reducible apply within_step (modBank_within _ _ _); decide)
    | (with_reducible apply within_step (modCe_within _ _ _); decide)
    | (with_reducible apply within_step (modComp_within _ _ _); decide)
    | (with_reducible apply within_step (modLink_within _ _ _); decide)
    | (with_reducible apply within_step (modStream_within _ _ _); decide)
    | (with_reducible apply within_step (nibLeaves_within _ _); decide)
    | (with_reducible apply within_step (quillGoes_within _ _); decide)
    | (with_reducible apply within_step (trackLeaves_within _ _); decide)
    | split
    | (intro k hk; cases k <;> first | exact absurd (by decide) hk | exact hu _ hk | rfl | exact ⟨rfl, rfl⟩ | exact ⟨rfl, rfl, rfl, rfl⟩)

theorem takePin_within (s : State) (n : NibIx) :
    Within [.nibs, .nibSetup] s (takePin s n) := by
  unfold takePin
  repeat' first
    | with_reducible apply within_refl
    | with_reducible assumption
    | (with_reducible apply within_ite <;> intro _)
    | (extract_lets +onlyGivenNames u
       first
       | (refine within_cut (v := u) ?_ ?_
          all_goals (first | (with_reducible intro hu; revert hu; clear_value u; intro hu) | subst u))
       | clear_value u
       | subst u)
    | (with_reducible apply within_step (modNib_keeps_setup _ _ _ ?hk); (case hk => first | ((try dsimp only); unfold driven; (repeat' split) <;> (simp only [setupOf]; done)) | with_reducible rfl | (simp only [setupOf]; done) | ((try dsimp only); (repeat' split) <;> (simp only [setupOf]; done))); decide)
    | (with_reducible apply within_step (modNib_keeps_doing _ _ _ ?hk); (case hk => first | ((try dsimp only); unfold driven; (repeat' split) <;> (simp only [doingOf]; done)) | with_reducible rfl | (simp only [doingOf]; done) | ((try dsimp only); (repeat' split) <;> (simp only [doingOf]; done))); decide)
    | (with_reducible apply within_step (modNib_within _ _ _); decide)
    | (with_reducible apply within_step (movePin_within _ _ _); decide)
    | split

theorem takePins_within (s : State) :
    Within [.nibs, .nibSetup] s (takePins s) := by
  unfold takePins
  repeat' first
    | with_reducible apply within_refl
    | with_reducible assumption
    | (with_reducible apply within_ite <;> intro _)
    | (with_reducible apply within_step (takePin_within _ _); decide)
    | (with_reducible apply within_forAll; intro _ _)
    | split

theorem installLeaves_within (w : Swap) (s : State) :
    Within [.clock, .time, .folio, .units, .blotter] s (installLeaves w s) := by
  unfold installLeaves
  repeat' first
    | with_reducible apply within_refl
    | with_reducible assumption
    | (extract_lets +onlyGivenNames u
       first
       | (refine within_cut (v := u) ?_ ?_
          all_goals (first | (with_reducible intro hu; revert hu; clear_value u; intro hu) | subst u))
       | clear_value u
       | subst u)
    | (with_reducible apply within_step (installUnits_within _ _); decide)
    | (with_reducible apply within_step (loadLevels_within _); decide)
    | (with_reducible apply within_step (modFolio_keeps_units _ _ ?hk); (case hk => first | (simp only [unitsOf]; done) | with_reducible rfl | ((try dsimp only); (repeat' split) <;> with_reducible rfl)); decide)
    | (with_reducible apply within_step (modFolio_keeps_rest _ _ ?hk); (case hk => first | with_reducible rfl | (simp only [inForce]; done) | ((try dsimp only); (repeat' split) <;> with_reducible rfl)); decide)
    | (with_reducible apply within_step (modFolio_within _ _); decide)
    | (with_reducible apply within_step (setPeriod_within _ _); decide)
    | split

theorem standsSafe_within (w : Swap) (s : State) (n : NibIx) (pin : Nat) :
    Within [.nibs, .nibSetup] s (standsSafe w s n pin) := by
  unfold standsSafe
  repeat' first
    | with_reducible apply within_refl
    | with_reducible assumption
    | (with_reducible apply within_ite <;> intro _)
    | (extract_lets +onlyGivenNames u
       first
       | (refine within_cut (v := u) ?_ ?_
          all_goals (first | (with_reducible intro hu; revert hu; clear_value u; intro hu) | subst u))
       | clear_value u
       | subst u)
    | (with_reducible apply within_step (modNib_keeps_setup _ _ _ ?hk); (case hk => first | ((try dsimp only); unfold driven; (repeat' split) <;> (simp only [setupOf]; done)) | with_reducible rfl | (simp only [setupOf]; done) | ((try dsimp only); (repeat' split) <;> (simp only [setupOf]; done))); decide)
    | (with_reducible apply within_step (modNib_keeps_doing _ _ _ ?hk); (case hk => first | ((try dsimp only); unfold driven; (repeat' split) <;> (simp only [doingOf]; done)) | with_reducible rfl | (simp only [doingOf]; done) | ((try dsimp only); (repeat' split) <;> (simp only [doingOf]; done))); decide)
    | (with_reducible apply within_step (modNib_within _ _ _); decide)
    | split

theorem nibStays_within (w : Swap) (s : State) (n : NibIx) (r : UnitRec) :
    Within [.time, .inboxes, .nibs, .nibSetup, .links, .streams, .trackers, .eic, .raises, .blotter, .ink, .co, .power, .reflexDue] s (nibStays w s n r) := by
  unfold nibStays
  repeat' first
    | with_reducible apply within_refl
    | with_reducible assumption
    | (with_reducible apply within_ite <;> intro _)
    | (extract_lets +onlyGivenNames u
       first
       | (refine within_cut (v := u) ?_ ?_
          all_goals (first | (with_reducible intro hu; revert hu; clear_value u; intro hu) | subst u))
       | clear_value u
       | subst u)
    | (with_reducible apply within_step (driveDirect_within _ _); decide)
    | (with_reducible apply within_step (modNib_keeps_setup _ _ _ ?hk); (case hk => first | with_reducible rfl | (simp only [setupOf]; done) | ((try dsimp only); (repeat' split) <;> (simp only [setupOf]; done))); decide)
    | (with_reducible apply within_step (modNib_keeps_doing _ _ _ ?hk); (case hk => first | with_reducible rfl | (simp only [doingOf]; done) | ((try dsimp only); (repeat' split) <;> (simp only [doingOf]; done))); decide)
    | (with_reducible apply within_step (modNib_within _ _ _); decide)
    | (with_reducible apply within_step (standsSafe_within _ _ _ _); decide)
    | (with_reducible apply within_step (writeInCtrl_within _ _ _); decide)
    | (with_reducible apply within_step (writeNibSafe_within _ _ _); decide)
    | split

theorem nibArrives_within (w : Swap) (s : State) (n : NibIx) :
    Within [.nibs, .nibSetup] s (nibArrives w s n) := by
  unfold nibArrives
  repeat' first
    | with_reducible apply within_refl
    | with_reducible assumption
    | (extract_lets +onlyGivenNames u
       first
       | (refine within_cut (v := u) ?_ ?_
          all_goals (first | (with_reducible intro hu; revert hu; clear_value u; intro hu) | subst u))
       | clear_value u
       | subst u)
    | split
    | (intro k hk; cases k <;> first | exact absurd (by decide) hk | exact hu _ hk | rfl | exact ⟨rfl, rfl⟩ | exact ⟨rfl, rfl, rfl, rfl⟩)

theorem compStays_within (w : Swap) (s : State) (c : AcIx) (r : UnitRec) :
    Within [.inboxes, .nibs, .links, .streams, .comparators, .eic, .raises, .blotter, .ink, .co] s (compStays w s c r) := by
  unfold compStays
  repeat' first
    | with_reducible apply within_refl
    | with_reducible assumption
    | (with_reducible apply within_ite <;> intro _)
    | (extract_lets +onlyGivenNames u
       first
       | (refine within_cut (v := u) ?_ ?_
          all_goals (first | (with_reducible intro hu; revert hu; clear_value u; intro hu) | subst u))
       | clear_value u
       | subst u)
    | (with_reducible apply within_step (modComp_within _ _ _); decide)
    | (with_reducible apply within_step (settle_within _); decide)
    | (with_reducible apply within_step (writeThr_within _ _ _); decide)
    | split

theorem adcStays_within (w : Swap) (s : State) (r : UnitRec) :
    Within [.adc] s (adcStays w s r) := by
  unfold adcStays
  repeat' first
    | with_reducible apply within_refl
    | with_reducible assumption
    | (extract_lets +onlyGivenNames u
       first
       | (refine within_cut (v := u) ?_ ?_
          all_goals (first | (with_reducible intro hu; revert hu; clear_value u; intro hu) | subst u))
       | clear_value u
       | subst u)
    | (with_reducible apply within_step (modAdc_within _ _); decide)
    | split

theorem arriveUnit_within (w : Swap) (s : State) (r : UnitRec) :
    Within [.time, .inboxes, .nibs, .nibSetup, .links, .streams, .trackers, .channels, .comparators, .adc, .counters, .eic, .raises, .blotter, .ink, .dma, .co, .power, .reflexDue] s (arriveUnit w s r) := by
  unfold arriveUnit
  repeat' first
    | with_reducible apply within_refl
    | with_reducible assumption
    | (with_reducible apply within_ite <;> intro _)
    | (extract_lets +onlyGivenNames u
       first
       | (refine within_cut (v := u) ?_ ?_
          all_goals (first | (with_reducible intro hu; revert hu; clear_value u; intro hu) | subst u))
       | clear_value u
       | subst u)
    | (with_reducible apply within_step (adcStays_within _ _ _); decide)
    | (with_reducible apply within_step (compStays_within _ _ _ _); decide)
    | (with_reducible apply within_step (modAdc_within _ _); decide)
    | (with_reducible apply within_step (modCe_within _ _ _); decide)
    | (with_reducible apply within_step (modChan_within _ _ _); decide)
    | (with_reducible apply within_step (modComp_within _ _ _); decide)
    | (with_reducible apply within_step (modFb_within _ _ _); decide)
    | (with_reducible apply within_step (modLink_within _ _ _); decide)
    | (with_reducible apply within_step (modStream_within _ _ _); decide)
    | (with_reducible apply within_step (modTrack_within _ _ _); decide)
    | (with_reducible apply within_step (nibArrives_within _ _ _); decide)
    | (with_reducible apply within_step (nibStays_within _ _ _ _); decide)
    | split

theorem liveConfig_within (w : Swap) (s : State) (c : ConfigRec) :
    Within [.time, .units, .quills, .inboxes, .nibs, .nibSetup, .links, .streams, .trackers, .channels, .comparators, .adc, .counters, .eic, .raises, .blotter, .ink, .dma, .co, .scribe, .power, .host, .reflexDue, .posted, .latches] s (liveConfig w s c) := by
  unfold liveConfig
  repeat' first
    | with_reducible apply within_refl
    | with_reducible assumption
    | (with_reducible apply within_ite <;> intro _)
    | (extract_lets +onlyGivenNames u
       first
       | (refine within_cut (v := u) ?_ ?_
          all_goals (first | (with_reducible intro hu; revert hu; clear_value u; intro hu) | subst u))
       | clear_value u
       | subst u)
    | (with_reducible apply within_step (busWrite_within _ _ _ _); decide)
    | split

theorem mapStaged_within (s : State) (b : InkIx) (p : Nat) :
    Within [.raises, .blotter, .ink] s (mapStaged s b p) := by
  unfold mapStaged
  repeat' first
    | with_reducible apply within_refl
    | with_reducible assumption
    | (with_reducible apply within_ite <;> intro _)
    | (extract_lets +onlyGivenNames u
       first
       | (refine within_cut (v := u) ?_ ?_
          all_goals (first | (with_reducible intro hu; revert hu; clear_value u; intro hu) | subst u))
       | clear_value u
       | subst u)
    | (with_reducible apply within_step (modBank_within _ _ _); decide)
    | (with_reducible apply within_step (modInk_keeps_cells _ _ ?hk); (case hk => first | with_reducible rfl | ((try dsimp only); (repeat' split) <;> with_reducible rfl)); decide)
    | (with_reducible apply within_step (modMarch_within _ _); decide)
    | (with_reducible apply within_step (retireBank_within _ _ _ _ _); decide)
    | (with_reducible apply within_step (wantMigration_within _ _ _); decide)
    | split

theorem bankArrives_within (w : Swap) (s : State) (r : UnitRec) :
    Within [.raises, .blotter, .ink] s (bankArrives w s r) := by
  unfold bankArrives
  repeat' first
    | with_reducible apply within_refl
    | with_reducible assumption
    | (with_reducible apply within_ite <;> intro _)
    | (extract_lets +onlyGivenNames u
       first
       | (refine within_cut (v := u) ?_ ?_
          all_goals (first | (with_reducible intro hu; revert hu; clear_value u; intro hu) | subst u))
       | clear_value u
       | subst u)
    | (with_reducible apply within_step (mapStaged_within _ _ _); decide)
    | (with_reducible apply within_step (modBank_within _ _ _); decide)
    | (with_reducible apply within_step (takeBank_within _ _); decide)
    | split

theorem endMoves_within (s : State) (q : QuillIx) :
    Within [.quills, .raises, .blotter, .ink, .pool] s (endMoves s q) := by
  unfold endMoves
  repeat' first
    | with_reducible apply within_refl
    | with_reducible assumption
    | (extract_lets +onlyGivenNames u
       first
       | (refine within_cut (v := u) ?_ ?_
          all_goals (first | (with_reducible intro hu; revert hu; clear_value u; intro hu) | subst u))
       | clear_value u
       | subst u)
    | (with_reducible apply within_step (modPool_within _ _); decide)
    | (with_reducible apply within_step (retirePhys_within _ _ _ _); decide)
    | (with_reducible apply within_forAll; intro _ _)
    | split

theorem takeReserved_within (s : State) (q : QuillIx) (p : PhysIx) :
    Within [.quills, .raises, .blotter, .ink, .pool] s (takeReserved s q p) := by
  unfold takeReserved
  repeat' first
    | with_reducible apply within_refl
    | with_reducible assumption
    | (extract_lets +onlyGivenNames u
       first
       | (refine within_cut (v := u) ?_ ?_
          all_goals (first | (with_reducible intro hu; revert hu; clear_value u; intro hu) | subst u))
       | clear_value u
       | subst u)
    | (with_reducible apply within_step (endMoves_within _ _); decide)
    | (with_reducible apply within_step (leaveStore_within _ _); decide)
    | (with_reducible apply within_step (modQuill_keeps_inbox _ _ _ ?hk); (case hk => first | with_reducible rfl | (simp only [inboxOf]; done) | ((try dsimp only); (repeat' split) <;> (simp only [inboxOf]; done))); decide)
    | (with_reducible apply within_step (modQuill_within _ _ _); decide)
    | (with_reducible apply within_step (reviewRoles_within _); decide)
    | (with_reducible apply within_step (setRole_within _ _ _); decide)
    | split

theorem programArrives_within (s : State) (q : QuillIx) (g : StagedProgram) :
    Within [.quills, .raises, .blotter, .ink, .pool] s (programArrives s q g) := by
  unfold programArrives
  repeat' first
    | with_reducible apply within_refl
    | with_reducible assumption
    | (with_reducible apply within_ite <;> intro _)
    | (extract_lets +onlyGivenNames u
       first
       | (refine within_cut (v := u) ?_ ?_
          all_goals (first | (with_reducible intro hu; revert hu; clear_value u; intro hu) | subst u))
       | clear_value u
       | subst u)
    | (with_reducible apply within_step (modQuill_keeps_inbox _ _ _ ?hk); (case hk => first | with_reducible rfl | (simp only [inboxOf]; done) | ((try dsimp only); (repeat' split) <;> (simp only [inboxOf]; done))); decide)
    | (with_reducible apply within_step (modQuill_within _ _ _); decide)
    | (with_reducible apply within_step (takeReserved_within _ _ _); decide)
    | split

theorem quillArrives_within (w : Swap) (fates : Vector Fate 16) (s : State) (r : UnitRec) :
    Within [.quills] s (quillArrives w fates s r) := by
  unfold quillArrives
  repeat' first
    | with_reducible apply within_refl
    | with_reducible assumption
    | (with_reducible apply within_ite <;> intro _)
    | (extract_lets +onlyGivenNames u
       first
       | (refine within_cut (v := u) ?_ ?_
          all_goals (first | (with_reducible intro hu; revert hu; clear_value u; intro hu) | subst u))
       | clear_value u
       | subst u)
    | (with_reducible apply within_step (modQuill_keeps_inbox _ _ _ ?hk); (case hk => first | with_reducible rfl | (simp only [inboxOf]; done) | ((try dsimp only); (repeat' split) <;> (simp only [inboxOf]; done))); decide)
    | (with_reducible apply within_step (modQuill_within _ _ _); decide)
    | split

theorem carryWords_within (w : Swap) (s : State) (c : CarryRec) (r : UnitRec) :
    Within [.co] s (carryWords w s c r) := by
  unfold carryWords
  repeat' first
    | with_reducible apply within_refl
    | with_reducible assumption
    | (extract_lets +onlyGivenNames u
       first
       | (refine within_cut (v := u) ?_ ?_
          all_goals (first | (with_reducible intro hu; revert hu; clear_value u; intro hu) | subst u))
       | clear_value u
       | subst u)
    | (with_reducible apply within_step (modCo_within _ _); decide)
    | split

theorem carryParams_within (w : Swap) (s : State) (c : CarryRec) :
    Within [.units] s (carryParams w s c) := by
  unfold carryParams
  repeat' first
    | with_reducible apply within_refl
    | with_reducible assumption
    | (with_reducible apply within_step (modUnit_within _ _ _); decide)
    | split

theorem carryAll_within (w : Swap) (s : State) :
    Within [.units, .co] s (carryAll w s) := by
  unfold carryAll
  repeat' first
    | with_reducible apply within_refl
    | with_reducible assumption
    | (with_reducible apply within_ite <;> intro _)
    | (extract_lets +onlyGivenNames u
       first
       | (refine within_cut (v := u) ?_ ?_
          all_goals (first | (with_reducible intro hu; revert hu; clear_value u; intro hu) | subst u))
       | clear_value u
       | subst u)
    | (with_reducible apply within_step (carryParams_within _ _ _); decide)
    | (with_reducible apply within_step (carryWords_within _ _ _ _); decide)
    | (with_reducible apply within_step (modCo_within _ _); decide)
    | (with_reducible apply within_forAll; intro _ _)
    | split

theorem carryCopy_within (s : State) :
    Within [.raises, .blotter, .cells, .ink, .co] s (carryCopy s) := by
  unfold carryCopy
  repeat' first
    | with_reducible apply within_refl
    | with_reducible assumption
    | (with_reducible apply within_ite <;> intro _)
    | (with_reducible apply within_step (carryWord_within _ _ _ _); decide)
    | (with_reducible apply within_step (modCo_within _ _); decide)
    | split

theorem enableGlyphs_within (w : Swap) (s : State) :
    Within [.units] s (enableGlyphs w s) := by
  unfold enableGlyphs
  repeat' first
    | with_reducible apply within_refl
    | with_reducible assumption
    | (with_reducible apply within_step (modUnit_within _ _ _); decide)
    | (with_reducible apply within_forAll; intro _ _)
    | split

theorem enableIncoming_within (w : Swap) (s : State) :
    Within [.units, .quills, .inboxes, .nibs, .nibSetup, .links, .streams, .trackers, .channels, .comparators, .adc, .counters, .eic, .raises, .blotter, .ink, .co] s (enableIncoming w s) := by
  unfold enableIncoming
  repeat' first
    | with_reducible apply within_refl
    | with_reducible assumption
    | (with_reducible apply within_ite <;> intro _)
    | (extract_lets +onlyGivenNames u
       first
       | (refine within_cut (v := u) ?_ ?_
          all_goals (first | (with_reducible intro hu; revert hu; clear_value u; intro hu) | subst u))
       | clear_value u
       | subst u)
    | (with_reducible apply within_step (reviewUnit_within _ _); decide)
    | (with_reducible apply within_step (setOwnEnable_within _ _ _); decide)
    | (with_reducible apply within_forAll; intro _ _)
    | split

theorem dropOutgoing_within (s : State) (due : List CtrlPend) :
    Within [.ink] s (dropOutgoing s due).2 := by
  unfold dropOutgoing
  repeat' first
    | with_reducible apply within_refl
    | with_reducible assumption
    | (extract_lets +onlyGivenNames u
       first
       | (refine within_cut (v := u) ?_ ?_
          all_goals (first | (with_reducible intro hu; revert hu; clear_value u; intro hu) | subst u))
       | clear_value u
       | subst u)
    | (with_reducible apply within_step (modBank_within _ _ _); decide)
    | (with_reducible apply within_forAll; intro _ _)
    | split

theorem swapLeaves_within (fates : Vector Fate 16) (s : State) :
    Within [.clock, .time, .folio, .units, .quills, .inboxes, .nibs, .nibSetup, .links, .streams, .trackers, .channels, .comparators, .adc, .counters, .eic, .raises, .blotter, .cells, .ink, .dma, .pool, .co, .scribe, .power, .host, .reflexDue, .posted, .latches] s (swapLeaves fates s) := by
  unfold swapLeaves
  repeat' first
    | with_reducible apply within_refl
    | with_reducible assumption
    | (extract_lets +onlyGivenNames u
       first
       | (refine within_cut (v := u) ?_ ?_
          all_goals (first | (with_reducible intro hu; revert hu; clear_value u; intro hu) | subst u))
       | clear_value u
       | subst u)
    | (with_reducible apply within_step (applyGlyphs_within _ _); decide)
    | (with_reducible apply within_step (arriveUnit_within _ _ _); decide)
    | (with_reducible apply within_step (bankArrives_within _ _ _); decide)
    | (with_reducible apply within_step (carryAll_within _ _); decide)
    | (with_reducible apply within_step (enableGlyphs_within _ _); decide)
    | (with_reducible apply within_step (enableIncoming_within _ _); decide)
    | (with_reducible apply within_step (installLeaves_within _ _); decide)
    | (with_reducible apply within_step (leaveUnit_within _ _ _); decide)
    | (with_reducible apply within_step (liveConfig_within _ _ _); decide)
    | (with_reducible apply within_step (modCo_within _ _); decide)
    | (with_reducible apply within_step (programArrives_within _ _ _); decide)
    | (with_reducible apply within_step (quillArrives_within _ _ _ _); decide)
    | (with_reducible apply within_step (reviewBanks_within _); decide)
    | (with_reducible apply within_step (reviewSafe_within _); decide)
    | (with_reducible apply within_forAll; intro _ _)
    | split

theorem noteTaken_within (s : State) :
    Within [.co] s (noteTaken s) := by
  unfold noteTaken
  repeat' first
    | with_reducible apply within_refl
    | with_reducible assumption
    | (with_reducible apply within_step (modCo_within _ _); decide)
    | split

theorem changeoverCompletes_within (s : State) :
    Within [.eic, .scribe, .posted] s (changeoverCompletes s) := by
  unfold changeoverCompletes
  repeat' first
    | with_reducible apply within_refl
    | with_reducible assumption
    | (with_reducible apply within_ite <;> intro _)
    | (with_reducible apply within_step (endCmd_within _ _ _ _ _); decide)
    | split

end Sys2Proof.Machine
end

