-- ==== Sys2Proof/Laws/PartsTick.lean ====
section
/-! SUPPORT. The parts of the state that each operation of Machine/Tick.lean can change. -/
namespace Sys2Proof.Machine

theorem stopToSafe_within (s : State) :
    Within [.folio, .units, .quills, .inboxes, .nibs, .nibSetup, .links, .streams, .eic, .raises, .blotter, .ink, .pool, .co, .scribe, .posted] s (stopToSafe s) := by
  unfold stopToSafe
  repeat' first
    | with_reducible apply within_refl
    | with_reducible assumption
    | (with_reducible apply within_ite <;> intro _)
    | (extract_lets +onlyGivenNames u
       first
       | (refine within_cut (v := u) ?_ ?_
          all_goals (first | (with_reducible intro hu; revert hu; clear_value u; intro hu) | subst u))
       | clear_value u
       | subst u)
    | (with_reducible apply within_step (disarm_within _ _); decide)
    | (with_reducible apply within_step (endCmd_within _ _ _ _ _); decide)
    | (with_reducible apply within_step (modFolio_keeps_units _ _ ?hk); (case hk => first | (simp only [unitsOf]; done) | with_reducible rfl | ((try dsimp only); (repeat' split) <;> with_reducible rfl)); decide)
    | (with_reducible apply within_step (modFolio_keeps_rest _ _ ?hk); (case hk => first | with_reducible rfl | (simp only [inForce]; done) | ((try dsimp only); (repeat' split) <;> with_reducible rfl)); decide)
    | (with_reducible apply within_step (modFolio_within _ _); decide)
    | (with_reducible apply within_step (modScribe_within _ _); decide)
    | (with_reducible apply within_step (quillReview_within _ _); decide)
    | (with_reducible apply within_step (releaseStaged_within _ _); decide)
    | (with_reducible apply within_step (reviewSafe_within _); decide)
    | (with_reducible apply within_forAll; intro _ _)
    | split
    | (intro k hk; cases k <;> first | exact absurd (by decide) hk | exact hu _ hk | rfl | exact ⟨rfl, rfl⟩ | exact ⟨rfl, rfl, rfl, rfl⟩)

theorem endReport_within (s : State) (addr : W64) (bytes : List Byte) (r0 : W64) (r1 : W64) :
    Within [.eic, .scribe, .posted] s (endReport s addr bytes r0 r1) := by
  unfold endReport
  repeat' first
    | with_reducible apply within_refl
    | with_reducible assumption
    | (with_reducible apply within_ite <;> intro _)
    | (with_reducible apply within_step (endCmd_within _ _ _ _ _); decide)
    | (with_reducible apply within_step (post_within _ _); decide)
    | split

theorem takeSnapshot_within (s : State) :
    Within [.eic, .scribe, .posted] s (takeSnapshot s) := by
  unfold takeSnapshot
  repeat' first
    | with_reducible apply within_refl
    | with_reducible assumption
    | (extract_lets +onlyGivenNames u
       first
       | (refine within_cut (v := u) ?_ ?_
          all_goals (first | (with_reducible intro hu; revert hu; clear_value u; intro hu) | subst u))
       | clear_value u
       | subst u)
    | (with_reducible apply within_step (endReport_within _ _ _ _ _); decide)
    | (with_reducible apply within_step (modScribe_within _ _); decide)
    | split

theorem trimCompletes_within (s : State) :
    Within [.eic, .scribe, .posted] s (trimCompletes s) := by
  unfold trimCompletes
  repeat' first
    | with_reducible apply within_refl
    | with_reducible assumption
    | (with_reducible apply within_ite <;> intro _)
    | (with_reducible apply within_step (endCmd_within _ _ _ _ _); decide)
    | split

theorem gatherEarly_within (s : State) :
    Within [.quills, .inboxes] s (gatherEarly s) := by
  unfold gatherEarly
  repeat' first
    | with_reducible apply within_refl
    | with_reducible assumption
    | (intro k hk; cases k <;> first | exact absurd (by decide) hk | exact hu _ hk | rfl | exact ⟨rfl, rfl⟩ | exact ⟨rfl, rfl, rfl, rfl⟩)

theorem keepTrackers_within (s : State) :
    Within [.tickTrackers] s (keepTrackers s) := by
  unfold keepTrackers
  repeat' first
    | with_reducible apply within_refl
    | with_reducible assumption
    | (intro k hk; cases k <;> first | exact absurd (by decide) hk | exact hu _ hk | rfl | exact ⟨rfl, rfl⟩ | exact ⟨rfl, rfl, rfl, rfl⟩)

theorem runTick_within (swap : Bool) (s : State) :
    Within [.clock, .time, .folio, .units, .quills, .inboxes, .nibs, .nibSetup, .links, .streams, .trackers, .tickTrackers, .channels, .comparators, .adc, .counters, .eic, .raises, .blotter, .cells, .ink, .dma, .pool, .co, .scribe, .power, .host, .reflexDue, .posted, .latches, .free] s (runTick swap s) := by
  unfold runTick
  repeat' first
    | with_reducible apply within_refl
    | with_reducible assumption
    | (with_reducible apply within_ite <;> intro _)
    | (extract_lets +onlyGivenNames u
       first
       | (refine within_cut (v := u) ?_ ?_
          all_goals (first | (with_reducible intro hu; revert hu; clear_value u; intro hu) | subst u))
       | clear_value u
       | subst u)
    | (with_reducible apply within_step (applyDue_within _ _); decide)
    | (with_reducible apply within_step (applyGearing_within _); decide)
    | (with_reducible apply within_step (bankSwitch_within _); decide)
    | (with_reducible apply within_step (changeoverCompletes_within _); decide)
    | (with_reducible apply within_step (commitInk_within _ _); decide)
    | (with_reducible apply within_step (commitRegws_within _ _); decide)
    | (with_reducible apply within_step (commitSignals_within _ _); decide)
    | (with_reducible apply within_step (commitStrokes_within _ _); decide)
    | (with_reducible apply within_step (commitVirtuals_within _ _); decide)
    | (with_reducible apply within_step (ctrlActs_within _ _); decide)
    | (with_reducible apply within_step (disputesTick_within _ _); decide)
    | (with_reducible apply within_step (dropOutgoing_within _ _); decide)
    | (with_reducible apply within_snd (dropOutgoing_within _ _); with_reducible assumption; decide)
    | (with_reducible apply within_step (emuStart_within _); decide)
    | (with_reducible apply within_step (gatherAll_within _); decide)
    | (with_reducible apply within_step (gatherEarly_within _); decide)
    | (with_reducible apply within_step (handoversTick_within _); decide)
    | (with_reducible apply within_step (keepTrackers_within _); decide)
    | (with_reducible apply within_step (leaveSafe_within _); decide)
    | (with_reducible apply within_step (marchTick_within _); decide)
    | (with_reducible apply within_step (movesTick_within _); decide)
    | (with_reducible apply within_step (noteTaken_within _); decide)
    | (with_reducible apply within_step (reviewStaged_within _); decide)
    | (with_reducible apply within_step (settleFates_within _ _); decide)
    | (with_reducible apply within_step (settleInputs_within _ _); decide)
    | (with_reducible apply within_step (sliceLift_within _); decide)
    | (with_reducible apply within_step (stopToSafe_within _); decide)
    | (with_reducible apply within_step (swapLeaves_within _ _); decide)
    | (with_reducible apply within_step (takeCtrl_within _); decide)
    | (with_reducible apply within_snd (takeCtrl_within _); with_reducible assumption; decide)
    | (with_reducible apply within_step (takeSnapshot_within _); decide)
    | (with_reducible apply within_step (tickBegin_within _ _); decide)
    | (with_reducible apply within_step (triggerTick_within _); decide)
    | (with_reducible apply within_step (trimCompletes_within _); decide)
    | split

theorem closeOnce_within (s : State) (mismatched : List QuillIx) (votes : List (QuillIx × Vote)) :
    Within [.clock, .units, .quills, .eic, .raises, .blotter, .pool, .co, .scribe, .posted] s (closeOnce s mismatched votes) := by
  unfold closeOnce
  repeat' first
    | with_reducible apply within_refl
    | with_reducible assumption
    | (with_reducible apply within_ite <;> intro _)
    | (extract_lets +onlyGivenNames u
       first
       | (refine within_cut (v := u) ?_ ?_
          all_goals (first | (with_reducible intro hu; revert hu; clear_value u; intro hu) | subst u))
       | clear_value u
       | subst u)
    | (with_reducible apply within_step (closeFrame_within _ _ _); decide)
    | (with_reducible apply within_step (endCmd_within _ _ _ _ _); decide)
    | (with_reducible apply within_step (frameTriggerClose_within _); decide)
    | (with_reducible apply within_step (modFolio_keeps_rest _ _ ?hk); (case hk => first | with_reducible rfl | (simp only [inForce]; done) | ((try dsimp only); (repeat' split) <;> with_reducible rfl)); decide)
    | (with_reducible apply within_step (modFolio_within _ _); decide)
    | (with_reducible apply within_step (modTime_keeps_clock _ _ ?hk); (case hk => first | with_reducible rfl | (simp only [clockOf]; done) | ((try dsimp only); (repeat' split) <;> with_reducible rfl)); decide)
    | (with_reducible apply within_step (modTime_keeps_rest _ _ ?hk); (case hk => first | with_reducible rfl | (simp only [restOfTime]; done) | ((try dsimp only); (repeat' split) <;> with_reducible rfl)); decide)
    | (with_reducible apply within_step (modTime_within _ _); decide)
    | (with_reducible apply within_step (setHeadPhase_within _ _); decide)
    | split
    | (intro k hk; cases k <;> first | exact absurd (by decide) hk | exact hu _ hk | rfl | exact ⟨rfl, rfl⟩ | exact ⟨rfl, rfl, rfl, rfl⟩)

theorem startNow_within (s : State) :
    Within [.clock, .time, .folio, .units, .quills, .inboxes, .nibs, .nibSetup, .links, .streams, .trackers, .channels, .comparators, .adc, .counters, .eic, .raises, .blotter, .cells, .ink, .dma, .pool, .co, .scribe, .power, .host, .reflexDue, .posted] s (startNow s) := by
  unfold startNow
  repeat' first
    | with_reducible apply within_refl
    | with_reducible assumption
    | (with_reducible apply within_ite <;> intro _)
    | (extract_lets +onlyGivenNames u
       first
       | (refine within_cut (v := u) ?_ ?_
          all_goals (first | (with_reducible intro hu; revert hu; clear_value u; intro hu) | subst u))
       | clear_value u
       | subst u)
    | (with_reducible apply within_step (endCmd_within _ _ _ _ _); decide)
    | (with_reducible apply within_step (startFolio_within _); decide)
    | split

theorem setTb_within (s : State) :
    Within [.clock, .time, .inboxes, .nibs, .nibSetup, .links, .streams, .channels, .comparators, .adc, .eic, .raises, .blotter, .ink, .co, .scribe, .power, .posted] s (setTb s) := by
  unfold setTb
  repeat' first
    | with_reducible apply within_refl
    | with_reducible assumption
    | (with_reducible apply within_ite <;> intro _)
    | (extract_lets +onlyGivenNames u
       first
       | (refine within_cut (v := u) ?_ ?_
          all_goals (first | (with_reducible intro hu; revert hu; clear_value u; intro hu) | subst u))
       | clear_value u
       | subst u)
    | (with_reducible apply within_step (endCmd_within _ _ _ _ _); decide)
    | (with_reducible apply within_step (modTime_keeps_clock _ _ ?hk); (case hk => first | with_reducible rfl | (simp only [clockOf]; done) | ((try dsimp only); (repeat' split) <;> with_reducible rfl)); decide)
    | (with_reducible apply within_step (modTime_keeps_rest _ _ ?hk); (case hk => first | with_reducible rfl | (simp only [restOfTime]; done) | ((try dsimp only); (repeat' split) <;> with_reducible rfl)); decide)
    | (with_reducible apply within_step (modTime_within _ _); decide)
    | (with_reducible apply within_step (tbSteps_within _ _); decide)
    | split

theorem afterTick_within (s : State) :
    Within [.clock, .time, .folio, .units, .quills, .inboxes, .nibs, .nibSetup, .links, .streams, .trackers, .tickTrackers, .channels, .comparators, .adc, .counters, .eic, .raises, .blotter, .cells, .ink, .dma, .pool, .co, .scribe, .power, .host, .reflexDue, .posted, .latches, .free] s (afterTick s) := by
  unfold afterTick
  repeat' first
    | with_reducible apply within_refl
    | with_reducible assumption
    | (with_reducible apply within_ite <;> intro _)
    | (extract_lets +onlyGivenNames u
       first
       | (refine within_cut (v := u) ?_ ?_
          all_goals (first | (with_reducible intro hu; revert hu; clear_value u; intro hu) | subst u))
       | clear_value u
       | subst u)
    | (with_reducible apply within_step (runTick_within _ _); decide)
    | (with_reducible apply within_step (setTb_within _); decide)
    | (with_reducible apply within_step (settle_within _); decide)
    | (with_reducible apply within_step (startNow_within _); decide)
    | split

end Sys2Proof.Machine
end

