-- ==== Sys2Proof/Laws/PartsPortB.lean ====
section
/-! SUPPORT. The parts of the state that each operation of Machine/PortB.lean can change. -/
namespace Sys2Proof.Machine

theorem jobWord_within (s : State) (j : Bar4Job) :
    Within [.raises, .blotter, .cells, .ink, .co] s (jobWord s j).1 := by
  unfold jobWord
  repeat' first
    | with_reducible apply within_refl
    | with_reducible assumption
    | (extract_lets +onlyGivenNames u
       first
       | (refine within_cut (v := u) ?_ ?_
          all_goals (first | (with_reducible intro hu; revert hu; clear_value u; intro hu) | subst u))
       | clear_value u
       | subst u)
    | (with_reducible apply within_step (inkReadBy_within _ _ _ _); decide)
    | (with_reducible apply within_snd (inkReadBy_within _ _ _ _); with_reducible assumption; decide)
    | (with_reducible apply within_step (inkWriteBy_within _ _ _ _ _ _); decide)
    | split

theorem jobAnswers_within (s : State) (j : Bar4Job) :
    Within [.host, .reads] s (jobAnswers s j) := by
  unfold jobAnswers
  repeat' first
    | with_reducible apply within_refl
    | with_reducible assumption
    | (with_reducible apply within_ite <;> intro _)
    | (extract_lets +onlyGivenNames u
       first
       | (refine within_cut (v := u) ?_ ?_
          all_goals (first | (with_reducible intro hu; revert hu; clear_value u; intro hu) | subst u))
       | clear_value u
       | subst u)
    | (with_reducible apply within_step (modHost_within _ _); decide)
    | split
    | (intro k hk; cases k <;> first | exact absurd (by decide) hk | exact hu _ hk | rfl | exact ⟨rfl, rfl⟩ | exact ⟨rfl, rfl, rfl, rfl⟩)

theorem jobGoesOn_within (s : State) (p : Path) :
    Within [.raises, .blotter, .cells, .ink, .co, .host, .reads] s (jobGoesOn s p) := by
  unfold jobGoesOn
  repeat' first
    | with_reducible apply within_refl
    | with_reducible assumption
    | (with_reducible apply within_ite <;> intro _)
    | (extract_lets +onlyGivenNames u
       first
       | (refine within_cut (v := u) ?_ ?_
          all_goals (first | (with_reducible intro hu; revert hu; clear_value u; intro hu) | subst u))
       | clear_value u
       | subst u)
    | (with_reducible apply within_step (jobAnswers_within _ _); decide)
    | (with_reducible apply within_step (jobWord_within _ _); decide)
    | (with_reducible apply within_fst (jobWord_within _ _); with_reducible assumption; decide)
    | (with_reducible apply within_step (modHost_within _ _); decide)
    | split

theorem startJob_within (s : State) (j : Bar4Job) :
    Within [.raises, .blotter, .cells, .ink, .co, .host, .reads] s (startJob s j) := by
  unfold startJob
  repeat' first
    | with_reducible apply within_refl
    | with_reducible assumption
    | (with_reducible apply within_ite <;> intro _)
    | (extract_lets +onlyGivenNames u
       first
       | (refine within_cut (v := u) ?_ ?_
          all_goals (first | (with_reducible intro hu; revert hu; clear_value u; intro hu) | subst u))
       | clear_value u
       | subst u)
    | (with_reducible apply within_step (jobGoesOn_within _ _); decide)
    | (with_reducible apply within_step (modHost_within _ _); decide)
    | split

theorem waitJob_within (s : State) (p : Path) :
    Within [.host] s (waitJob s p) := by
  unfold waitJob
  repeat' first
    | with_reducible apply within_refl
    | with_reducible assumption
    | (with_reducible apply within_step (modHost_within _ _); decide)
    | split

theorem noteWait_within (s : State) (m : Nat) (b : InkIx) :
    Within [.ink, .dma, .host] s (noteWait s m b) := by
  unfold noteWait
  repeat' first
    | with_reducible apply within_refl
    | with_reducible assumption
    | (with_reducible apply within_ite <;> intro _)
    | (with_reducible apply within_step (modBank_within _ _ _); decide)
    | (with_reducible apply within_step (modDma_within _ _); decide)
    | (with_reducible apply within_step (waitJob_within _ _); decide)
    | split

theorem portEdge_within (s : State) :
    Within [.streams, .eic, .raises, .blotter, .cells, .ink, .dma, .co, .host, .posted, .reads] s (portEdge s) := by
  unfold portEdge
  repeat' first
    | with_reducible apply within_refl
    | with_reducible assumption
    | (with_reducible apply within_ite <;> intro _)
    | (extract_lets +onlyGivenNames u
       first
       | (refine within_cut (v := u) ?_ ?_
          all_goals (first | (with_reducible intro hu; revert hu; clear_value u; intro hu) | subst u))
       | clear_value u
       | subst u)
    | (with_reducible apply within_step (beat_within _ _); decide)
    | (with_reducible apply within_step (jobGoesOn_within _ _); decide)
    | (with_reducible apply within_step (modInk_keeps_cells _ _ ?hk); (case hk => first | with_reducible rfl | ((try dsimp only); (repeat' split) <;> with_reducible rfl)); decide)
    | (with_reducible apply within_step (noteWait_within _ _ _); decide)
    | (with_reducible apply within_forAll; intro _ _)
    | split

end Sys2Proof.Machine
end

