-- ==== Sys2Proof/Laws/PartsAccess.lean ====
section
/-! SUPPORT. The parts of the state that each operation of Machine/Access.lean can change. -/
namespace Sys2Proof.Machine

theorem reach_acts {ps : List Part} (s : State) (p : Path) {f : State → State}
    (hp : [.time, .inboxes, .nibs, .nibSetup, .links, .safeLow, .streams, .eic, .raises, .blotter, .ink, .co, .scribe, .mode, .power, .host, .reflexDue] ⊆ ps) (g : ∀ u, Within ps u (f u)) : Acts ps s (reach s p f) := by
  unfold reach
  split
  · exact acts_refl _ _
  · split
    · exact .inr (g _)
    · exact .inl (within_step (g _) (List.Subset.refl _) (within_mono (wakeSleep_within _ _) hp))
    · exact acts_refl _ _
    · exact acts_refl _ _
    · exact acts_refl _ _

theorem regTransfer_within (p : Path) (read : Bool) (s : State) :
    Within [.raises, .blotter] s (regTransfer p read s) := by
  unfold regTransfer
  repeat' first
    | with_reducible apply within_refl
    | with_reducible assumption
    | (with_reducible apply within_ite <;> intro _)
    | (extract_lets +onlyGivenNames u
       first
       | (refine within_cut (v := u) ?_ ?_
          all_goals (first | (with_reducible intro hu; revert hu; clear_value u; intro hu) | subst u))
       | clear_value u
       | subst u)
    | (with_reducible apply within_step (busTransfer_within _ _); decide)
    | (with_reducible apply within_step (regBlockRead_within _); decide)
    | split

theorem access_acts {ps : List Part} (s : State) (p : Path) {f : State → State}
    (hp : [.time, .inboxes, .nibs, .nibSetup, .links, .safeLow, .streams, .eic, .raises, .blotter, .ink, .co, .scribe, .mode, .power, .host, .reflexDue] ⊆ ps) (g : ∀ u, Within ps u (f u)) : Acts ps s (access s p f) := by
  unfold access
  exact reach_acts _ _ (List.Subset.trans (by decide) hp) fun u => within_step (g _) (List.Subset.refl _)
    (within_mono (regTransfer_within _ _ _) (List.Subset.trans (by decide) hp))

theorem accessRead_acts {ps : List Part} (s : State) (p : Path) {f : State → Word × State}
    (hp : [.time, .inboxes, .nibs, .nibSetup, .links, .safeLow, .streams, .eic, .raises, .blotter, .ink, .co, .scribe, .mode, .power, .host, .reflexDue, .reads] ⊆ ps) (g : ∀ u, Within ps u (f u).2) : Acts ps s (accessRead s p f) := by
  unfold accessRead
  have hr : ∀ u v, Within ps u (setRead u p v) := fun u v =>
    within_mono (setRead_within _ _ _) (List.Subset.trans (by decide) hp)
  split
  · split
    · exact .inl (hr _ _)
    · exact acts_refl _ _
  · refine reach_acts _ _ (List.Subset.trans (by decide) hp) fun u => ?_
    exact within_step (hr _ _) (List.Subset.refl _) (within_step (g _) (List.Subset.refl _)
      (within_mono (regTransfer_within _ _ _) (List.Subset.trans (by decide) hp)))

theorem accessUnit_acts {ps : List Part} (s : State) (p : Path) (k : UnitType) (i : Nat) {g : State → State}
    (hp : [.time, .inboxes, .nibs, .nibSetup, .links, .safeLow, .streams, .eic, .raises, .blotter, .ink, .co, .scribe, .mode, .power, .host, .reflexDue] ⊆ ps) (h : ∀ u, Within ps u (g u)) : Acts ps s (accessUnit s p k i g) := by
  unfold accessUnit
  refine access_acts _ _ hp fun u => ?_
  unfold ifBound
  exact within_ite (fun _ => h _) (fun _ => within_refl _ _)

theorem pathRead_acts (s : State) (p : Path) (addr : Nat) : Acts [.time, .quills, .inboxes, .nibs, .nibSetup, .links, .safeLow, .streams, .trackers, .channels, .comparators, .adc, .eic, .raises, .blotter, .ink, .co, .scribe, .mode, .power, .host, .reflexDue, .latches, .reads] s (pathRead s p addr) := by
  unfold pathRead
  split
  · exact .inl (within_step (setRead_within _ _ _) (by decide) (within_mono (busRead_within _ _ _) (by decide)))
  · exact accessRead_acts _ _ (by decide) fun _ => within_mono (busRead_within _ _ _) (by decide)

theorem pathWrite_acts (s : State) (p : Path) (addr : Nat) (v : Word) :
    Acts [.time, .units, .quills, .inboxes, .nibs, .nibSetup, .links, .safeLow, .streams, .trackers, .channels, .comparators, .adc, .counters, .eic, .raises, .blotter, .ink, .dma, .co, .scribe, .mode, .power, .host, .reflexDue, .posted, .latches] s (pathWrite s p addr v) := by
  unfold pathWrite
  split
  · exact .inl (within_mono (busWrite_within _ _ _ _) (by decide))
  · exact access_acts _ _ (by decide) fun _ => within_mono (busWrite_within _ _ _ _) (by decide)

theorem spTransfer_within (p : Path) (s : State) :
    Within [.raises, .blotter] s (spTransfer p s) := by
  unfold spTransfer
  repeat' first
    | with_reducible apply within_refl
    | with_reducible assumption
    | (with_reducible apply within_ite <;> intro _)
    | (with_reducible apply within_step (busTransfer_within _ _); decide)
    | split

theorem bar4Begin_acts (s : State) (p : Path) (addr len : Nat) (frame : Option Word) :
    Acts [.time, .inboxes, .nibs, .nibSetup, .links, .safeLow, .streams, .eic, .raises, .blotter, .cells, .ink, .co, .scribe, .mode, .power, .host, .reflexDue, .reads] s (bar4Begin s p addr len frame) := by
  unfold bar4Begin
  exact reach_acts _ _ (by decide) fun _ => within_step (startJob_within _ _) (by decide)
    (within_step (modHost_within _ _) (by decide) (within_mono (spTransfer_within _ _) (by decide)))

theorem bar4Get_acts (s : State) (p : Path) (addr len : Nat) : Acts [.time, .inboxes, .nibs, .nibSetup, .links, .safeLow, .streams, .eic, .raises, .blotter, .cells, .ink, .co, .scribe, .mode, .power, .host, .reflexDue, .reads] s (bar4Get s p addr len) := by
  unfold bar4Get
  split
  · exact acts_refl _ _
  · split
    · split
      · exact .inl fun k hk => by cases k <;> first | exact absurd (by decide) hk | rfl | exact ⟨rfl, rfl⟩
      · exact acts_refl _ _
    · exact acts_mono (bar4Begin_acts _ _ _ _ _) (by decide)

theorem bar4Put_acts (s : State) (p : Path) (addr : Nat) (data : List (Option Byte)) :
    Acts [.time, .inboxes, .nibs, .nibSetup, .links, .safeLow, .streams, .eic, .raises, .blotter, .cells, .ink, .co, .scribe, .mode, .power, .host, .reflexDue, .reads] s (bar4Put s p addr data) := by
  unfold bar4Put
  dsimp only
  split
  · exact acts_refl _ _
  · exact reach_acts _ _ (by decide) fun _ => within_step (startJob_within _ _) (by decide)
      (within_mono (spTransfer_within _ _) (by decide))

end Sys2Proof.Machine
end

