-- ==== Sys2Proof/Laws/PartsHostPort.lean ====
section
/-! SUPPORT. The parts of the state that each operation of Machine/HostPort.lean can change. -/
namespace Sys2Proof.Machine

theorem noteAccessErr_within (s : State) (bit : Nat) :
    Within [.host] s (noteAccessErr s bit) := by
  unfold noteAccessErr
  repeat' first
    | with_reducible apply within_refl
    | with_reducible assumption
    | (with_reducible apply within_step (modHost_within _ _); decide)
    | split

theorem refuseBar0_within (s : State) (addr : Word) (write : Bool) (dws : Nat) :
    Within [.host] s (refuseBar0 s addr write dws) := by
  unfold refuseBar0
  repeat' first
    | with_reducible apply within_refl
    | with_reducible assumption
    | (with_reducible apply within_step (modHost_within _ _); decide)
    | (with_reducible apply within_step (noteAccessErr_within _ _); decide)
    | split

theorem spEnd_within (s : State) (asleep done busy err : Bool) (data : Word) :
    Within [.host] s (spEnd s asleep done busy err data) := by
  unfold spEnd
  repeat' first
    | with_reducible apply within_refl
    | with_reducible assumption
    | (with_reducible apply within_step (modHost_within _ _); decide)
    | split

theorem spError_within (s : State) (asleep : Bool) (addr : Option Word) :
    Within [.host] s (spError s asleep addr) := by
  unfold spError
  repeat' first
    | with_reducible apply within_refl
    | with_reducible assumption
    | (extract_lets +onlyGivenNames u
       first
       | (refine within_cut (v := u) ?_ ?_
          all_goals (first | (with_reducible intro hu; revert hu; clear_value u; intro hu) | subst u))
       | clear_value u
       | subst u)
    | (with_reducible apply within_step (modHost_within _ _); decide)
    | (with_reducible apply within_step (noteAccessErr_within _ _); decide)
    | (with_reducible apply within_step (spEnd_within _ _ _ _ _ _); decide)
    | split

theorem countFrame_within (s : State) :
    Within [.host] s (countFrame s) := by
  unfold countFrame
  repeat' first
    | with_reducible apply within_refl
    | with_reducible assumption
    | (with_reducible apply within_step (modHost_within _ _); decide)
    | split

theorem spHold_within (s : State) (addr v : Word) :
    Within [.host] s (spHold s addr v) := by
  unfold spHold
  repeat' first
    | with_reducible apply within_refl
    | with_reducible assumption
    | (with_reducible apply within_step (modHost_within _ _); decide)
    | split

theorem spGet_acts (s : State) (addr : Word) (t : SpTarget) : Acts [.time, .quills, .inboxes, .nibs, .nibSetup, .links, .safeLow, .streams, .trackers, .channels, .comparators, .adc, .eic, .raises, .blotter, .cells, .ink, .co, .scribe, .mode, .power, .host, .reflexDue, .latches, .reads] s (spGet s addr t) := by
  unfold spGet
  split
  · exact acts_step (spHold_within _ _ _) (by decide) (acts_mono (pathRead_acts _ _ _) (by decide))
  · split
    · exact .inl (within_mono (spHold_within _ _ _) (by decide))
    · split
      · exact acts_refl _ _
      · exact acts_mono (bar4Begin_acts _ _ _ _ _) (by decide)

theorem spAnswer_within (s : State) (asleep : Bool) :
    Within [.host, .reads] s (spAnswer s asleep) := by
  unfold spAnswer
  repeat' first
    | with_reducible apply within_refl
    | with_reducible assumption
    | (with_reducible apply within_ite <;> intro _)
    | (with_reducible apply within_step (modHost_within _ _); decide)
    | (with_reducible apply within_step (setRead_within _ _ _); decide)
    | (with_reducible apply within_step (spEnd_within _ _ _ _ _ _); decide)
    | split

theorem spPut_acts (s : State) (t : SpTarget) (v : Word) : Acts [.time, .units, .quills, .inboxes, .nibs, .nibSetup, .links, .safeLow, .streams, .trackers, .channels, .comparators, .adc, .counters, .eic, .raises, .blotter, .cells, .ink, .dma, .co, .scribe, .mode, .power, .host, .reflexDue, .posted, .latches, .reads] s (spPut s t v) := by
  unfold spPut
  split
  · exact acts_mono (pathWrite_acts _ _ _ _) (by decide)
  · exact acts_mono (bar4Put_acts _ _ _ _) (by decide)

theorem spWriteFrame_acts (s : State) (addr v : Word) : Acts [.time, .units, .quills, .inboxes, .nibs, .nibSetup, .links, .safeLow, .streams, .trackers, .channels, .comparators, .adc, .counters, .eic, .raises, .blotter, .cells, .ink, .dma, .co, .scribe, .mode, .power, .host, .reflexDue, .posted, .latches, .reads] s (spWriteFrame s addr v) := by
  unfold spWriteFrame
  dsimp only
  split
  · exact acts_refl _ _
  · split
    · exact .inl (within_mono (spEnd_within _ _ _ _ _ _) (by decide))
    · split
      · exact .inl (within_mono (spError_within _ _ _) (by decide))
      · exact acts_step (spEnd_within _ _ _ _ _ _) (by decide) (acts_step (countFrame_within _) (by decide)
          (acts_mono (spPut_acts _ _ _) (by decide)))

theorem spReadFrame_acts (s : State) (addr : Word) : Acts [.time, .quills, .inboxes, .nibs, .nibSetup, .links, .safeLow, .streams, .trackers, .channels, .comparators, .adc, .eic, .raises, .blotter, .cells, .ink, .co, .scribe, .mode, .power, .host, .reflexDue, .latches, .reads] s (spReadFrame s addr) := by
  unfold spReadFrame
  dsimp only
  split
  · exact acts_refl _ _
  · split
    · exact .inl (within_mono (spEnd_within _ _ _ _ _ _) (by decide))
    · split
      · exact .inl (within_mono (spError_within _ _ _) (by decide))
      · split
        · exact .inl (within_step (spAnswer_within _ _) (by decide) (within_step (modHost_within _ _) (by decide)
            (within_step (countFrame_within _) (by decide) (within_mono (wakeSleep_within _ _) (by decide)))))
        · exact acts_step (spAnswer_within _ _) (by decide) (acts_step (countFrame_within _) (by decide)
            (acts_mono (spGet_acts _ _ _) (by decide)))

theorem spFetchFrame_within (s : State) :
    Within [.host, .reads] s (spFetchFrame s) := by
  unfold spFetchFrame
  repeat' first
    | with_reducible apply within_refl
    | with_reducible assumption
    | (with_reducible apply within_ite <;> intro _)
    | (extract_lets +onlyGivenNames u
       first
       | (refine within_cut (v := u) ?_ ?_
          all_goals (first | (with_reducible intro hu; revert hu; clear_value u; intro hu) | subst u))
       | clear_value u
       | subst u)
    | (with_reducible apply within_step (spAnswer_within _ _); decide)
    | (with_reducible apply within_step (spError_within _ _ _); decide)
    | split

theorem setScan_within (s : State) (code : Byte) :
    Within [.host] s (setScan s code) := by
  unfold setScan
  repeat' first
    | with_reducible apply within_refl
    | with_reducible assumption
    | (with_reducible apply within_step (modHost_within _ _); decide)
    | split

theorem boundaryScan_within (s : State) (code : Byte) :
    Within [.host] s (boundaryScan s code) := by
  unfold boundaryScan
  repeat' first
    | with_reducible apply within_refl
    | with_reducible assumption
    | (with_reducible apply within_ite <;> intro _)
    | (with_reducible apply within_step (modHost_within _ _); decide)
    | (with_reducible apply within_step (setScan_within _ _); decide)
    | split

theorem privateScan_within {ps : List Part} {s t : State} {code : Byte} {f : State → State}
    (hp : [.host] ⊆ ps) (g : ∀ u, Within ps u (f u)) (h : Within ps s t) :
    Within ps s (privateScan t code f) := by
  refine within_step ?_ (List.Subset.refl _) h
  unfold privateScan
  split
  · exact within_refl _ _
  · split
    · exact within_step (modHost_within _ _) hp (within_mono (setScan_within _ _) hp)
    · exact within_step (g _) (List.Subset.refl _) (within_mono (setScan_within _ _) hp)

theorem haltDevice_within (s : State) :
    Within [.clock, .time, .host] s (haltDevice s) := by
  unfold haltDevice
  repeat' first
    | with_reducible apply within_refl
    | with_reducible assumption
    | (with_reducible apply within_ite <;> intro _)
    | (extract_lets +onlyGivenNames u
       first
       | (refine within_cut (v := u) ?_ ?_
          all_goals (first | (with_reducible intro hu; revert hu; clear_value u; intro hu) | subst u))
       | clear_value u
       | subst u)
    | (with_reducible apply within_step (modHost_within _ _); decide)
    | (with_reducible apply within_step (modTime_keeps_clock _ _ ?hk); (case hk => first | with_reducible rfl | (simp only [clockOf]; done) | ((try dsimp only); (repeat' split) <;> with_reducible rfl)); decide)
    | (with_reducible apply within_step (modTime_keeps_rest _ _ ?hk); (case hk => first | with_reducible rfl | (simp only [restOfTime]; done) | ((try dsimp only); (repeat' split) <;> with_reducible rfl)); decide)
    | (with_reducible apply within_step (modTime_within _ _); decide)
    | split
    | (intro k hk; cases k <;> first | exact absurd (by decide) hk | exact hu _ hk | rfl | exact ⟨rfl, rfl⟩ | exact ⟨rfl, rfl, rfl, rfl⟩)

theorem resumeDevice_within (s : State) :
    Within [.time, .host] s (resumeDevice s) := by
  unfold resumeDevice
  repeat' first
    | with_reducible apply within_refl
    | with_reducible assumption
    | (with_reducible apply within_ite <;> intro _)
    | (extract_lets +onlyGivenNames u
       first
       | (refine within_cut (v := u) ?_ ?_
          all_goals (first | (with_reducible intro hu; revert hu; clear_value u; intro hu) | subst u))
       | clear_value u
       | subst u)
    | (with_reducible apply within_step (modHost_within _ _); decide)
    | (with_reducible apply within_step (modTime_keeps_clock _ _ ?hk); (case hk => first | with_reducible rfl | (simp only [clockOf]; done) | ((try dsimp only); (repeat' split) <;> with_reducible rfl)); decide)
    | split
    | (intro k hk; cases k <;> first | exact absurd (by decide) hk | exact hu _ hk | rfl | exact ⟨rfl, rfl⟩ | exact ⟨rfl, rfl, rfl, rfl⟩)

end Sys2Proof.Machine
end

