-- ==== Sys2Proof/Laws/PartsScribe.lean ====
section
/-! SUPPORT. The parts of the state that each operation of Machine/Scribe.lean can change. -/
namespace Sys2Proof.Machine

theorem badField_within (s : State) (off : Nat) :
    Within [.eic, .scribe, .posted] s (badField s off) := by
  unfold badField
  repeat' first
    | with_reducible apply within_refl
    | with_reducible assumption
    | (with_reducible apply within_step (endCmd_within _ _ _ _ _); decide)

theorem badState_within (s : State) (code : Nat) :
    Within [.eic, .scribe, .posted] s (badState s code) := by
  unfold badState
  repeat' first
    | with_reducible apply within_refl
    | with_reducible assumption
    | (with_reducible apply within_step (endCmd_within _ _ _ _ _); decide)

theorem badImage_within (s : State) (code off : Nat) :
    Within [.eic, .scribe, .posted] s (badImage s code off) := by
  unfold badImage
  repeat' first
    | with_reducible apply within_refl
    | with_reducible assumption
    | (with_reducible apply within_step (endCmd_within _ _ _ _ _); decide)

theorem endWith_within (s : State) (r0 : Nat) (r1 : Nat) :
    Within [.eic, .scribe, .posted] s (endWith s r0 r1) := by
  unfold endWith
  repeat' first
    | with_reducible apply within_refl
    | with_reducible assumption
    | (with_reducible apply within_step (endCmd_within _ _ _ _ _); decide)

theorem withImage_within {ps : List Part} {s t : State} {b : BitVec 512} {image : List Byte} {f : Bytes → State}
    (hp : [.eic, .scribe, .posted] ⊆ ps) (g : ∀ x, Within ps s (f x)) (h : Within ps s t) :
    Within ps s (withImage t b image f) := by
  unfold withImage
  split
  · exact within_step (endCmd_within _ _ _ _ _) hp h
  · split
    · exact within_step (endCmd_within _ _ _ _ _) hp h
    · exact g _

theorem readUnitDir_within (s : State) (b : BitVec 512) :
    Within [.eic, .scribe, .posted] s (readUnitDir s b) := by
  unfold readUnitDir
  repeat' first
    | with_reducible apply within_refl
    | with_reducible assumption
    | (with_reducible apply within_ite <;> intro _)
    | (extract_lets +onlyGivenNames u
       first
       | (refine within_cut (v := u) ?_ ?_
          all_goals (first | (with_reducible intro hu; revert hu; clear_value u; intro hu) | subst u))
       | clear_value u
       | subst u)
    | (with_reducible apply within_step (badField_within _ _); decide)
    | (with_reducible apply within_step (endReport_within _ _ _ _ _); decide)
    | split

theorem loadFolio_within (s : State) (b : BitVec 512) (image : List Byte) :
    Within [.time, .folio, .units, .quills, .inboxes, .stores, .nibs, .nibSetup, .links, .streams, .trackers, .tickTrackers, .channels, .comparators, .adc, .counters, .eic, .raises, .blotter, .cells, .ink, .dma, .pool, .co, .scribe, .power, .host, .reflexDue, .posted, .latches] s (loadFolio s b image) := by
  unfold loadFolio
  repeat' first
    | with_reducible apply within_refl
    | with_reducible assumption
    | (with_reducible apply within_ite <;> intro _)
    | (with_reducible apply within_step (badImage_within _ _ _); decide)
    | (with_reducible apply within_step (badState_within _ _); decide)
    | (with_reducible apply within_step (endWith_within _ _ _); decide)
    | (with_reducible apply within_step (loadImage_within _ _); decide)
    | (with_reducible apply within_fst (loadImage_within _ _); with_reducible assumption; decide)
    | (with_reducible apply withImage_within; decide; intro _)
    | split

theorem verifyFolio_within (s : State) (b : BitVec 512) (image : List Byte) :
    Within [.eic, .scribe, .posted] s (verifyFolio s b image) := by
  unfold verifyFolio
  repeat' first
    | with_reducible apply within_refl
    | with_reducible assumption
    | (with_reducible apply within_step (badImage_within _ _ _); decide)
    | (with_reducible apply within_step (endCmd_within _ _ _ _ _); decide)
    | (with_reducible apply withImage_within; decide; intro _)
    | split

theorem startCommand_within (s : State) (b : BitVec 512) :
    Within [.units, .eic, .scribe, .posted] s (startCommand s b) := by
  unfold startCommand
  repeat' first
    | with_reducible apply within_refl
    | with_reducible assumption
    | (with_reducible apply within_ite <;> intro _)
    | (extract_lets +onlyGivenNames u
       first
       | (refine within_cut (v := u) ?_ ?_
          all_goals (first | (with_reducible intro hu; revert hu; clear_value u; intro hu) | subst u))
       | clear_value u
       | subst u)
    | (with_reducible apply within_step (badField_within _ _); decide)
    | (with_reducible apply within_step (badImage_within _ _ _); decide)
    | (with_reducible apply within_step (badState_within _ _); decide)
    | (with_reducible apply within_step (endCmd_within _ _ _ _ _); decide)
    | (with_reducible apply within_step (modFolio_keeps_rest _ _ ?hk); (case hk => first | with_reducible rfl | (simp only [inForce]; done) | ((try dsimp only); (repeat' split) <;> with_reducible rfl)); decide)
    | (with_reducible apply within_step (modFolio_within _ _); decide)
    | (with_reducible apply within_step (setHeadPhase_within _ _); decide)
    | split

theorem stageCommand_within (s : State) (b : BitVec 512) (image : List Byte) :
    Within [.quills, .inboxes, .stores, .eic, .raises, .blotter, .cells, .ink, .pool, .co, .scribe, .posted] s (stageCommand s b image) := by
  unfold stageCommand
  repeat' first
    | with_reducible apply within_refl
    | with_reducible assumption
    | (with_reducible apply within_ite <;> intro _)
    | (with_reducible apply within_step (badImage_within _ _ _); decide)
    | (with_reducible apply within_step (badState_within _ _); decide)
    | (with_reducible apply within_step (endWith_within _ _ _); decide)
    | (with_reducible apply within_step (stageLeaf_within _ _); decide)
    | (with_reducible apply within_fst (stageLeaf_within _ _); with_reducible assumption; decide)
    | (with_reducible apply withImage_within; decide; intro _)
    | split

theorem discardStaged_within (s : State) :
    Within [.quills, .eic, .pool, .co, .scribe, .posted] s (discardStaged s) := by
  unfold discardStaged
  repeat' first
    | with_reducible apply within_refl
    | with_reducible assumption
    | (with_reducible apply within_ite <;> intro _)
    | (with_reducible apply within_step (badState_within _ _); decide)
    | (with_reducible apply within_step (endWith_within _ _ _); decide)
    | (with_reducible apply within_step (releaseStaged_within _ _); decide)
    | split

theorem armTrigger_within (s : State) (b : BitVec 512) :
    Within [.co, .scribe] s (armTrigger s b) := by
  unfold armTrigger
  repeat' first
    | with_reducible apply within_refl
    | with_reducible assumption
    | (with_reducible apply within_ite <;> intro _)
    | (extract_lets +onlyGivenNames u
       first
       | (refine within_cut (v := u) ?_ ?_
          all_goals (first | (with_reducible intro hu; revert hu; clear_value u; intro hu) | subst u))
       | clear_value u
       | subst u)
    | (with_reducible apply within_step (modCo_within _ _); decide)
    | (with_reducible apply within_step (setHeadPhase_within _ _); decide)
    | split

theorem changeoverCommand_within (s : State) (b : BitVec 512) :
    Within [.eic, .co, .scribe, .posted] s (changeoverCommand s b) := by
  unfold changeoverCommand
  repeat' first
    | with_reducible apply within_refl
    | with_reducible assumption
    | (with_reducible apply within_ite <;> intro _)
    | (with_reducible apply within_step (armTrigger_within _ _); decide)
    | (with_reducible apply within_step (badField_within _ _); decide)
    | (with_reducible apply within_step (badState_within _ _); decide)
    | (with_reducible apply within_step (disarm_within _ _); decide)
    | (with_reducible apply within_step (endCmd_within _ _ _ _ _); decide)
    | split

theorem marchDestroy_within (s : State) (b : BitVec 512) :
    Within [.eic, .raises, .blotter, .cells, .ink, .co, .scribe, .posted] s (marchDestroy s b) := by
  unfold marchDestroy
  repeat' first
    | with_reducible apply within_refl
    | with_reducible assumption
    | (with_reducible apply within_ite <;> intro _)
    | (extract_lets +onlyGivenNames u
       first
       | (refine within_cut (v := u) ?_ ?_
          all_goals (first | (with_reducible intro hu; revert hu; clear_value u; intro hu) | subst u))
       | clear_value u
       | subst u)
    | (with_reducible apply within_step (badState_within _ _); decide)
    | (with_reducible apply within_step (carryWord_within _ _ _ _); decide)
    | (with_reducible apply within_step (destroyBegin_within _ _); decide)
    | (with_reducible apply within_step (leafUnready_within _ _); decide)
    | (with_reducible apply within_step (setHeadPhase_within _ _); decide)
    | (with_reducible apply within_forAll; intro _ _)
    | split

theorem marchCommand_within {ps : List Part} {s t f : State} {b : BitVec 512} {op : Nat}
    (hp : [.eic, .scribe, .posted] ⊆ ps) (g : Within ps s f) (h : Within ps s t) :
    Within ps s (marchCommand t b op f) := by
  unfold marchCommand
  dsimp only
  split
  · exact g
  · split
    · exact h
    · exact within_step (badField_within _ _) hp h

theorem destroyingTestDone_within (s : State) (pass : Bool) :
    Within [.eic, .raises, .blotter, .cells, .ink, .pool, .scribe, .posted, .free] s (destroyingTestDone s pass) := by
  unfold destroyingTestDone
  repeat' first
    | with_reducible apply within_refl
    | with_reducible assumption
    | (with_reducible apply within_ite <;> intro _)
    | (extract_lets +onlyGivenNames u
       first
       | (refine within_cut (v := u) ?_ ?_
          all_goals (first | (with_reducible intro hu; revert hu; clear_value u; intro hu) | subst u))
       | clear_value u
       | subst u)
    | (with_reducible apply within_step (destroyEnds_within _ _); decide)
    | (with_reducible apply within_step (drawFree_within _); decide)
    | (with_reducible apply within_step (endCmd_within _ _ _ _ _); decide)
    | split

theorem retireIdleQuill_within (s : State) (q : QuillIx) (p target : PhysIx) :
    Within [.quills, .stores, .raises, .blotter, .ink, .pool] s (retireIdleQuill s q p target) := by
  unfold retireIdleQuill
  repeat' first
    | with_reducible apply within_refl
    | with_reducible assumption
    | (extract_lets +onlyGivenNames u
       first
       | (refine within_cut (v := u) ?_ ?_
          all_goals (first | (with_reducible intro hu; revert hu; clear_value u; intro hu) | subst u))
       | clear_value u
       | subst u)
    | (with_reducible apply within_step (modQuill_keeps_inbox _ _ _ ?hk); (case hk => first | with_reducible rfl | (simp only [inboxOf]; done) | ((try dsimp only); (repeat' split) <;> (simp only [inboxOf]; done))); decide)
    | (with_reducible apply within_step (modQuill_within _ _ _); decide)
    | (with_reducible apply within_step (retirePhys_within _ _ _ _); decide)
    | (with_reducible apply within_step (setRole_within _ _ _); decide)
    | split
    | (intro k hk; cases k <;> first | exact absurd (by decide) hk | exact hu _ hk | rfl | exact ⟨rfl, rfl⟩ | exact ⟨rfl, rfl, rfl, rfl⟩)

theorem retireQuill_within (s : State) (p : PhysIx) :
    Within [.quills, .stores, .eic, .raises, .blotter, .ink, .pool, .co, .scribe, .posted] s (retireQuill s p).1 := by
  unfold retireQuill
  repeat' first
    | with_reducible apply within_refl
    | with_reducible assumption
    | (with_reducible apply within_ite <;> intro _)
    | (extract_lets +onlyGivenNames u
       first
       | (refine within_cut (v := u) ?_ ?_
          all_goals (first | (with_reducible intro hu; revert hu; clear_value u; intro hu) | subst u))
       | clear_value u
       | subst u)
    | (with_reducible apply within_step (leafUnready_within _ _); decide)
    | (with_reducible apply within_step (modPool_within _ _); decide)
    | (with_reducible apply within_step (retireIdleQuill_within _ _ _ _); decide)
    | (with_reducible apply within_step (retirePhys_within _ _ _ _); decide)
    | split

theorem dropTarget_within (s : State) (p : Nat) :
    Within [.ink] s (dropTarget s p) := by
  unfold dropTarget
  repeat' first
    | with_reducible apply within_refl
    | with_reducible assumption
    | (with_reducible apply within_ite <;> intro _)
    | (with_reducible apply within_step (modInk_keeps_cells _ _ ?hk); (case hk => first | with_reducible rfl | ((try dsimp only); (repeat' split) <;> with_reducible rfl)); decide)
    | split

theorem dropTest_within (s : State) (p : Nat) :
    Within [.ink] s (dropTest s p) := by
  unfold dropTest
  repeat' first
    | with_reducible apply within_refl
    | with_reducible assumption
    | (with_reducible apply within_ite <;> intro _)
    | (with_reducible apply within_step (modMarch_within _ _); decide)
    | split

theorem retireIdleBank_within (s : State) (p : Nat) :
    Within [.eic, .raises, .blotter, .ink, .pool, .co, .scribe, .posted] s (retireIdleBank s p) := by
  unfold retireIdleBank
  repeat' first
    | with_reducible apply within_refl
    | with_reducible assumption
    | (with_reducible apply within_step (dropTarget_within _ _); decide)
    | (with_reducible apply within_step (dropTest_within _ _); decide)
    | (with_reducible apply within_step (retireBank_within _ _ _ _ _); decide)
    | (with_reducible apply within_step (reviewBanks_within _); decide)
    | (with_reducible apply within_step (reviewStaged_within _); decide)

theorem retireInkBank_within (s : State) (p : Nat) :
    Within [.eic, .raises, .blotter, .ink, .pool, .co, .scribe, .posted] s (retireInkBank s p).1 := by
  unfold retireInkBank
  repeat' first
    | with_reducible apply within_refl
    | with_reducible assumption
    | (with_reducible apply within_ite <;> intro _)
    | (with_reducible apply within_step (retireIdleBank_within _ _); decide)
    | (with_reducible apply within_step (wantMigration_within _ _ _); decide)
    | split

theorem noteCell_within (s : State) (c : Nat) :
    Within [.raises, .blotter, .ink, .pool] s (noteCell s c) := by
  unfold noteCell
  repeat' first
    | with_reducible apply within_refl
    | with_reducible assumption
    | (with_reducible apply within_step (addLedger_within _ _ _ _ _); decide)
    | (with_reducible apply within_step (modPool_within _ _); decide)
    | split

theorem retireCell_within (s : State) (c : Nat) :
    Within [.nibSetup, .raises, .blotter, .ink, .pool] s (retireCell s c).1 := by
  unfold retireCell
  repeat' first
    | with_reducible apply within_refl
    | with_reducible assumption
    | (with_reducible apply within_ite <;> intro _)
    | (extract_lets +onlyGivenNames u
       first
       | (refine within_cut (v := u) ?_ ?_
          all_goals (first | (with_reducible intro hu; revert hu; clear_value u; intro hu) | subst u))
       | clear_value u
       | subst u)
    | (with_reducible apply within_step (modNib_keeps_setup _ _ _ ?hk); (case hk => first | with_reducible rfl | (simp only [setupOf]; done) | ((try dsimp only); (repeat' split) <;> (simp only [setupOf]; done))); decide)
    | (with_reducible apply within_step (modNib_keeps_doing _ _ _ ?hk); (case hk => first | with_reducible rfl | (simp only [doingOf]; done) | ((try dsimp only); (repeat' split) <;> (simp only [doingOf]; done))); decide)
    | (with_reducible apply within_step (modNib_within _ _ _); decide)
    | (with_reducible apply within_step (noteCell_within _ _); decide)
    | (with_reducible apply within_step (noteExhausted_within _ _ _); decide)
    | split

theorem noteCe_within (s : State) (c : Fin 544) :
    Within [.raises, .blotter, .ink, .pool] s (noteCe s c) := by
  unfold noteCe
  repeat' first
    | with_reducible apply within_refl
    | with_reducible assumption
    | (with_reducible apply within_step (addLedger_within _ _ _ _ _); decide)
    | (with_reducible apply within_step (modPool_within _ _); decide)
    | split

theorem retireCe_within (s : State) (c : Fin 544) :
    Within [.counters, .raises, .blotter, .ink, .pool] s (retireCe s c).1 := by
  unfold retireCe
  repeat' first
    | with_reducible apply within_refl
    | with_reducible assumption
    | (with_reducible apply within_ite <;> intro _)
    | (extract_lets +onlyGivenNames u
       first
       | (refine within_cut (v := u) ?_ ?_
          all_goals (first | (with_reducible intro hu; revert hu; clear_value u; intro hu) | subst u))
       | clear_value u
       | subst u)
    | (with_reducible apply within_step (modCe_within _ _ _); decide)
    | (with_reducible apply within_step (noteCe_within _ _); decide)
    | (with_reducible apply within_step (noteExhausted_within _ _ _); decide)
    | split

theorem retireConverter_within (s : State) (i : Nat) :
    Within [.adc, .eic, .raises, .blotter, .ink, .pool] s (retireConverter s i).1 := by
  unfold retireConverter
  repeat' first
    | with_reducible apply within_refl
    | with_reducible assumption
    | (with_reducible apply within_ite <;> intro _)
    | (extract_lets +onlyGivenNames u
       first
       | (refine within_cut (v := u) ?_ ?_
          all_goals (first | (with_reducible intro hu; revert hu; clear_value u; intro hu) | subst u))
       | clear_value u
       | subst u)
    | (with_reducible apply within_step (addLedger_within _ _ _ _ _); decide)
    | (with_reducible apply within_step (modAdc_within _ _); decide)
    | (with_reducible apply within_step (modPool_within _ _); decide)
    | (with_reducible apply within_step (noteExhausted_within _ _ _); decide)
    | (with_reducible apply within_step (raiseAdcEvent_within _ _); decide)
    | (with_reducible apply within_step (raiseFault_within _ _ _); decide)
    | split

theorem retirePll_within (s : State) (i : Nat) :
    Within [.raises, .blotter, .ink, .pool] s (retirePll s i).1 := by
  unfold retirePll
  repeat' first
    | with_reducible apply within_refl
    | with_reducible assumption
    | (with_reducible apply within_ite <;> intro _)
    | (extract_lets +onlyGivenNames u
       first
       | (refine within_cut (v := u) ?_ ?_
          all_goals (first | (with_reducible intro hu; revert hu; clear_value u; intro hu) | subst u))
       | clear_value u
       | subst u)
    | (with_reducible apply within_step (addLedger_within _ _ _ _ _); decide)
    | (with_reducible apply within_step (modPool_within _ _); decide)
    | (with_reducible apply within_step (noteExhausted_within _ _ _); decide)
    | (with_reducible apply within_step (swapPll_within _ _); decide)
    | split

theorem retireResource_within (s : State) (kind i : Nat) :
    Within [.quills, .stores, .nibSetup, .adc, .counters, .eic, .raises, .blotter, .ink, .pool, .co, .scribe, .posted] s (retireResource s kind i).1 := by
  unfold retireResource
  repeat' first
    | with_reducible apply within_refl
    | with_reducible assumption
    | (with_reducible apply within_ite <;> intro _)
    | (with_reducible apply within_dite <;> intro _)
    | (with_reducible apply within_step (retireCe_within _ _); decide)
    | (with_reducible apply within_fst (retireCe_within _ _); with_reducible assumption; decide)
    | (with_reducible apply within_step (retireCell_within _ _); decide)
    | (with_reducible apply within_fst (retireCell_within _ _); with_reducible assumption; decide)
    | (with_reducible apply within_step (retireConverter_within _ _); decide)
    | (with_reducible apply within_fst (retireConverter_within _ _); with_reducible assumption; decide)
    | (with_reducible apply within_step (retireInkBank_within _ _); decide)
    | (with_reducible apply within_fst (retireInkBank_within _ _); with_reducible assumption; decide)
    | (with_reducible apply within_step (retirePll_within _ _); decide)
    | (with_reducible apply within_fst (retirePll_within _ _); with_reducible assumption; decide)
    | (with_reducible apply within_step (retireQuill_within _ _); decide)
    | (with_reducible apply within_fst (retireQuill_within _ _); with_reducible assumption; decide)
    | split

theorem retireCommand_within (s : State) (b : BitVec 512) :
    Within [.quills, .stores, .nibSetup, .adc, .counters, .eic, .raises, .blotter, .ink, .pool, .co, .scribe, .posted] s (retireCommand s b) := by
  unfold retireCommand
  repeat' first
    | with_reducible apply within_refl
    | with_reducible assumption
    | (extract_lets +onlyGivenNames u
       first
       | (refine within_cut (v := u) ?_ ?_
          all_goals (first | (with_reducible intro hu; revert hu; clear_value u; intro hu) | subst u))
       | clear_value u
       | subst u)
    | (with_reducible apply within_step (badField_within _ _); decide)
    | (with_reducible apply within_step (endCmd_within _ _ _ _ _); decide)
    | (with_reducible apply within_step (endWith_within _ _ _); decide)
    | (with_reducible apply within_step (retireResource_within _ _ _); decide)
    | (with_reducible apply within_fst (retireResource_within _ _ _); with_reducible assumption; decide)
    | split

theorem injectCommand_within (s : State) (b : BitVec 512) :
    Within [.eic, .blotter, .scribe, .posted] s (injectCommand s b) := by
  unfold injectCommand
  repeat' first
    | with_reducible apply within_refl
    | with_reducible assumption
    | (with_reducible apply within_ite <;> intro _)
    | (extract_lets +onlyGivenNames u
       first
       | (refine within_cut (v := u) ?_ ?_
          all_goals (first | (with_reducible intro hu; revert hu; clear_value u; intro hu) | subst u))
       | clear_value u
       | subst u)
    | (with_reducible apply within_step (badField_within _ _); decide)
    | (with_reducible apply within_step (endCmd_within _ _ _ _ _); decide)
    | (with_reducible apply within_step (modBlotter_keeps_queue _ _ ?hk); (case hk => first | with_unfolding_all rfl | with_reducible rfl | ((try dsimp only); (repeat' split) <;> with_reducible rfl)); decide)
    | split

theorem ackCommand_within (s : State) (b : BitVec 512) :
    Within [.eic, .blotter, .scribe, .posted] s (ackCommand s b) := by
  unfold ackCommand
  repeat' first
    | with_reducible apply within_refl
    | with_reducible assumption
    | (with_reducible apply within_ite <;> intro _)
    | (extract_lets +onlyGivenNames u
       first
       | (refine within_cut (v := u) ?_ ?_
          all_goals (first | (with_reducible intro hu; revert hu; clear_value u; intro hu) | subst u))
       | clear_value u
       | subst u)
    | (with_reducible apply within_step (acknowledge_within _ _ _); decide)
    | (with_reducible apply within_step (endWith_within _ _ _); decide)
    | split

theorem journal_within (s : State) :
    Within [.time, .units, .co, .scribe] s (journal s) := by
  unfold journal
  repeat' first
    | with_reducible apply within_refl
    | with_reducible assumption
    | (with_reducible apply within_step (modEntry_within _ _ _); decide)
    | (with_reducible apply within_step (undoCmd_within _ _); decide)
    | split

theorem restartScribe_within (s : State) :
    Within [.time, .units, .co, .scribe] s (restartScribe s) := by
  unfold restartScribe
  repeat' first
    | with_reducible apply within_refl
    | with_reducible assumption
    | (with_reducible apply within_ite <;> intro _)
    | (with_reducible apply within_step (beginRestart_within _); decide)
    | (with_reducible apply within_step (journal_within _); decide)
    | split

theorem resumeJournal_within (s : State) :
    Within [.eic, .scribe, .posted] s (resumeJournal s) := by
  unfold resumeJournal
  repeat' first
    | with_reducible apply within_refl
    | with_reducible assumption
    | (with_reducible apply within_ite <;> intro _)
    | (with_reducible apply within_step (completeHead_within _ _ _ _ _); decide)
    | split

theorem restartDone_within (s : State) :
    Within [.time, .units, .eic, .blotter, .co, .scribe, .posted] s (restartDone s) := by
  unfold restartDone
  repeat' first
    | with_reducible apply within_refl
    | with_reducible assumption
    | (extract_lets +onlyGivenNames u
       first
       | (refine within_cut (v := u) ?_ ?_
          all_goals (first | (with_reducible intro hu; revert hu; clear_value u; intro hu) | subst u))
       | clear_value u
       | subst u)
    | (with_reducible apply within_step (actAborts_within _); decide)
    | (with_reducible apply within_step (modBlotter_keeps_queue _ _ ?hk); (case hk => first | with_unfolding_all rfl | with_reducible rfl | ((try dsimp only); (repeat' split) <;> with_reducible rfl)); decide)
    | (with_reducible apply within_step (modScribe_within _ _); decide)
    | (with_reducible apply within_step (pushCause_within _ _); decide)
    | (with_reducible apply within_step (releaseHeld_within _); decide)
    | (with_reducible apply within_step (resumeJournal_within _); decide)
    | (with_reducible apply within_step (scribeTurn_within _); decide)
    | split

theorem loadPatch_within (s : State) (b : BitVec 512) (image : List Byte) :
    Within [.eic, .scribe, .posted] s (loadPatch s b image) := by
  unfold loadPatch
  repeat' first
    | with_reducible apply within_refl
    | with_reducible assumption
    | (extract_lets +onlyGivenNames u
       first
       | (refine within_cut (v := u) ?_ ?_
          all_goals (first | (with_reducible intro hu; revert hu; clear_value u; intro hu) | subst u))
       | clear_value u
       | subst u)
    | (with_reducible apply within_step (beginRestart_within _); decide)
    | (with_reducible apply within_step (endCmd_within _ _ _ _ _); decide)
    | (with_reducible apply within_step (modScribe_within _ _); decide)
    | (with_reducible apply within_step (setHeadPhase_within _ _); decide)
    | (with_reducible apply withImage_within; decide; intro _)
    | split

theorem tbSetCommand_within (s : State) (b : BitVec 512) :
    Within [.time, .eic, .scribe, .posted] s (tbSetCommand s b) := by
  unfold tbSetCommand
  repeat' first
    | with_reducible apply within_refl
    | with_reducible assumption
    | (with_reducible apply within_ite <;> intro _)
    | (with_reducible apply within_step (badState_within _ _); decide)
    | (with_reducible apply within_step (endCmd_within _ _ _ _ _); decide)
    | (with_reducible apply within_step (modTime_keeps_clock _ _ ?hk); (case hk => first | with_reducible rfl | (simp only [clockOf]; done) | ((try dsimp only); (repeat' split) <;> with_reducible rfl)); decide)
    | (with_reducible apply within_step (setHeadPhase_within _ _); decide)
    | split
    | (intro k hk; cases k <;> first | exact absurd (by decide) hk | exact hu _ hk | rfl | exact ⟨rfl, rfl⟩ | exact ⟨rfl, rfl, rfl, rfl⟩)

theorem tbTrimCommand_within (s : State) (b : BitVec 512) :
    Within [.time, .scribe] s (tbTrimCommand s b) := by
  unfold tbTrimCommand
  repeat' first
    | with_reducible apply within_refl
    | with_reducible assumption
    | (with_reducible apply within_ite <;> intro _)
    | (extract_lets +onlyGivenNames u
       first
       | (refine within_cut (v := u) ?_ ?_
          all_goals (first | (with_reducible intro hu; revert hu; clear_value u; intro hu) | subst u))
       | clear_value u
       | subst u)
    | (with_reducible apply within_step (modTime_keeps_clock _ _ ?hk); (case hk => first | with_reducible rfl | (simp only [clockOf]; done) | ((try dsimp only); (repeat' split) <;> with_reducible rfl)); decide)
    | (with_reducible apply within_step (setHeadPhase_within _ _); decide)
    | (with_reducible apply within_step (writeTrim_within _ _); decide)
    | split
    | (intro k hk; cases k <;> first | exact absurd (by decide) hk | exact hu _ hk | rfl | exact ⟨rfl, rfl⟩ | exact ⟨rfl, rfl, rfl, rfl⟩)

theorem sleepCommand_within (s : State) (b : BitVec 512) :
    Within [.eic, .scribe, .posted] s (sleepCommand s b) := by
  unfold sleepCommand
  repeat' first
    | with_reducible apply within_refl
    | with_reducible assumption
    | (with_reducible apply within_ite <;> intro _)
    | (extract_lets +onlyGivenNames u
       first
       | (refine within_cut (v := u) ?_ ?_
          all_goals (first | (with_reducible intro hu; revert hu; clear_value u; intro hu) | subst u))
       | clear_value u
       | subst u)
    | (with_reducible apply within_step (badState_within _ _); decide)
    | (with_reducible apply within_step (endCmd_within _ _ _ _ _); decide)
    | (with_reducible apply within_step (modScribe_within _ _); decide)
    | split

theorem readKeepsake_within (s : State) :
    Within [.power, .free] s (readKeepsake s) := by
  unfold readKeepsake
  repeat' first
    | with_reducible apply within_refl
    | with_reducible assumption
    | (extract_lets +onlyGivenNames u
       first
       | (refine within_cut (v := u) ?_ ?_
          all_goals (first | (with_reducible intro hu; revert hu; clear_value u; intro hu) | subst u))
       | clear_value u
       | subst u)
    | (with_reducible apply within_step (modPower_keeps_mode _ _ ?hk); (case hk => first | with_reducible rfl | ((try dsimp only); (repeat' split) <;> with_reducible rfl)); decide)
    | split
    | (intro k hk; cases k <;> first | exact absurd (by decide) hk | exact hu _ hk | rfl | exact ⟨rfl, rfl⟩ | exact ⟨rfl, rfl, rfl, rfl⟩)

theorem standbyCommand_within (s : State) (b : BitVec 512) :
    Within [.eic, .scribe, .power, .posted, .free] s (standbyCommand s b) := by
  unfold standbyCommand
  repeat' first
    | with_reducible apply within_refl
    | with_reducible assumption
    | (with_reducible apply within_ite <;> intro _)
    | (extract_lets +onlyGivenNames u
       first
       | (refine within_cut (v := u) ?_ ?_
          all_goals (first | (with_reducible intro hu; revert hu; clear_value u; intro hu) | subst u))
       | clear_value u
       | subst u)
    | (with_reducible apply within_step (badState_within _ _); decide)
    | (with_reducible apply within_step (endCmd_within _ _ _ _ _); decide)
    | (with_reducible apply within_step (modScribe_within _ _); decide)
    | (with_reducible apply within_step (readKeepsake_within _); decide)
    | split

theorem enrollCommand_within (s : State) (b : BitVec 512) (key : BitVec 512) :
    Within [.eic, .scribe, .posted] s (enrollCommand s b key) := by
  unfold enrollCommand
  repeat' first
    | with_reducible apply within_refl
    | with_reducible assumption
    | (with_reducible apply within_ite <;> intro _)
    | (extract_lets +onlyGivenNames u
       first
       | (refine within_cut (v := u) ?_ ?_
          all_goals (first | (with_reducible intro hu; revert hu; clear_value u; intro hu) | subst u))
       | clear_value u
       | subst u)
    | (with_reducible apply within_step (badField_within _ _); decide)
    | (with_reducible apply within_step (endCmd_within _ _ _ _ _); decide)
    | (with_reducible apply within_step (endWith_within _ _ _); decide)
    | (with_reducible apply within_step (modScribe_within _ _); decide)
    | split

end Sys2Proof.Machine
end

