-- ==== Sys2Proof/Laws/PartsClock.lean ====
section
/-! SUPPORT. The parts of the state that each operation of Machine/Clock.lean can change. -/
namespace Sys2Proof.Machine

theorem aclkEdge_within (s : State) :
    Within [.clock, .streams, .counters, .eic, .raises, .blotter, .cells, .ink, .dma, .co, .host, .posted, .reads] s (aclkEdge s) := by
  unfold aclkEdge
  repeat' first
    | with_reducible apply within_refl
    | with_reducible assumption
    | (with_reducible apply within_step (ceEdge_within _ _); decide)
    | (with_reducible apply within_step (modTime_keeps_rest _ _ ?hk); (case hk => first | with_reducible rfl | (simp only [restOfTime]; done) | ((try dsimp only); (repeat' split) <;> with_reducible rfl)); decide)
    | (with_reducible apply within_step (modTime_within _ _); decide)
    | (with_reducible apply within_step (portEdge_within _); decide)
    | (with_reducible apply within_step (sendMessages_within _); decide)
    | split
    | (intro k hk; cases k <;> first | exact absurd (by decide) hk | exact hu _ hk | rfl | exact ⟨rfl, rfl⟩ | exact ⟨rfl, rfl, rfl, rfl⟩)

theorem aclkCycle_within (s : State) :
    Within [.clock, .streams, .counters, .eic, .raises, .blotter, .cells, .ink, .dma, .co, .host, .posted, .reads] s (aclkCycle s) := by
  unfold aclkCycle
  repeat' first
    | with_reducible apply within_refl
    | with_reducible assumption
    | (with_reducible apply within_ite <;> intro _)
    | (with_reducible apply within_step (aclkEdge_within _); decide)
    | (with_reducible apply within_step (modTime_keeps_rest _ _ ?hk); (case hk => first | with_reducible rfl | (simp only [restOfTime]; done) | ((try dsimp only); (repeat' split) <;> with_reducible rfl)); decide)
    | (with_reducible apply within_step (modTime_within _ _); decide)
    | split
    | (intro k hk; cases k <;> first | exact absurd (by decide) hk | exact hu _ hk | rfl | exact ⟨rfl, rfl⟩ | exact ⟨rfl, rfl, rfl, rfl⟩)

theorem virtualsMove_within (before s : State) :
    Within [.inboxes, .nibs, .nibSetup, .streams, .trackers, .channels, .eic, .raises, .blotter] s (virtualsMove before s) := by
  unfold virtualsMove
  repeat' first
    | with_reducible apply within_refl
    | with_reducible assumption
    | (with_reducible apply within_ite <;> intro _)
    | (with_reducible apply within_step (trackChanged_within _ _ _ _); decide)
    | split

theorem copiesGoOn_within (s : State) :
    Within [.eic, .raises, .blotter, .cells, .ink, .dma, .pool, .co, .scribe, .posted] s (copiesGoOn s) := by
  unfold copiesGoOn
  repeat' first
    | with_reducible apply within_refl
    | with_reducible assumption
    | (extract_lets +onlyGivenNames u
       first
       | (refine within_cut (v := u) ?_ ?_
          all_goals (first | (with_reducible intro hu; revert hu; clear_value u; intro hu) | subst u))
       | clear_value u
       | subst u)
    | (with_reducible apply within_step (carryCopy_within _); decide)
    | (with_reducible apply within_step (migrationBegin_within _); decide)
    | (with_reducible apply within_step (migrationCopy_within _); decide)
    | (with_reducible apply within_step (sliceCopy_within _); decide)
    | (with_reducible apply within_step (spareFromLeaf_within _); decide)
    | (with_reducible apply within_step (storeCopies_within _); decide)
    | split
    | (intro k hk; cases k <;> first | exact absurd (by decide) hk | exact hu _ hk | rfl | exact ⟨rfl, rfl⟩ | exact ⟨rfl, rfl, rfl, rfl⟩)

theorem scribeTime_within (s : State) :
    Within [.scribe] s (scribeTime s) := by
  unfold scribeTime
  repeat' first
    | with_reducible apply within_refl
    | with_reducible assumption
    | (with_reducible apply within_ite <;> intro _)
    | (with_reducible apply within_step (modScribe_within _ _); decide)
    | split

theorem countCycle_within (s : State) :
    Within [.clock] s (countCycle s) := by
  unfold countCycle
  repeat' first
    | with_reducible apply within_refl
    | with_reducible assumption
    | (with_reducible apply within_ite <;> intro _)
    | (with_reducible apply within_step (modTime_keeps_rest _ _ ?hk); (case hk => first | with_reducible rfl | (simp only [restOfTime]; done) | ((try dsimp only); (repeat' split) <;> with_reducible rfl)); decide)
    | (with_reducible apply within_step (modTime_within _ _); decide)
    | split
    | (intro k hk; cases k <;> first | exact absurd (by decide) hk | exact hu _ hk | rfl | exact ⟨rfl, rfl⟩ | exact ⟨rfl, rfl, rfl, rfl⟩)

theorem takeUpset_within (s : State) (u : Config.Upset) : Within [.quills, .stores, .blotter, .ink] s (takeUpset s u) := by
  cases u <;> unfold takeUpset
  · exact within_ite (fun _ => within_refl _ _) fun _ => within_mono (modInk_keeps_cells _ _ rfl) (by decide)
  · exact within_ite (fun _ => within_refl _ _) fun _ => within_mono (modQuill_keeps_inbox _ _ _ rfl) (by decide)
  · exact within_ite (fun _ => within_refl _ _) fun _ => within_mono (putStoreWord_within _ _ _ _) (by decide)
  · exact within_mono (modBlotter_keeps_queue _ _ rfl) (by decide)
  · exact within_mono (modBlotter_keeps_queue _ _ rfl) (by decide)

theorem upsetsCome_within (s : State) :
    Within [.quills, .stores, .blotter, .ink, .free] s (upsetsCome s) := by
  unfold upsetsCome
  repeat' first
    | with_reducible apply within_refl
    | with_reducible assumption
    | (with_reducible apply within_step (drawFree_within _); decide)
    | (with_reducible apply within_step (takeUpset_within _ _); decide)
    | split

theorem keepGathers_within (s : State) :
    Within [.quills, .inboxes] s (keepGathers s) := by
  unfold keepGathers
  repeat' first
    | with_reducible apply within_refl
    | with_reducible assumption
    | (with_reducible apply within_ite <;> intro _)
    | split
    | (intro k hk; cases k <;> first | exact absurd (by decide) hk | exact hu _ hk | rfl | exact ⟨rfl, rfl⟩ | exact ⟨rfl, rfl, rfl, rfl⟩)

theorem cyclePasses_within (s : State) :
    Within [.clock, .units, .quills, .inboxes, .stores, .nibs, .nibSetup, .streams, .trackers, .channels, .counters, .eic, .raises, .blotter, .cells, .ink, .dma, .pool, .co, .scribe, .host, .posted, .reads, .free] s (cyclePasses s) := by
  unfold cyclePasses
  repeat' first
    | with_reducible apply within_refl
    | with_reducible assumption
    | (with_reducible apply within_ite <;> intro _)
    | (extract_lets +onlyGivenNames u
       first
       | (refine within_cut (v := u) ?_ ?_
          all_goals (first | (with_reducible intro hu; revert hu; clear_value u; intro hu) | subst u))
       | clear_value u
       | subst u)
    | (with_reducible apply within_step (aclkCycle_within _); decide)
    | (with_reducible apply within_step (copiesGoOn_within _); decide)
    | (with_reducible apply within_step (countCycle_within _); decide)
    | (with_reducible apply within_step (followAllBelow_within _); decide)
    | (with_reducible apply within_step (handoversDue_within _); decide)
    | (with_reducible apply within_step (keepGathers_within _); decide)
    | (with_reducible apply within_step (modTime_keeps_rest _ _ ?hk); (case hk => first | with_reducible rfl | (simp only [restOfTime]; done) | ((try dsimp only); (repeat' split) <;> with_reducible rfl)); decide)
    | (with_reducible apply within_step (modTime_within _ _); decide)
    | (with_reducible apply within_step (passTime_within _ _); decide)
    | (with_reducible apply within_step (scribeTime_within _); decide)
    | (with_reducible apply within_step (takePins_within _); decide)
    | (with_reducible apply within_step (upsetsCome_within _); decide)
    | (with_reducible apply within_step (virtualsMove_within _ _); decide)
    | split
    | (intro k hk; cases k <;> first | exact absurd (by decide) hk | exact hu _ hk | rfl | exact ⟨rfl, rfl⟩ | exact ⟨rfl, rfl, rfl, rfl⟩)

theorem idleCycle_within (s : State) :
    Within [.clock, .time, .folio, .units, .quills, .inboxes, .stores, .nibs, .nibSetup, .links, .safeLow, .streams, .trackers, .tickTrackers, .channels, .comparators, .adc, .counters, .eic, .raises, .blotter, .cells, .ink, .dma, .pool, .co, .scribe, .mode, .power, .host, .reflexDue, .posted, .latches, .reads, .free] s (idleCycle s) := by
  unfold idleCycle
  repeat' first
    | with_reducible apply within_refl
    | with_reducible assumption
    | (with_reducible apply within_ite <;> intro _)
    | (with_reducible apply within_step (cyclePasses_within _); decide)
    | (with_reducible apply within_step (enterSleep_within _); decide)
    | (with_reducible apply within_step (enterStandby_within _); decide)
    | (with_reducible apply within_step (wakeSleep_within _ _); decide)
    | split

end Sys2Proof.Machine
end

