-- ==== Sys2Proof/Laws/Sparse.lean ====
section
/-! SUPPORT. The canonical form of the sparse lists: every operation on them keeps it, a read after a write gives the
value written, and two lists in canonical form that read alike are the same list. -/
namespace Sys2Proof.Machine

variable {α : Type} [DecidableEq α] {d : α}

theorem sparseWfFrom_cons {lo k : Nat} {v : α} {m : List (Nat × α)} :
    sparseWfFrom d lo ((k, v) :: m) = true ↔ lo ≤ k ∧ v ≠ d ∧ sparseWfFrom d (k + 1) m = true := by
  simp [sparseWfFrom, and_assoc]

theorem sparseWfFrom_mono {lo hi : Nat} {m : List (Nat × α)} (h : lo ≤ hi) (w : sparseWfFrom d hi m = true) :
    sparseWfFrom d lo m = true := by
  cases m with
  | nil => rfl
  | cons x m => rw [sparseWfFrom_cons] at *; exact ⟨by omega, w.2⟩

theorem sparsePut_wfFrom {lo a : Nat} {x : α} {m : List (Nat × α)} (h : lo ≤ a) (w : sparseWfFrom d lo m = true) :
    sparseWfFrom d lo (sparsePut d m a x) = true := by
  induction m generalizing lo with
  | nil => unfold sparsePut; split <;> simp_all [sparseWfFrom]
  | cons y m ih =>
    obtain ⟨k, v⟩ := y
    rw [sparseWfFrom_cons] at w
    unfold sparsePut
    split
    · split
      · exact sparseWfFrom_cons.mpr w
      · rename_i hk hx
        exact sparseWfFrom_cons.mpr ⟨h, hx, sparseWfFrom_cons.mpr ⟨hk, w.2⟩⟩
    · split
      · split
        · exact sparseWfFrom_mono (by omega) w.2.2
        · rename_i hk hx
          exact sparseWfFrom_cons.mpr ⟨h, hx, by subst hk; exact w.2.2⟩
      · exact sparseWfFrom_cons.mpr ⟨w.1, w.2.1, ih (by omega) w.2.2⟩

/-- A write keeps the canonical form. -/
theorem sparsePut_wf {a : Nat} {x : α} {m : List (Nat × α)} (w : sparseWf d m = true) :
    sparseWf d (sparsePut d m a x) = true := sparsePut_wfFrom (Nat.zero_le a) w

theorem sparseGet_below {lo a : Nat} {m : List (Nat × α)} (w : sparseWfFrom d lo m = true) (h : a < lo) :
    sparseGet d m a = d := by
  cases m with
  | nil => rfl
  | cons y m =>
    obtain ⟨k, v⟩ := y
    rw [sparseWfFrom_cons] at w
    unfold sparseGet
    rw [if_neg (by omega), if_pos (by omega)]

theorem sparseGet_putFrom {lo : Nat} {m : List (Nat × α)} (w : sparseWfFrom d lo m = true) (a b : Nat) (x : α) :
    sparseGet d (sparsePut d m a x) b = if b = a then x else sparseGet d m b := by
  induction m generalizing lo with
  | nil =>
    unfold sparsePut
    by_cases hx : x = d <;> by_cases hb : b = a <;> simp_all [sparseGet]
  | cons y m ih =>
    obtain ⟨k, v⟩ := y
    rw [sparseWfFrom_cons] at w
    have ih := ih w.2.2
    have hlow : ∀ b, b < k + 1 → sparseGet d m b = d := fun b hb => sparseGet_below w.2.2 hb
    unfold sparsePut
    by_cases h1 : a < k
    · rw [if_pos h1]
      by_cases hx : x = d
      · rw [if_pos hx]
        by_cases hb : b = a
        · subst hb; rw [if_pos rfl, hx, sparseGet, if_neg (by omega), if_pos h1]
        · rw [if_neg hb]
      · rw [if_neg hx]
        by_cases hb : b = a
        · subst hb; simp [sparseGet]
        · rw [if_neg hb]
          conv => lhs; unfold sparseGet
          rw [if_neg hb]
          by_cases hlt : b < a
          · rw [if_pos hlt, sparseGet, if_neg (by omega), if_pos (by omega)]
          · rw [if_neg hlt]
    · rw [if_neg h1]
      by_cases h2 : a = k
      · subst h2
        rw [if_pos rfl]
        by_cases hx : x = d
        · rw [if_pos hx]
          by_cases hb : b = a
          · subst hb; rw [if_pos rfl, hx]; exact hlow _ (by omega)
          · rw [if_neg hb]
            conv => rhs; unfold sparseGet
            rw [if_neg hb]
            by_cases hlt : b < a
            · rw [if_pos hlt]; exact hlow _ (by omega)
            · rw [if_neg hlt]
        · rw [if_neg hx]
          by_cases hb : b = a
          · subst hb; simp [sparseGet]
          · rw [if_neg hb]; simp [sparseGet, hb]
      · rw [if_neg h2]
        conv => lhs; unfold sparseGet
        conv => rhs; unfold sparseGet
        by_cases hb : b = k
        · subst hb; rw [if_pos rfl, if_pos rfl, if_neg (by omega)]
        · rw [if_neg hb, if_neg hb]
          by_cases hlt : b < k
          · rw [if_pos hlt, if_pos hlt, if_neg (by omega)]
          · rw [if_neg hlt, if_neg hlt, ih]

/-- A read after a write: the value written at its key, what stood there elsewhere. -/
theorem sparseGet_put {m : List (Nat × α)} (w : sparseWf d m = true) (a b : Nat) (x : α) :
    sparseGet d (sparsePut d m a x) b = if b = a then x else sparseGet d m b := sparseGet_putFrom w a b x

theorem sparseWfFrom_filter {lo : Nat} {m : List (Nat × α)} (f : Nat × α → Bool) (w : sparseWfFrom d lo m = true) :
    sparseWfFrom d lo (m.filter f) = true := by
  induction m generalizing lo with
  | nil => rfl
  | cons y m ih =>
    obtain ⟨k, v⟩ := y
    rw [sparseWfFrom_cons] at w
    rw [List.filter_cons]
    split
    · exact sparseWfFrom_cons.mpr ⟨w.1, w.2.1, ih w.2.2⟩
    · exact sparseWfFrom_mono (by omega) (ih w.2.2)

/-- Leaving out entries keeps the canonical form. -/
theorem sparseWf_filter {m : List (Nat × α)} (f : Nat × α → Bool) (w : sparseWf d m = true) :
    sparseWf d (m.filter f) = true := sparseWfFrom_filter f w

/-- Lists in canonical form that read alike are equal. -/
theorem sparse_ext_from {lo hi : Nat} {m n : List (Nat × α)} (wm : sparseWfFrom d lo m = true)
    (wn : sparseWfFrom d hi n = true) (h : ∀ a, sparseGet d m a = sparseGet d n a) : m = n := by
  induction m generalizing lo hi n with
  | nil =>
    cases n with
    | nil => rfl
    | cons y n =>
      obtain ⟨k, v⟩ := y
      rw [sparseWfFrom_cons] at wn
      exact absurd (by simpa [sparseGet] using (h k).symm) wn.2.1
  | cons x m ih =>
    obtain ⟨k, v⟩ := x
    rw [sparseWfFrom_cons] at wm
    cases n with
    | nil => exact absurd (by simpa [sparseGet] using h k) wm.2.1
    | cons y n =>
      obtain ⟨j, u⟩ := y
      rw [sparseWfFrom_cons] at wn
      have hjk : j = k := by
        have h1 := h k
        have h2 := h j
        simp only [sparseGet, if_true] at h1 h2
        rcases Nat.lt_trichotomy k j with hlt | he | hgt
        · rw [if_neg (by omega), if_pos hlt] at h1; exact absurd h1 wm.2.1
        · exact he.symm
        · rw [if_neg (by omega), if_pos hgt] at h2; exact absurd h2.symm wn.2.1
      subst hjk
      have hv : v = u := by simpa [sparseGet] using h j
      subst hv
      congr 1
      refine ih wm.2.2 wn.2.2 fun a => ?_
      have ha := h a
      by_cases hk : a < j + 1
      · rw [sparseGet_below wm.2.2 hk, sparseGet_below wn.2.2 hk]
      · simpa [sparseGet, show ¬a = j by omega, show ¬a < j by omega] using ha

theorem sparse_ext {m n : List (Nat × α)} (wm : sparseWf d m = true) (wn : sparseWf d n = true)
    (h : ∀ a, sparseGet d m a = sparseGet d n a) : m = n := sparse_ext_from wm wn h

/-! The contents of the inkwells. -/

theorem putRaw_wf {m : Memory} (p : Nat) (be : BitVec 16) (v : W128) (w : Memory.wf m = true) :
    Memory.wf (putRaw m p be v) = true := by
  unfold putRaw
  suffices h : ∀ (l : List Nat) (m : Memory), Memory.wf m = true →
      Memory.wf (l.foldl (fun m i => if tst be i then sparsePut 0 m (16 * p + i) (byteOf v i) else m) m) = true from
    h _ m w
  intro l
  induction l with
  | nil => exact fun _ h => h
  | cons i l ih =>
    intro m w
    refine ih _ ?_
    dsimp only
    split
    · exact sparsePut_wf w
    · exact w

theorem zeroBank_wf (s : State) (p : Nat) (w : Memory.wf s.ink.cells = true) :
    Memory.wf (zeroBank s p).ink.cells = true := sparseWf_filter _ w

end Sys2Proof.Machine
end

