-- ==== Sys2Proof/Laws/State.lean ====
section
/-! SUPPORT. What the shared updates of a state leave in each field, and what an updated bank holds at each place. -/
namespace Sys2Proof.Machine

theorem modifyAt_same {α : Type} {n : Nat} (v : Vector α n) (i : Fin n) (f : α → α) :
    (modifyAt v i f)[i] = f v[i] := by simp [modifyAt]

@[simp] theorem modifyAt_same_val {α : Type} {n : Nat} (v : Vector α n) (i : Fin n) (f : α → α) :
    (modifyAt v i f)[i.val] = f v[i.val] := modifyAt_same v i f

theorem modifyAt_other {α : Type} {n : Nat} (v : Vector α n) {i j : Fin n} (h : i ≠ j) (f : α → α) :
    (modifyAt v i f)[j] = v[j] := by
  have h' : i.val ≠ j.val := fun e => h (Fin.ext e)
  simp [modifyAt, Vector.getElem_set_ne, h']

theorem modifyAt_get {α : Type} {n : Nat} (v : Vector α n) (i j : Fin n) (f : α → α) :
    (modifyAt v i f)[j] = if i = j then f v[j] else v[j] := by
  by_cases h : i = j
  · subst h; rw [if_pos rfl]; exact modifyAt_same v i f
  · rw [if_neg h, modifyAt_other v h]

@[simp] theorem modifyAt_twice {α : Type} {n : Nat} (v : Vector α n) (i : Fin n) (f g : α → α) :
    modifyAt (modifyAt v i f) i g = modifyAt v i fun x => g (f x) := by simp [modifyAt]

theorem modifyAt_self {α : Type} {n : Nat} (v : Vector α n) (i : Fin n) {f : α → α} (h : f v[i] = v[i]) :
    modifyAt v i f = v := by
  unfold modifyAt; rw [h]; exact Vector.set_getElem_self ..

@[simp] theorem modQuill_quills (s : State) (i : QuillIx) (f : Quill → Quill) :
    (modQuill s i f).quills = modifyAt s.quills i f := rfl
@[simp] theorem modQuill_keeps (s : State) (i : QuillIx) (f : Quill → Quill) :
    (modQuill s i f).pending = s.pending ∧ (modQuill s i f).time = s.time ∧ (modQuill s i f).folio = s.folio ∧
    (modQuill s i f).stores = s.stores ∧ (modQuill s i f).nibs = s.nibs ∧ (modQuill s i f).links = s.links ∧
    (modQuill s i f).balls = s.balls ∧ (modQuill s i f).safeLow = s.safeLow ∧
    (modQuill s i f).streams = s.streams ∧ (modQuill s i f).trackers = s.trackers ∧
    (modQuill s i f).tickTrackers = s.tickTrackers ∧ (modQuill s i f).channels = s.channels ∧
    (modQuill s i f).comparators = s.comparators ∧ (modQuill s i f).adc = s.adc ∧
    (modQuill s i f).counters = s.counters ∧ (modQuill s i f).eic = s.eic ∧ (modQuill s i f).blotter = s.blotter ∧
    (modQuill s i f).ink = s.ink ∧ (modQuill s i f).dma = s.dma ∧ (modQuill s i f).pool = s.pool ∧
    (modQuill s i f).co = s.co ∧ (modQuill s i f).scribe = s.scribe ∧ (modQuill s i f).power = s.power ∧
    (modQuill s i f).host = s.host ∧ (modQuill s i f).reflexDue = s.reflexDue ∧
    (modQuill s i f).posted = s.posted ∧ (modQuill s i f).rlatch = s.rlatch ∧ (modQuill s i f).wlatch = s.wlatch ∧
    (modQuill s i f).readPcie = s.readPcie ∧ (modQuill s i f).readSp = s.readSp ∧
    (modQuill s i f).readScribe = s.readScribe ∧ (modQuill s i f).readBytes = s.readBytes ∧
    (modQuill s i f).free = s.free := by
  refine ⟨rfl, rfl, rfl, rfl, rfl, rfl, rfl, rfl, rfl, rfl, rfl, rfl, rfl, rfl, rfl, rfl, rfl, rfl, rfl, rfl, rfl, rfl, rfl, rfl, rfl, rfl, rfl, rfl, rfl, rfl, rfl, rfl, rfl⟩

@[simp] theorem modEngine_quills (s : State) (i : QuillIx) (f : Engine → Engine) :
    (modEngine s i f).quills = modifyAt s.quills i fun x => { x with engine := f x.engine } := rfl
@[simp] theorem modEngine_keeps (s : State) (i : QuillIx) (f : Engine → Engine) :
    (modEngine s i f).pending = s.pending ∧ (modEngine s i f).time = s.time ∧ (modEngine s i f).folio = s.folio ∧
    (modEngine s i f).stores = s.stores ∧ (modEngine s i f).nibs = s.nibs ∧ (modEngine s i f).links = s.links ∧
    (modEngine s i f).balls = s.balls ∧ (modEngine s i f).safeLow = s.safeLow ∧
    (modEngine s i f).streams = s.streams ∧ (modEngine s i f).trackers = s.trackers ∧
    (modEngine s i f).tickTrackers = s.tickTrackers ∧ (modEngine s i f).channels = s.channels ∧
    (modEngine s i f).comparators = s.comparators ∧ (modEngine s i f).adc = s.adc ∧
    (modEngine s i f).counters = s.counters ∧ (modEngine s i f).eic = s.eic ∧
    (modEngine s i f).blotter = s.blotter ∧ (modEngine s i f).ink = s.ink ∧ (modEngine s i f).dma = s.dma ∧
    (modEngine s i f).pool = s.pool ∧ (modEngine s i f).co = s.co ∧ (modEngine s i f).scribe = s.scribe ∧
    (modEngine s i f).power = s.power ∧ (modEngine s i f).host = s.host ∧
    (modEngine s i f).reflexDue = s.reflexDue ∧ (modEngine s i f).posted = s.posted ∧
    (modEngine s i f).rlatch = s.rlatch ∧ (modEngine s i f).wlatch = s.wlatch ∧
    (modEngine s i f).readPcie = s.readPcie ∧ (modEngine s i f).readSp = s.readSp ∧
    (modEngine s i f).readScribe = s.readScribe ∧ (modEngine s i f).readBytes = s.readBytes ∧
    (modEngine s i f).free = s.free := by
  refine ⟨rfl, rfl, rfl, rfl, rfl, rfl, rfl, rfl, rfl, rfl, rfl, rfl, rfl, rfl, rfl, rfl, rfl, rfl, rfl, rfl, rfl, rfl, rfl, rfl, rfl, rfl, rfl, rfl, rfl, rfl, rfl, rfl, rfl⟩

@[simp] theorem modNib_nibs (s : State) (i : NibIx) (f : Nib → Nib) :
    (modNib s i f).nibs = modifyAt s.nibs i f := rfl
@[simp] theorem modNib_keeps (s : State) (i : NibIx) (f : Nib → Nib) :
    (modNib s i f).pending = s.pending ∧ (modNib s i f).time = s.time ∧ (modNib s i f).folio = s.folio ∧
    (modNib s i f).quills = s.quills ∧ (modNib s i f).stores = s.stores ∧ (modNib s i f).links = s.links ∧
    (modNib s i f).balls = s.balls ∧ (modNib s i f).safeLow = s.safeLow ∧ (modNib s i f).streams = s.streams ∧
    (modNib s i f).trackers = s.trackers ∧ (modNib s i f).tickTrackers = s.tickTrackers ∧
    (modNib s i f).channels = s.channels ∧ (modNib s i f).comparators = s.comparators ∧
    (modNib s i f).adc = s.adc ∧ (modNib s i f).counters = s.counters ∧ (modNib s i f).eic = s.eic ∧
    (modNib s i f).blotter = s.blotter ∧ (modNib s i f).ink = s.ink ∧ (modNib s i f).dma = s.dma ∧
    (modNib s i f).pool = s.pool ∧ (modNib s i f).co = s.co ∧ (modNib s i f).scribe = s.scribe ∧
    (modNib s i f).power = s.power ∧ (modNib s i f).host = s.host ∧ (modNib s i f).reflexDue = s.reflexDue ∧
    (modNib s i f).posted = s.posted ∧ (modNib s i f).rlatch = s.rlatch ∧ (modNib s i f).wlatch = s.wlatch ∧
    (modNib s i f).readPcie = s.readPcie ∧ (modNib s i f).readSp = s.readSp ∧
    (modNib s i f).readScribe = s.readScribe ∧ (modNib s i f).readBytes = s.readBytes ∧
    (modNib s i f).free = s.free := by
  refine ⟨rfl, rfl, rfl, rfl, rfl, rfl, rfl, rfl, rfl, rfl, rfl, rfl, rfl, rfl, rfl, rfl, rfl, rfl, rfl, rfl, rfl, rfl, rfl, rfl, rfl, rfl, rfl, rfl, rfl, rfl, rfl, rfl, rfl⟩

@[simp] theorem modNibIn_nibs (s : State) (i : NibIx) (f : NibIn → NibIn) :
    (modNibIn s i f).nibs = modifyAt s.nibs i fun x => { x with inp := f x.inp } := rfl
@[simp] theorem modNibIn_keeps (s : State) (i : NibIx) (f : NibIn → NibIn) :
    (modNibIn s i f).pending = s.pending ∧ (modNibIn s i f).time = s.time ∧ (modNibIn s i f).folio = s.folio ∧
    (modNibIn s i f).quills = s.quills ∧ (modNibIn s i f).stores = s.stores ∧ (modNibIn s i f).links = s.links ∧
    (modNibIn s i f).balls = s.balls ∧ (modNibIn s i f).safeLow = s.safeLow ∧
    (modNibIn s i f).streams = s.streams ∧ (modNibIn s i f).trackers = s.trackers ∧
    (modNibIn s i f).tickTrackers = s.tickTrackers ∧ (modNibIn s i f).channels = s.channels ∧
    (modNibIn s i f).comparators = s.comparators ∧ (modNibIn s i f).adc = s.adc ∧
    (modNibIn s i f).counters = s.counters ∧ (modNibIn s i f).eic = s.eic ∧ (modNibIn s i f).blotter = s.blotter ∧
    (modNibIn s i f).ink = s.ink ∧ (modNibIn s i f).dma = s.dma ∧ (modNibIn s i f).pool = s.pool ∧
    (modNibIn s i f).co = s.co ∧ (modNibIn s i f).scribe = s.scribe ∧ (modNibIn s i f).power = s.power ∧
    (modNibIn s i f).host = s.host ∧ (modNibIn s i f).reflexDue = s.reflexDue ∧
    (modNibIn s i f).posted = s.posted ∧ (modNibIn s i f).rlatch = s.rlatch ∧ (modNibIn s i f).wlatch = s.wlatch ∧
    (modNibIn s i f).readPcie = s.readPcie ∧ (modNibIn s i f).readSp = s.readSp ∧
    (modNibIn s i f).readScribe = s.readScribe ∧ (modNibIn s i f).readBytes = s.readBytes ∧
    (modNibIn s i f).free = s.free := by
  refine ⟨rfl, rfl, rfl, rfl, rfl, rfl, rfl, rfl, rfl, rfl, rfl, rfl, rfl, rfl, rfl, rfl, rfl, rfl, rfl, rfl, rfl, rfl, rfl, rfl, rfl, rfl, rfl, rfl, rfl, rfl, rfl, rfl, rfl⟩

@[simp] theorem modLink_links (s : State) (i : LinkIx) (f : ReflexLink → ReflexLink) :
    (modLink s i f).links = modifyAt s.links i f := rfl
@[simp] theorem modLink_keeps (s : State) (i : LinkIx) (f : ReflexLink → ReflexLink) :
    (modLink s i f).pending = s.pending ∧ (modLink s i f).time = s.time ∧ (modLink s i f).folio = s.folio ∧
    (modLink s i f).quills = s.quills ∧ (modLink s i f).stores = s.stores ∧ (modLink s i f).nibs = s.nibs ∧
    (modLink s i f).balls = s.balls ∧ (modLink s i f).safeLow = s.safeLow ∧ (modLink s i f).streams = s.streams ∧
    (modLink s i f).trackers = s.trackers ∧ (modLink s i f).tickTrackers = s.tickTrackers ∧
    (modLink s i f).channels = s.channels ∧ (modLink s i f).comparators = s.comparators ∧
    (modLink s i f).adc = s.adc ∧ (modLink s i f).counters = s.counters ∧ (modLink s i f).eic = s.eic ∧
    (modLink s i f).blotter = s.blotter ∧ (modLink s i f).ink = s.ink ∧ (modLink s i f).dma = s.dma ∧
    (modLink s i f).pool = s.pool ∧ (modLink s i f).co = s.co ∧ (modLink s i f).scribe = s.scribe ∧
    (modLink s i f).power = s.power ∧ (modLink s i f).host = s.host ∧ (modLink s i f).reflexDue = s.reflexDue ∧
    (modLink s i f).posted = s.posted ∧ (modLink s i f).rlatch = s.rlatch ∧ (modLink s i f).wlatch = s.wlatch ∧
    (modLink s i f).readPcie = s.readPcie ∧ (modLink s i f).readSp = s.readSp ∧
    (modLink s i f).readScribe = s.readScribe ∧ (modLink s i f).readBytes = s.readBytes ∧
    (modLink s i f).free = s.free := by
  refine ⟨rfl, rfl, rfl, rfl, rfl, rfl, rfl, rfl, rfl, rfl, rfl, rfl, rfl, rfl, rfl, rfl, rfl, rfl, rfl, rfl, rfl, rfl, rfl, rfl, rfl, rfl, rfl, rfl, rfl, rfl, rfl, rfl, rfl⟩

@[simp] theorem modStream_streams (s : State) (i : StreamIx) (f : CapStream → CapStream) :
    (modStream s i f).streams = modifyAt s.streams i f := rfl
@[simp] theorem modStream_keeps (s : State) (i : StreamIx) (f : CapStream → CapStream) :
    (modStream s i f).pending = s.pending ∧ (modStream s i f).time = s.time ∧ (modStream s i f).folio = s.folio ∧
    (modStream s i f).quills = s.quills ∧ (modStream s i f).stores = s.stores ∧ (modStream s i f).nibs = s.nibs ∧
    (modStream s i f).links = s.links ∧ (modStream s i f).balls = s.balls ∧ (modStream s i f).safeLow = s.safeLow ∧
    (modStream s i f).trackers = s.trackers ∧ (modStream s i f).tickTrackers = s.tickTrackers ∧
    (modStream s i f).channels = s.channels ∧ (modStream s i f).comparators = s.comparators ∧
    (modStream s i f).adc = s.adc ∧ (modStream s i f).counters = s.counters ∧ (modStream s i f).eic = s.eic ∧
    (modStream s i f).blotter = s.blotter ∧ (modStream s i f).ink = s.ink ∧ (modStream s i f).dma = s.dma ∧
    (modStream s i f).pool = s.pool ∧ (modStream s i f).co = s.co ∧ (modStream s i f).scribe = s.scribe ∧
    (modStream s i f).power = s.power ∧ (modStream s i f).host = s.host ∧
    (modStream s i f).reflexDue = s.reflexDue ∧ (modStream s i f).posted = s.posted ∧
    (modStream s i f).rlatch = s.rlatch ∧ (modStream s i f).wlatch = s.wlatch ∧
    (modStream s i f).readPcie = s.readPcie ∧ (modStream s i f).readSp = s.readSp ∧
    (modStream s i f).readScribe = s.readScribe ∧ (modStream s i f).readBytes = s.readBytes ∧
    (modStream s i f).free = s.free := by
  refine ⟨rfl, rfl, rfl, rfl, rfl, rfl, rfl, rfl, rfl, rfl, rfl, rfl, rfl, rfl, rfl, rfl, rfl, rfl, rfl, rfl, rfl, rfl, rfl, rfl, rfl, rfl, rfl, rfl, rfl, rfl, rfl, rfl, rfl⟩

@[simp] theorem modTrack_trackers (s : State) (i : TrackIx) (f : Tracker → Tracker) :
    (modTrack s i f).trackers = modifyAt s.trackers i f := rfl
@[simp] theorem modTrack_keeps (s : State) (i : TrackIx) (f : Tracker → Tracker) :
    (modTrack s i f).pending = s.pending ∧ (modTrack s i f).time = s.time ∧ (modTrack s i f).folio = s.folio ∧
    (modTrack s i f).quills = s.quills ∧ (modTrack s i f).stores = s.stores ∧ (modTrack s i f).nibs = s.nibs ∧
    (modTrack s i f).links = s.links ∧ (modTrack s i f).balls = s.balls ∧ (modTrack s i f).safeLow = s.safeLow ∧
    (modTrack s i f).streams = s.streams ∧ (modTrack s i f).tickTrackers = s.tickTrackers ∧
    (modTrack s i f).channels = s.channels ∧ (modTrack s i f).comparators = s.comparators ∧
    (modTrack s i f).adc = s.adc ∧ (modTrack s i f).counters = s.counters ∧ (modTrack s i f).eic = s.eic ∧
    (modTrack s i f).blotter = s.blotter ∧ (modTrack s i f).ink = s.ink ∧ (modTrack s i f).dma = s.dma ∧
    (modTrack s i f).pool = s.pool ∧ (modTrack s i f).co = s.co ∧ (modTrack s i f).scribe = s.scribe ∧
    (modTrack s i f).power = s.power ∧ (modTrack s i f).host = s.host ∧ (modTrack s i f).reflexDue = s.reflexDue ∧
    (modTrack s i f).posted = s.posted ∧ (modTrack s i f).rlatch = s.rlatch ∧ (modTrack s i f).wlatch = s.wlatch ∧
    (modTrack s i f).readPcie = s.readPcie ∧ (modTrack s i f).readSp = s.readSp ∧
    (modTrack s i f).readScribe = s.readScribe ∧ (modTrack s i f).readBytes = s.readBytes ∧
    (modTrack s i f).free = s.free := by
  refine ⟨rfl, rfl, rfl, rfl, rfl, rfl, rfl, rfl, rfl, rfl, rfl, rfl, rfl, rfl, rfl, rfl, rfl, rfl, rfl, rfl, rfl, rfl, rfl, rfl, rfl, rfl, rfl, rfl, rfl, rfl, rfl, rfl, rfl⟩

@[simp] theorem modFb_channels (s : State) (i : FbIx) (f : Feedback → Feedback) :
    (modFb s i f).channels = modifyAt s.channels i f := rfl
@[simp] theorem modFb_keeps (s : State) (i : FbIx) (f : Feedback → Feedback) :
    (modFb s i f).pending = s.pending ∧ (modFb s i f).time = s.time ∧ (modFb s i f).folio = s.folio ∧
    (modFb s i f).quills = s.quills ∧ (modFb s i f).stores = s.stores ∧ (modFb s i f).nibs = s.nibs ∧
    (modFb s i f).links = s.links ∧ (modFb s i f).balls = s.balls ∧ (modFb s i f).safeLow = s.safeLow ∧
    (modFb s i f).streams = s.streams ∧ (modFb s i f).trackers = s.trackers ∧
    (modFb s i f).tickTrackers = s.tickTrackers ∧ (modFb s i f).comparators = s.comparators ∧
    (modFb s i f).adc = s.adc ∧ (modFb s i f).counters = s.counters ∧ (modFb s i f).eic = s.eic ∧
    (modFb s i f).blotter = s.blotter ∧ (modFb s i f).ink = s.ink ∧ (modFb s i f).dma = s.dma ∧
    (modFb s i f).pool = s.pool ∧ (modFb s i f).co = s.co ∧ (modFb s i f).scribe = s.scribe ∧
    (modFb s i f).power = s.power ∧ (modFb s i f).host = s.host ∧ (modFb s i f).reflexDue = s.reflexDue ∧
    (modFb s i f).posted = s.posted ∧ (modFb s i f).rlatch = s.rlatch ∧ (modFb s i f).wlatch = s.wlatch ∧
    (modFb s i f).readPcie = s.readPcie ∧ (modFb s i f).readSp = s.readSp ∧
    (modFb s i f).readScribe = s.readScribe ∧ (modFb s i f).readBytes = s.readBytes ∧
    (modFb s i f).free = s.free := by
  refine ⟨rfl, rfl, rfl, rfl, rfl, rfl, rfl, rfl, rfl, rfl, rfl, rfl, rfl, rfl, rfl, rfl, rfl, rfl, rfl, rfl, rfl, rfl, rfl, rfl, rfl, rfl, rfl, rfl, rfl, rfl, rfl, rfl, rfl⟩

@[simp] theorem modEmu_channels (s : State) (i : FbIx) (f : Emulator → Emulator) :
    (modEmu s i f).channels = modifyAt s.channels i fun x => { x with emu := f x.emu } := rfl
@[simp] theorem modEmu_keeps (s : State) (i : FbIx) (f : Emulator → Emulator) :
    (modEmu s i f).pending = s.pending ∧ (modEmu s i f).time = s.time ∧ (modEmu s i f).folio = s.folio ∧
    (modEmu s i f).quills = s.quills ∧ (modEmu s i f).stores = s.stores ∧ (modEmu s i f).nibs = s.nibs ∧
    (modEmu s i f).links = s.links ∧ (modEmu s i f).balls = s.balls ∧ (modEmu s i f).safeLow = s.safeLow ∧
    (modEmu s i f).streams = s.streams ∧ (modEmu s i f).trackers = s.trackers ∧
    (modEmu s i f).tickTrackers = s.tickTrackers ∧ (modEmu s i f).comparators = s.comparators ∧
    (modEmu s i f).adc = s.adc ∧ (modEmu s i f).counters = s.counters ∧ (modEmu s i f).eic = s.eic ∧
    (modEmu s i f).blotter = s.blotter ∧ (modEmu s i f).ink = s.ink ∧ (modEmu s i f).dma = s.dma ∧
    (modEmu s i f).pool = s.pool ∧ (modEmu s i f).co = s.co ∧ (modEmu s i f).scribe = s.scribe ∧
    (modEmu s i f).power = s.power ∧ (modEmu s i f).host = s.host ∧ (modEmu s i f).reflexDue = s.reflexDue ∧
    (modEmu s i f).posted = s.posted ∧ (modEmu s i f).rlatch = s.rlatch ∧ (modEmu s i f).wlatch = s.wlatch ∧
    (modEmu s i f).readPcie = s.readPcie ∧ (modEmu s i f).readSp = s.readSp ∧
    (modEmu s i f).readScribe = s.readScribe ∧ (modEmu s i f).readBytes = s.readBytes ∧
    (modEmu s i f).free = s.free := by
  refine ⟨rfl, rfl, rfl, rfl, rfl, rfl, rfl, rfl, rfl, rfl, rfl, rfl, rfl, rfl, rfl, rfl, rfl, rfl, rfl, rfl, rfl, rfl, rfl, rfl, rfl, rfl, rfl, rfl, rfl, rfl, rfl, rfl, rfl⟩

@[simp] theorem modComp_comparators (s : State) (i : AcIx) (f : Comparator → Comparator) :
    (modComp s i f).comparators = modifyAt s.comparators i f := rfl
@[simp] theorem modComp_keeps (s : State) (i : AcIx) (f : Comparator → Comparator) :
    (modComp s i f).pending = s.pending ∧ (modComp s i f).time = s.time ∧ (modComp s i f).folio = s.folio ∧
    (modComp s i f).quills = s.quills ∧ (modComp s i f).stores = s.stores ∧ (modComp s i f).nibs = s.nibs ∧
    (modComp s i f).links = s.links ∧ (modComp s i f).balls = s.balls ∧ (modComp s i f).safeLow = s.safeLow ∧
    (modComp s i f).streams = s.streams ∧ (modComp s i f).trackers = s.trackers ∧
    (modComp s i f).tickTrackers = s.tickTrackers ∧ (modComp s i f).channels = s.channels ∧
    (modComp s i f).adc = s.adc ∧ (modComp s i f).counters = s.counters ∧ (modComp s i f).eic = s.eic ∧
    (modComp s i f).blotter = s.blotter ∧ (modComp s i f).ink = s.ink ∧ (modComp s i f).dma = s.dma ∧
    (modComp s i f).pool = s.pool ∧ (modComp s i f).co = s.co ∧ (modComp s i f).scribe = s.scribe ∧
    (modComp s i f).power = s.power ∧ (modComp s i f).host = s.host ∧ (modComp s i f).reflexDue = s.reflexDue ∧
    (modComp s i f).posted = s.posted ∧ (modComp s i f).rlatch = s.rlatch ∧ (modComp s i f).wlatch = s.wlatch ∧
    (modComp s i f).readPcie = s.readPcie ∧ (modComp s i f).readSp = s.readSp ∧
    (modComp s i f).readScribe = s.readScribe ∧ (modComp s i f).readBytes = s.readBytes ∧
    (modComp s i f).free = s.free := by
  refine ⟨rfl, rfl, rfl, rfl, rfl, rfl, rfl, rfl, rfl, rfl, rfl, rfl, rfl, rfl, rfl, rfl, rfl, rfl, rfl, rfl, rfl, rfl, rfl, rfl, rfl, rfl, rfl, rfl, rfl, rfl, rfl, rfl, rfl⟩

@[simp] theorem modAdc_adc (s : State) (f : Adc → Adc) :
    (modAdc s f).adc = f s.adc := rfl
@[simp] theorem modAdc_keeps (s : State) (f : Adc → Adc) :
    (modAdc s f).pending = s.pending ∧ (modAdc s f).time = s.time ∧ (modAdc s f).folio = s.folio ∧
    (modAdc s f).quills = s.quills ∧ (modAdc s f).stores = s.stores ∧ (modAdc s f).nibs = s.nibs ∧
    (modAdc s f).links = s.links ∧ (modAdc s f).balls = s.balls ∧ (modAdc s f).safeLow = s.safeLow ∧
    (modAdc s f).streams = s.streams ∧ (modAdc s f).trackers = s.trackers ∧
    (modAdc s f).tickTrackers = s.tickTrackers ∧ (modAdc s f).channels = s.channels ∧
    (modAdc s f).comparators = s.comparators ∧ (modAdc s f).counters = s.counters ∧ (modAdc s f).eic = s.eic ∧
    (modAdc s f).blotter = s.blotter ∧ (modAdc s f).ink = s.ink ∧ (modAdc s f).dma = s.dma ∧
    (modAdc s f).pool = s.pool ∧ (modAdc s f).co = s.co ∧ (modAdc s f).scribe = s.scribe ∧
    (modAdc s f).power = s.power ∧ (modAdc s f).host = s.host ∧ (modAdc s f).reflexDue = s.reflexDue ∧
    (modAdc s f).posted = s.posted ∧ (modAdc s f).rlatch = s.rlatch ∧ (modAdc s f).wlatch = s.wlatch ∧
    (modAdc s f).readPcie = s.readPcie ∧ (modAdc s f).readSp = s.readSp ∧ (modAdc s f).readScribe = s.readScribe ∧
    (modAdc s f).readBytes = s.readBytes ∧ (modAdc s f).free = s.free := by
  refine ⟨rfl, rfl, rfl, rfl, rfl, rfl, rfl, rfl, rfl, rfl, rfl, rfl, rfl, rfl, rfl, rfl, rfl, rfl, rfl, rfl, rfl, rfl, rfl, rfl, rfl, rfl, rfl, rfl, rfl, rfl, rfl, rfl, rfl⟩

@[simp] theorem modCe_counters (s : State) (i : CeIx) (f : Counter → Counter) :
    (modCe s i f).counters = modifyAt s.counters i f := rfl
@[simp] theorem modCe_keeps (s : State) (i : CeIx) (f : Counter → Counter) :
    (modCe s i f).pending = s.pending ∧ (modCe s i f).time = s.time ∧ (modCe s i f).folio = s.folio ∧
    (modCe s i f).quills = s.quills ∧ (modCe s i f).stores = s.stores ∧ (modCe s i f).nibs = s.nibs ∧
    (modCe s i f).links = s.links ∧ (modCe s i f).balls = s.balls ∧ (modCe s i f).safeLow = s.safeLow ∧
    (modCe s i f).streams = s.streams ∧ (modCe s i f).trackers = s.trackers ∧
    (modCe s i f).tickTrackers = s.tickTrackers ∧ (modCe s i f).channels = s.channels ∧
    (modCe s i f).comparators = s.comparators ∧ (modCe s i f).adc = s.adc ∧ (modCe s i f).eic = s.eic ∧
    (modCe s i f).blotter = s.blotter ∧ (modCe s i f).ink = s.ink ∧ (modCe s i f).dma = s.dma ∧
    (modCe s i f).pool = s.pool ∧ (modCe s i f).co = s.co ∧ (modCe s i f).scribe = s.scribe ∧
    (modCe s i f).power = s.power ∧ (modCe s i f).host = s.host ∧ (modCe s i f).reflexDue = s.reflexDue ∧
    (modCe s i f).posted = s.posted ∧ (modCe s i f).rlatch = s.rlatch ∧ (modCe s i f).wlatch = s.wlatch ∧
    (modCe s i f).readPcie = s.readPcie ∧ (modCe s i f).readSp = s.readSp ∧
    (modCe s i f).readScribe = s.readScribe ∧ (modCe s i f).readBytes = s.readBytes ∧
    (modCe s i f).free = s.free := by
  refine ⟨rfl, rfl, rfl, rfl, rfl, rfl, rfl, rfl, rfl, rfl, rfl, rfl, rfl, rfl, rfl, rfl, rfl, rfl, rfl, rfl, rfl, rfl, rfl, rfl, rfl, rfl, rfl, rfl, rfl, rfl, rfl, rfl, rfl⟩

@[simp] theorem modPps_time (s : State) (f : PpsSt → PpsSt) :
    (modPps s f).time = { s.time with pps := f s.time.pps } := rfl
@[simp] theorem modPps_keeps (s : State) (f : PpsSt → PpsSt) :
    (modPps s f).pending = s.pending ∧ (modPps s f).folio = s.folio ∧ (modPps s f).quills = s.quills ∧
    (modPps s f).stores = s.stores ∧ (modPps s f).nibs = s.nibs ∧ (modPps s f).links = s.links ∧
    (modPps s f).balls = s.balls ∧ (modPps s f).safeLow = s.safeLow ∧ (modPps s f).streams = s.streams ∧
    (modPps s f).trackers = s.trackers ∧ (modPps s f).tickTrackers = s.tickTrackers ∧
    (modPps s f).channels = s.channels ∧ (modPps s f).comparators = s.comparators ∧ (modPps s f).adc = s.adc ∧
    (modPps s f).counters = s.counters ∧ (modPps s f).eic = s.eic ∧ (modPps s f).blotter = s.blotter ∧
    (modPps s f).ink = s.ink ∧ (modPps s f).dma = s.dma ∧ (modPps s f).pool = s.pool ∧ (modPps s f).co = s.co ∧
    (modPps s f).scribe = s.scribe ∧ (modPps s f).power = s.power ∧ (modPps s f).host = s.host ∧
    (modPps s f).reflexDue = s.reflexDue ∧ (modPps s f).posted = s.posted ∧ (modPps s f).rlatch = s.rlatch ∧
    (modPps s f).wlatch = s.wlatch ∧ (modPps s f).readPcie = s.readPcie ∧ (modPps s f).readSp = s.readSp ∧
    (modPps s f).readScribe = s.readScribe ∧ (modPps s f).readBytes = s.readBytes ∧ (modPps s f).free = s.free := by
  refine ⟨rfl, rfl, rfl, rfl, rfl, rfl, rfl, rfl, rfl, rfl, rfl, rfl, rfl, rfl, rfl, rfl, rfl, rfl, rfl, rfl, rfl, rfl, rfl, rfl, rfl, rfl, rfl, rfl, rfl, rfl, rfl, rfl, rfl⟩

@[simp] theorem modSync_time (s : State) (f : SyncSt → SyncSt) :
    (modSync s f).time = { s.time with sync := f s.time.sync } := rfl
@[simp] theorem modSync_keeps (s : State) (f : SyncSt → SyncSt) :
    (modSync s f).pending = s.pending ∧ (modSync s f).folio = s.folio ∧ (modSync s f).quills = s.quills ∧
    (modSync s f).stores = s.stores ∧ (modSync s f).nibs = s.nibs ∧ (modSync s f).links = s.links ∧
    (modSync s f).balls = s.balls ∧ (modSync s f).safeLow = s.safeLow ∧ (modSync s f).streams = s.streams ∧
    (modSync s f).trackers = s.trackers ∧ (modSync s f).tickTrackers = s.tickTrackers ∧
    (modSync s f).channels = s.channels ∧ (modSync s f).comparators = s.comparators ∧ (modSync s f).adc = s.adc ∧
    (modSync s f).counters = s.counters ∧ (modSync s f).eic = s.eic ∧ (modSync s f).blotter = s.blotter ∧
    (modSync s f).ink = s.ink ∧ (modSync s f).dma = s.dma ∧ (modSync s f).pool = s.pool ∧ (modSync s f).co = s.co ∧
    (modSync s f).scribe = s.scribe ∧ (modSync s f).power = s.power ∧ (modSync s f).host = s.host ∧
    (modSync s f).reflexDue = s.reflexDue ∧ (modSync s f).posted = s.posted ∧ (modSync s f).rlatch = s.rlatch ∧
    (modSync s f).wlatch = s.wlatch ∧ (modSync s f).readPcie = s.readPcie ∧ (modSync s f).readSp = s.readSp ∧
    (modSync s f).readScribe = s.readScribe ∧ (modSync s f).readBytes = s.readBytes ∧
    (modSync s f).free = s.free := by
  refine ⟨rfl, rfl, rfl, rfl, rfl, rfl, rfl, rfl, rfl, rfl, rfl, rfl, rfl, rfl, rfl, rfl, rfl, rfl, rfl, rfl, rfl, rfl, rfl, rfl, rfl, rfl, rfl, rfl, rfl, rfl, rfl, rfl, rfl⟩

@[simp] theorem modEic_eic (s : State) (f : Eic → Eic) :
    (modEic s f).eic = f s.eic := rfl
@[simp] theorem modEic_keeps (s : State) (f : Eic → Eic) :
    (modEic s f).pending = s.pending ∧ (modEic s f).time = s.time ∧ (modEic s f).folio = s.folio ∧
    (modEic s f).quills = s.quills ∧ (modEic s f).stores = s.stores ∧ (modEic s f).nibs = s.nibs ∧
    (modEic s f).links = s.links ∧ (modEic s f).balls = s.balls ∧ (modEic s f).safeLow = s.safeLow ∧
    (modEic s f).streams = s.streams ∧ (modEic s f).trackers = s.trackers ∧
    (modEic s f).tickTrackers = s.tickTrackers ∧ (modEic s f).channels = s.channels ∧
    (modEic s f).comparators = s.comparators ∧ (modEic s f).adc = s.adc ∧ (modEic s f).counters = s.counters ∧
    (modEic s f).blotter = s.blotter ∧ (modEic s f).ink = s.ink ∧ (modEic s f).dma = s.dma ∧
    (modEic s f).pool = s.pool ∧ (modEic s f).co = s.co ∧ (modEic s f).scribe = s.scribe ∧
    (modEic s f).power = s.power ∧ (modEic s f).host = s.host ∧ (modEic s f).reflexDue = s.reflexDue ∧
    (modEic s f).posted = s.posted ∧ (modEic s f).rlatch = s.rlatch ∧ (modEic s f).wlatch = s.wlatch ∧
    (modEic s f).readPcie = s.readPcie ∧ (modEic s f).readSp = s.readSp ∧ (modEic s f).readScribe = s.readScribe ∧
    (modEic s f).readBytes = s.readBytes ∧ (modEic s f).free = s.free := by
  refine ⟨rfl, rfl, rfl, rfl, rfl, rfl, rfl, rfl, rfl, rfl, rfl, rfl, rfl, rfl, rfl, rfl, rfl, rfl, rfl, rfl, rfl, rfl, rfl, rfl, rfl, rfl, rfl, rfl, rfl, rfl, rfl, rfl, rfl⟩

@[simp] theorem modSource_eic (s : State) (i : SrcIx) (f : EicSource → EicSource) :
    (modSource s i f).eic = { s.eic with sources := modifyAt s.eic.sources i f } := rfl
@[simp] theorem modSource_keeps (s : State) (i : SrcIx) (f : EicSource → EicSource) :
    (modSource s i f).pending = s.pending ∧ (modSource s i f).time = s.time ∧ (modSource s i f).folio = s.folio ∧
    (modSource s i f).quills = s.quills ∧ (modSource s i f).stores = s.stores ∧ (modSource s i f).nibs = s.nibs ∧
    (modSource s i f).links = s.links ∧ (modSource s i f).balls = s.balls ∧ (modSource s i f).safeLow = s.safeLow ∧
    (modSource s i f).streams = s.streams ∧ (modSource s i f).trackers = s.trackers ∧
    (modSource s i f).tickTrackers = s.tickTrackers ∧ (modSource s i f).channels = s.channels ∧
    (modSource s i f).comparators = s.comparators ∧ (modSource s i f).adc = s.adc ∧
    (modSource s i f).counters = s.counters ∧ (modSource s i f).blotter = s.blotter ∧
    (modSource s i f).ink = s.ink ∧ (modSource s i f).dma = s.dma ∧ (modSource s i f).pool = s.pool ∧
    (modSource s i f).co = s.co ∧ (modSource s i f).scribe = s.scribe ∧ (modSource s i f).power = s.power ∧
    (modSource s i f).host = s.host ∧ (modSource s i f).reflexDue = s.reflexDue ∧
    (modSource s i f).posted = s.posted ∧ (modSource s i f).rlatch = s.rlatch ∧
    (modSource s i f).wlatch = s.wlatch ∧ (modSource s i f).readPcie = s.readPcie ∧
    (modSource s i f).readSp = s.readSp ∧ (modSource s i f).readScribe = s.readScribe ∧
    (modSource s i f).readBytes = s.readBytes ∧ (modSource s i f).free = s.free := by
  refine ⟨rfl, rfl, rfl, rfl, rfl, rfl, rfl, rfl, rfl, rfl, rfl, rfl, rfl, rfl, rfl, rfl, rfl, rfl, rfl, rfl, rfl, rfl, rfl, rfl, rfl, rfl, rfl, rfl, rfl, rfl, rfl, rfl, rfl⟩

@[simp] theorem modGroup_eic (s : State) (i : Fin 64) (f : EicGroup → EicGroup) :
    (modGroup s i f).eic = { s.eic with groups := modifyAt s.eic.groups i f } := rfl
@[simp] theorem modGroup_keeps (s : State) (i : Fin 64) (f : EicGroup → EicGroup) :
    (modGroup s i f).pending = s.pending ∧ (modGroup s i f).time = s.time ∧ (modGroup s i f).folio = s.folio ∧
    (modGroup s i f).quills = s.quills ∧ (modGroup s i f).stores = s.stores ∧ (modGroup s i f).nibs = s.nibs ∧
    (modGroup s i f).links = s.links ∧ (modGroup s i f).balls = s.balls ∧ (modGroup s i f).safeLow = s.safeLow ∧
    (modGroup s i f).streams = s.streams ∧ (modGroup s i f).trackers = s.trackers ∧
    (modGroup s i f).tickTrackers = s.tickTrackers ∧ (modGroup s i f).channels = s.channels ∧
    (modGroup s i f).comparators = s.comparators ∧ (modGroup s i f).adc = s.adc ∧
    (modGroup s i f).counters = s.counters ∧ (modGroup s i f).blotter = s.blotter ∧ (modGroup s i f).ink = s.ink ∧
    (modGroup s i f).dma = s.dma ∧ (modGroup s i f).pool = s.pool ∧ (modGroup s i f).co = s.co ∧
    (modGroup s i f).scribe = s.scribe ∧ (modGroup s i f).power = s.power ∧ (modGroup s i f).host = s.host ∧
    (modGroup s i f).reflexDue = s.reflexDue ∧ (modGroup s i f).posted = s.posted ∧
    (modGroup s i f).rlatch = s.rlatch ∧ (modGroup s i f).wlatch = s.wlatch ∧
    (modGroup s i f).readPcie = s.readPcie ∧ (modGroup s i f).readSp = s.readSp ∧
    (modGroup s i f).readScribe = s.readScribe ∧ (modGroup s i f).readBytes = s.readBytes ∧
    (modGroup s i f).free = s.free := by
  refine ⟨rfl, rfl, rfl, rfl, rfl, rfl, rfl, rfl, rfl, rfl, rfl, rfl, rfl, rfl, rfl, rfl, rfl, rfl, rfl, rfl, rfl, rfl, rfl, rfl, rfl, rfl, rfl, rfl, rfl, rfl, rfl, rfl, rfl⟩

@[simp] theorem modClass_blotter (s : State) (i : ClassIx) (f : FaultClass → FaultClass) :
    (modClass s i f).blotter = { s.blotter with classes := modifyAt s.blotter.classes i f } := rfl
@[simp] theorem modClass_keeps (s : State) (i : ClassIx) (f : FaultClass → FaultClass) :
    (modClass s i f).pending = s.pending ∧ (modClass s i f).time = s.time ∧ (modClass s i f).folio = s.folio ∧
    (modClass s i f).quills = s.quills ∧ (modClass s i f).stores = s.stores ∧ (modClass s i f).nibs = s.nibs ∧
    (modClass s i f).links = s.links ∧ (modClass s i f).balls = s.balls ∧ (modClass s i f).safeLow = s.safeLow ∧
    (modClass s i f).streams = s.streams ∧ (modClass s i f).trackers = s.trackers ∧
    (modClass s i f).tickTrackers = s.tickTrackers ∧ (modClass s i f).channels = s.channels ∧
    (modClass s i f).comparators = s.comparators ∧ (modClass s i f).adc = s.adc ∧
    (modClass s i f).counters = s.counters ∧ (modClass s i f).eic = s.eic ∧ (modClass s i f).ink = s.ink ∧
    (modClass s i f).dma = s.dma ∧ (modClass s i f).pool = s.pool ∧ (modClass s i f).co = s.co ∧
    (modClass s i f).scribe = s.scribe ∧ (modClass s i f).power = s.power ∧ (modClass s i f).host = s.host ∧
    (modClass s i f).reflexDue = s.reflexDue ∧ (modClass s i f).posted = s.posted ∧
    (modClass s i f).rlatch = s.rlatch ∧ (modClass s i f).wlatch = s.wlatch ∧
    (modClass s i f).readPcie = s.readPcie ∧ (modClass s i f).readSp = s.readSp ∧
    (modClass s i f).readScribe = s.readScribe ∧ (modClass s i f).readBytes = s.readBytes ∧
    (modClass s i f).free = s.free := by
  refine ⟨rfl, rfl, rfl, rfl, rfl, rfl, rfl, rfl, rfl, rfl, rfl, rfl, rfl, rfl, rfl, rfl, rfl, rfl, rfl, rfl, rfl, rfl, rfl, rfl, rfl, rfl, rfl, rfl, rfl, rfl, rfl, rfl, rfl⟩

@[simp] theorem modBank_ink (s : State) (i : InkIx) (f : Inkwell → Inkwell) :
    (modBank s i f).ink = { s.ink with banks := modifyAt s.ink.banks i f } := rfl
@[simp] theorem modBank_keeps (s : State) (i : InkIx) (f : Inkwell → Inkwell) :
    (modBank s i f).pending = s.pending ∧ (modBank s i f).time = s.time ∧ (modBank s i f).folio = s.folio ∧
    (modBank s i f).quills = s.quills ∧ (modBank s i f).stores = s.stores ∧ (modBank s i f).nibs = s.nibs ∧
    (modBank s i f).links = s.links ∧ (modBank s i f).balls = s.balls ∧ (modBank s i f).safeLow = s.safeLow ∧
    (modBank s i f).streams = s.streams ∧ (modBank s i f).trackers = s.trackers ∧
    (modBank s i f).tickTrackers = s.tickTrackers ∧ (modBank s i f).channels = s.channels ∧
    (modBank s i f).comparators = s.comparators ∧ (modBank s i f).adc = s.adc ∧
    (modBank s i f).counters = s.counters ∧ (modBank s i f).eic = s.eic ∧ (modBank s i f).blotter = s.blotter ∧
    (modBank s i f).dma = s.dma ∧ (modBank s i f).pool = s.pool ∧ (modBank s i f).co = s.co ∧
    (modBank s i f).scribe = s.scribe ∧ (modBank s i f).power = s.power ∧ (modBank s i f).host = s.host ∧
    (modBank s i f).reflexDue = s.reflexDue ∧ (modBank s i f).posted = s.posted ∧
    (modBank s i f).rlatch = s.rlatch ∧ (modBank s i f).wlatch = s.wlatch ∧ (modBank s i f).readPcie = s.readPcie ∧
    (modBank s i f).readSp = s.readSp ∧ (modBank s i f).readScribe = s.readScribe ∧
    (modBank s i f).readBytes = s.readBytes ∧ (modBank s i f).free = s.free := by
  refine ⟨rfl, rfl, rfl, rfl, rfl, rfl, rfl, rfl, rfl, rfl, rfl, rfl, rfl, rfl, rfl, rfl, rfl, rfl, rfl, rfl, rfl, rfl, rfl, rfl, rfl, rfl, rfl, rfl, rfl, rfl, rfl, rfl, rfl⟩

@[simp] theorem modDma_dma (s : State) (f : DmaSt → DmaSt) :
    (modDma s f).dma = f s.dma := rfl
@[simp] theorem modDma_keeps (s : State) (f : DmaSt → DmaSt) :
    (modDma s f).pending = s.pending ∧ (modDma s f).time = s.time ∧ (modDma s f).folio = s.folio ∧
    (modDma s f).quills = s.quills ∧ (modDma s f).stores = s.stores ∧ (modDma s f).nibs = s.nibs ∧
    (modDma s f).links = s.links ∧ (modDma s f).balls = s.balls ∧ (modDma s f).safeLow = s.safeLow ∧
    (modDma s f).streams = s.streams ∧ (modDma s f).trackers = s.trackers ∧
    (modDma s f).tickTrackers = s.tickTrackers ∧ (modDma s f).channels = s.channels ∧
    (modDma s f).comparators = s.comparators ∧ (modDma s f).adc = s.adc ∧ (modDma s f).counters = s.counters ∧
    (modDma s f).eic = s.eic ∧ (modDma s f).blotter = s.blotter ∧ (modDma s f).ink = s.ink ∧
    (modDma s f).pool = s.pool ∧ (modDma s f).co = s.co ∧ (modDma s f).scribe = s.scribe ∧
    (modDma s f).power = s.power ∧ (modDma s f).host = s.host ∧ (modDma s f).reflexDue = s.reflexDue ∧
    (modDma s f).posted = s.posted ∧ (modDma s f).rlatch = s.rlatch ∧ (modDma s f).wlatch = s.wlatch ∧
    (modDma s f).readPcie = s.readPcie ∧ (modDma s f).readSp = s.readSp ∧ (modDma s f).readScribe = s.readScribe ∧
    (modDma s f).readBytes = s.readBytes ∧ (modDma s f).free = s.free := by
  refine ⟨rfl, rfl, rfl, rfl, rfl, rfl, rfl, rfl, rfl, rfl, rfl, rfl, rfl, rfl, rfl, rfl, rfl, rfl, rfl, rfl, rfl, rfl, rfl, rfl, rfl, rfl, rfl, rfl, rfl, rfl, rfl, rfl, rfl⟩

@[simp] theorem modChan_dma (s : State) (i : DmaIx) (f : DmaChan → DmaChan) :
    (modChan s i f).dma = { s.dma with chans := modifyAt s.dma.chans i f } := rfl
@[simp] theorem modChan_keeps (s : State) (i : DmaIx) (f : DmaChan → DmaChan) :
    (modChan s i f).pending = s.pending ∧ (modChan s i f).time = s.time ∧ (modChan s i f).folio = s.folio ∧
    (modChan s i f).quills = s.quills ∧ (modChan s i f).stores = s.stores ∧ (modChan s i f).nibs = s.nibs ∧
    (modChan s i f).links = s.links ∧ (modChan s i f).balls = s.balls ∧ (modChan s i f).safeLow = s.safeLow ∧
    (modChan s i f).streams = s.streams ∧ (modChan s i f).trackers = s.trackers ∧
    (modChan s i f).tickTrackers = s.tickTrackers ∧ (modChan s i f).channels = s.channels ∧
    (modChan s i f).comparators = s.comparators ∧ (modChan s i f).adc = s.adc ∧
    (modChan s i f).counters = s.counters ∧ (modChan s i f).eic = s.eic ∧ (modChan s i f).blotter = s.blotter ∧
    (modChan s i f).ink = s.ink ∧ (modChan s i f).pool = s.pool ∧ (modChan s i f).co = s.co ∧
    (modChan s i f).scribe = s.scribe ∧ (modChan s i f).power = s.power ∧ (modChan s i f).host = s.host ∧
    (modChan s i f).reflexDue = s.reflexDue ∧ (modChan s i f).posted = s.posted ∧
    (modChan s i f).rlatch = s.rlatch ∧ (modChan s i f).wlatch = s.wlatch ∧ (modChan s i f).readPcie = s.readPcie ∧
    (modChan s i f).readSp = s.readSp ∧ (modChan s i f).readScribe = s.readScribe ∧
    (modChan s i f).readBytes = s.readBytes ∧ (modChan s i f).free = s.free := by
  refine ⟨rfl, rfl, rfl, rfl, rfl, rfl, rfl, rfl, rfl, rfl, rfl, rfl, rfl, rfl, rfl, rfl, rfl, rfl, rfl, rfl, rfl, rfl, rfl, rfl, rfl, rfl, rfl, rfl, rfl, rfl, rfl, rfl, rfl⟩

@[simp] theorem modRing_dma (s : State) (i : RingIx) (f : CqRing → CqRing) :
    (modRing s i f).dma = { s.dma with rings := modifyAt s.dma.rings i f } := rfl
@[simp] theorem modRing_keeps (s : State) (i : RingIx) (f : CqRing → CqRing) :
    (modRing s i f).pending = s.pending ∧ (modRing s i f).time = s.time ∧ (modRing s i f).folio = s.folio ∧
    (modRing s i f).quills = s.quills ∧ (modRing s i f).stores = s.stores ∧ (modRing s i f).nibs = s.nibs ∧
    (modRing s i f).links = s.links ∧ (modRing s i f).balls = s.balls ∧ (modRing s i f).safeLow = s.safeLow ∧
    (modRing s i f).streams = s.streams ∧ (modRing s i f).trackers = s.trackers ∧
    (modRing s i f).tickTrackers = s.tickTrackers ∧ (modRing s i f).channels = s.channels ∧
    (modRing s i f).comparators = s.comparators ∧ (modRing s i f).adc = s.adc ∧
    (modRing s i f).counters = s.counters ∧ (modRing s i f).eic = s.eic ∧ (modRing s i f).blotter = s.blotter ∧
    (modRing s i f).ink = s.ink ∧ (modRing s i f).pool = s.pool ∧ (modRing s i f).co = s.co ∧
    (modRing s i f).scribe = s.scribe ∧ (modRing s i f).power = s.power ∧ (modRing s i f).host = s.host ∧
    (modRing s i f).reflexDue = s.reflexDue ∧ (modRing s i f).posted = s.posted ∧
    (modRing s i f).rlatch = s.rlatch ∧ (modRing s i f).wlatch = s.wlatch ∧ (modRing s i f).readPcie = s.readPcie ∧
    (modRing s i f).readSp = s.readSp ∧ (modRing s i f).readScribe = s.readScribe ∧
    (modRing s i f).readBytes = s.readBytes ∧ (modRing s i f).free = s.free := by
  refine ⟨rfl, rfl, rfl, rfl, rfl, rfl, rfl, rfl, rfl, rfl, rfl, rfl, rfl, rfl, rfl, rfl, rfl, rfl, rfl, rfl, rfl, rfl, rfl, rfl, rfl, rfl, rfl, rfl, rfl, rfl, rfl, rfl, rfl⟩

@[simp] theorem modPool_pool (s : State) (f : PoolSt → PoolSt) :
    (modPool s f).pool = f s.pool := rfl
@[simp] theorem modPool_keeps (s : State) (f : PoolSt → PoolSt) :
    (modPool s f).pending = s.pending ∧ (modPool s f).time = s.time ∧ (modPool s f).folio = s.folio ∧
    (modPool s f).quills = s.quills ∧ (modPool s f).stores = s.stores ∧ (modPool s f).nibs = s.nibs ∧
    (modPool s f).links = s.links ∧ (modPool s f).balls = s.balls ∧ (modPool s f).safeLow = s.safeLow ∧
    (modPool s f).streams = s.streams ∧ (modPool s f).trackers = s.trackers ∧
    (modPool s f).tickTrackers = s.tickTrackers ∧ (modPool s f).channels = s.channels ∧
    (modPool s f).comparators = s.comparators ∧ (modPool s f).adc = s.adc ∧ (modPool s f).counters = s.counters ∧
    (modPool s f).eic = s.eic ∧ (modPool s f).blotter = s.blotter ∧ (modPool s f).ink = s.ink ∧
    (modPool s f).dma = s.dma ∧ (modPool s f).co = s.co ∧ (modPool s f).scribe = s.scribe ∧
    (modPool s f).power = s.power ∧ (modPool s f).host = s.host ∧ (modPool s f).reflexDue = s.reflexDue ∧
    (modPool s f).posted = s.posted ∧ (modPool s f).rlatch = s.rlatch ∧ (modPool s f).wlatch = s.wlatch ∧
    (modPool s f).readPcie = s.readPcie ∧ (modPool s f).readSp = s.readSp ∧
    (modPool s f).readScribe = s.readScribe ∧ (modPool s f).readBytes = s.readBytes ∧
    (modPool s f).free = s.free := by
  refine ⟨rfl, rfl, rfl, rfl, rfl, rfl, rfl, rfl, rfl, rfl, rfl, rfl, rfl, rfl, rfl, rfl, rfl, rfl, rfl, rfl, rfl, rfl, rfl, rfl, rfl, rfl, rfl, rfl, rfl, rfl, rfl, rfl, rfl⟩

@[simp] theorem modCo_co (s : State) (f : CoSt → CoSt) :
    (modCo s f).co = f s.co := rfl
@[simp] theorem modCo_keeps (s : State) (f : CoSt → CoSt) :
    (modCo s f).pending = s.pending ∧ (modCo s f).time = s.time ∧ (modCo s f).folio = s.folio ∧
    (modCo s f).quills = s.quills ∧ (modCo s f).stores = s.stores ∧ (modCo s f).nibs = s.nibs ∧
    (modCo s f).links = s.links ∧ (modCo s f).balls = s.balls ∧ (modCo s f).safeLow = s.safeLow ∧
    (modCo s f).streams = s.streams ∧ (modCo s f).trackers = s.trackers ∧
    (modCo s f).tickTrackers = s.tickTrackers ∧ (modCo s f).channels = s.channels ∧
    (modCo s f).comparators = s.comparators ∧ (modCo s f).adc = s.adc ∧ (modCo s f).counters = s.counters ∧
    (modCo s f).eic = s.eic ∧ (modCo s f).blotter = s.blotter ∧ (modCo s f).ink = s.ink ∧ (modCo s f).dma = s.dma ∧
    (modCo s f).pool = s.pool ∧ (modCo s f).scribe = s.scribe ∧ (modCo s f).power = s.power ∧
    (modCo s f).host = s.host ∧ (modCo s f).reflexDue = s.reflexDue ∧ (modCo s f).posted = s.posted ∧
    (modCo s f).rlatch = s.rlatch ∧ (modCo s f).wlatch = s.wlatch ∧ (modCo s f).readPcie = s.readPcie ∧
    (modCo s f).readSp = s.readSp ∧ (modCo s f).readScribe = s.readScribe ∧ (modCo s f).readBytes = s.readBytes ∧
    (modCo s f).free = s.free := by
  refine ⟨rfl, rfl, rfl, rfl, rfl, rfl, rfl, rfl, rfl, rfl, rfl, rfl, rfl, rfl, rfl, rfl, rfl, rfl, rfl, rfl, rfl, rfl, rfl, rfl, rfl, rfl, rfl, rfl, rfl, rfl, rfl, rfl, rfl⟩

@[simp] theorem modScribe_scribe (s : State) (f : Scribe → Scribe) :
    (modScribe s f).scribe = f s.scribe := rfl
@[simp] theorem modScribe_keeps (s : State) (f : Scribe → Scribe) :
    (modScribe s f).pending = s.pending ∧ (modScribe s f).time = s.time ∧ (modScribe s f).folio = s.folio ∧
    (modScribe s f).quills = s.quills ∧ (modScribe s f).stores = s.stores ∧ (modScribe s f).nibs = s.nibs ∧
    (modScribe s f).links = s.links ∧ (modScribe s f).balls = s.balls ∧ (modScribe s f).safeLow = s.safeLow ∧
    (modScribe s f).streams = s.streams ∧ (modScribe s f).trackers = s.trackers ∧
    (modScribe s f).tickTrackers = s.tickTrackers ∧ (modScribe s f).channels = s.channels ∧
    (modScribe s f).comparators = s.comparators ∧ (modScribe s f).adc = s.adc ∧
    (modScribe s f).counters = s.counters ∧ (modScribe s f).eic = s.eic ∧ (modScribe s f).blotter = s.blotter ∧
    (modScribe s f).ink = s.ink ∧ (modScribe s f).dma = s.dma ∧ (modScribe s f).pool = s.pool ∧
    (modScribe s f).co = s.co ∧ (modScribe s f).power = s.power ∧ (modScribe s f).host = s.host ∧
    (modScribe s f).reflexDue = s.reflexDue ∧ (modScribe s f).posted = s.posted ∧
    (modScribe s f).rlatch = s.rlatch ∧ (modScribe s f).wlatch = s.wlatch ∧ (modScribe s f).readPcie = s.readPcie ∧
    (modScribe s f).readSp = s.readSp ∧ (modScribe s f).readScribe = s.readScribe ∧
    (modScribe s f).readBytes = s.readBytes ∧ (modScribe s f).free = s.free := by
  refine ⟨rfl, rfl, rfl, rfl, rfl, rfl, rfl, rfl, rfl, rfl, rfl, rfl, rfl, rfl, rfl, rfl, rfl, rfl, rfl, rfl, rfl, rfl, rfl, rfl, rfl, rfl, rfl, rfl, rfl, rfl, rfl, rfl, rfl⟩

@[simp] theorem modHost_host (s : State) (f : HostSt → HostSt) :
    (modHost s f).host = f s.host := rfl
@[simp] theorem modHost_keeps (s : State) (f : HostSt → HostSt) :
    (modHost s f).pending = s.pending ∧ (modHost s f).time = s.time ∧ (modHost s f).folio = s.folio ∧
    (modHost s f).quills = s.quills ∧ (modHost s f).stores = s.stores ∧ (modHost s f).nibs = s.nibs ∧
    (modHost s f).links = s.links ∧ (modHost s f).balls = s.balls ∧ (modHost s f).safeLow = s.safeLow ∧
    (modHost s f).streams = s.streams ∧ (modHost s f).trackers = s.trackers ∧
    (modHost s f).tickTrackers = s.tickTrackers ∧ (modHost s f).channels = s.channels ∧
    (modHost s f).comparators = s.comparators ∧ (modHost s f).adc = s.adc ∧ (modHost s f).counters = s.counters ∧
    (modHost s f).eic = s.eic ∧ (modHost s f).blotter = s.blotter ∧ (modHost s f).ink = s.ink ∧
    (modHost s f).dma = s.dma ∧ (modHost s f).pool = s.pool ∧ (modHost s f).co = s.co ∧
    (modHost s f).scribe = s.scribe ∧ (modHost s f).power = s.power ∧ (modHost s f).reflexDue = s.reflexDue ∧
    (modHost s f).posted = s.posted ∧ (modHost s f).rlatch = s.rlatch ∧ (modHost s f).wlatch = s.wlatch ∧
    (modHost s f).readPcie = s.readPcie ∧ (modHost s f).readSp = s.readSp ∧
    (modHost s f).readScribe = s.readScribe ∧ (modHost s f).readBytes = s.readBytes ∧
    (modHost s f).free = s.free := by
  refine ⟨rfl, rfl, rfl, rfl, rfl, rfl, rfl, rfl, rfl, rfl, rfl, rfl, rfl, rfl, rfl, rfl, rfl, rfl, rfl, rfl, rfl, rfl, rfl, rfl, rfl, rfl, rfl, rfl, rfl, rfl, rfl, rfl, rfl⟩

@[simp] theorem modFolio_folio (s : State) (f : FolioSt → FolioSt) :
    (modFolio s f).folio = f s.folio := rfl
@[simp] theorem modFolio_keeps (s : State) (f : FolioSt → FolioSt) :
    (modFolio s f).pending = s.pending ∧ (modFolio s f).time = s.time ∧ (modFolio s f).quills = s.quills ∧
    (modFolio s f).stores = s.stores ∧ (modFolio s f).nibs = s.nibs ∧ (modFolio s f).links = s.links ∧
    (modFolio s f).balls = s.balls ∧ (modFolio s f).safeLow = s.safeLow ∧ (modFolio s f).streams = s.streams ∧
    (modFolio s f).trackers = s.trackers ∧ (modFolio s f).tickTrackers = s.tickTrackers ∧
    (modFolio s f).channels = s.channels ∧ (modFolio s f).comparators = s.comparators ∧
    (modFolio s f).adc = s.adc ∧ (modFolio s f).counters = s.counters ∧ (modFolio s f).eic = s.eic ∧
    (modFolio s f).blotter = s.blotter ∧ (modFolio s f).ink = s.ink ∧ (modFolio s f).dma = s.dma ∧
    (modFolio s f).pool = s.pool ∧ (modFolio s f).co = s.co ∧ (modFolio s f).scribe = s.scribe ∧
    (modFolio s f).power = s.power ∧ (modFolio s f).host = s.host ∧ (modFolio s f).reflexDue = s.reflexDue ∧
    (modFolio s f).posted = s.posted ∧ (modFolio s f).rlatch = s.rlatch ∧ (modFolio s f).wlatch = s.wlatch ∧
    (modFolio s f).readPcie = s.readPcie ∧ (modFolio s f).readSp = s.readSp ∧
    (modFolio s f).readScribe = s.readScribe ∧ (modFolio s f).readBytes = s.readBytes ∧
    (modFolio s f).free = s.free := by
  refine ⟨rfl, rfl, rfl, rfl, rfl, rfl, rfl, rfl, rfl, rfl, rfl, rfl, rfl, rfl, rfl, rfl, rfl, rfl, rfl, rfl, rfl, rfl, rfl, rfl, rfl, rfl, rfl, rfl, rfl, rfl, rfl, rfl, rfl⟩

@[simp] theorem modTime_time (s : State) (f : TimeSt → TimeSt) :
    (modTime s f).time = f s.time := rfl
@[simp] theorem modTime_keeps (s : State) (f : TimeSt → TimeSt) :
    (modTime s f).pending = s.pending ∧ (modTime s f).folio = s.folio ∧ (modTime s f).quills = s.quills ∧
    (modTime s f).stores = s.stores ∧ (modTime s f).nibs = s.nibs ∧ (modTime s f).links = s.links ∧
    (modTime s f).balls = s.balls ∧ (modTime s f).safeLow = s.safeLow ∧ (modTime s f).streams = s.streams ∧
    (modTime s f).trackers = s.trackers ∧ (modTime s f).tickTrackers = s.tickTrackers ∧
    (modTime s f).channels = s.channels ∧ (modTime s f).comparators = s.comparators ∧ (modTime s f).adc = s.adc ∧
    (modTime s f).counters = s.counters ∧ (modTime s f).eic = s.eic ∧ (modTime s f).blotter = s.blotter ∧
    (modTime s f).ink = s.ink ∧ (modTime s f).dma = s.dma ∧ (modTime s f).pool = s.pool ∧ (modTime s f).co = s.co ∧
    (modTime s f).scribe = s.scribe ∧ (modTime s f).power = s.power ∧ (modTime s f).host = s.host ∧
    (modTime s f).reflexDue = s.reflexDue ∧ (modTime s f).posted = s.posted ∧ (modTime s f).rlatch = s.rlatch ∧
    (modTime s f).wlatch = s.wlatch ∧ (modTime s f).readPcie = s.readPcie ∧ (modTime s f).readSp = s.readSp ∧
    (modTime s f).readScribe = s.readScribe ∧ (modTime s f).readBytes = s.readBytes ∧
    (modTime s f).free = s.free := by
  refine ⟨rfl, rfl, rfl, rfl, rfl, rfl, rfl, rfl, rfl, rfl, rfl, rfl, rfl, rfl, rfl, rfl, rfl, rfl, rfl, rfl, rfl, rfl, rfl, rfl, rfl, rfl, rfl, rfl, rfl, rfl, rfl, rfl, rfl⟩

@[simp] theorem modBlotter_blotter (s : State) (f : Blotter → Blotter) :
    (modBlotter s f).blotter = f s.blotter := rfl
@[simp] theorem modBlotter_keeps (s : State) (f : Blotter → Blotter) :
    (modBlotter s f).pending = s.pending ∧ (modBlotter s f).time = s.time ∧ (modBlotter s f).folio = s.folio ∧
    (modBlotter s f).quills = s.quills ∧ (modBlotter s f).stores = s.stores ∧ (modBlotter s f).nibs = s.nibs ∧
    (modBlotter s f).links = s.links ∧ (modBlotter s f).balls = s.balls ∧ (modBlotter s f).safeLow = s.safeLow ∧
    (modBlotter s f).streams = s.streams ∧ (modBlotter s f).trackers = s.trackers ∧
    (modBlotter s f).tickTrackers = s.tickTrackers ∧ (modBlotter s f).channels = s.channels ∧
    (modBlotter s f).comparators = s.comparators ∧ (modBlotter s f).adc = s.adc ∧
    (modBlotter s f).counters = s.counters ∧ (modBlotter s f).eic = s.eic ∧ (modBlotter s f).ink = s.ink ∧
    (modBlotter s f).dma = s.dma ∧ (modBlotter s f).pool = s.pool ∧ (modBlotter s f).co = s.co ∧
    (modBlotter s f).scribe = s.scribe ∧ (modBlotter s f).power = s.power ∧ (modBlotter s f).host = s.host ∧
    (modBlotter s f).reflexDue = s.reflexDue ∧ (modBlotter s f).posted = s.posted ∧
    (modBlotter s f).rlatch = s.rlatch ∧ (modBlotter s f).wlatch = s.wlatch ∧
    (modBlotter s f).readPcie = s.readPcie ∧ (modBlotter s f).readSp = s.readSp ∧
    (modBlotter s f).readScribe = s.readScribe ∧ (modBlotter s f).readBytes = s.readBytes ∧
    (modBlotter s f).free = s.free := by
  refine ⟨rfl, rfl, rfl, rfl, rfl, rfl, rfl, rfl, rfl, rfl, rfl, rfl, rfl, rfl, rfl, rfl, rfl, rfl, rfl, rfl, rfl, rfl, rfl, rfl, rfl, rfl, rfl, rfl, rfl, rfl, rfl, rfl, rfl⟩

@[simp] theorem modInk_ink (s : State) (f : InkSt → InkSt) :
    (modInk s f).ink = f s.ink := rfl
@[simp] theorem modInk_keeps (s : State) (f : InkSt → InkSt) :
    (modInk s f).pending = s.pending ∧ (modInk s f).time = s.time ∧ (modInk s f).folio = s.folio ∧
    (modInk s f).quills = s.quills ∧ (modInk s f).stores = s.stores ∧ (modInk s f).nibs = s.nibs ∧
    (modInk s f).links = s.links ∧ (modInk s f).balls = s.balls ∧ (modInk s f).safeLow = s.safeLow ∧
    (modInk s f).streams = s.streams ∧ (modInk s f).trackers = s.trackers ∧
    (modInk s f).tickTrackers = s.tickTrackers ∧ (modInk s f).channels = s.channels ∧
    (modInk s f).comparators = s.comparators ∧ (modInk s f).adc = s.adc ∧ (modInk s f).counters = s.counters ∧
    (modInk s f).eic = s.eic ∧ (modInk s f).blotter = s.blotter ∧ (modInk s f).dma = s.dma ∧
    (modInk s f).pool = s.pool ∧ (modInk s f).co = s.co ∧ (modInk s f).scribe = s.scribe ∧
    (modInk s f).power = s.power ∧ (modInk s f).host = s.host ∧ (modInk s f).reflexDue = s.reflexDue ∧
    (modInk s f).posted = s.posted ∧ (modInk s f).rlatch = s.rlatch ∧ (modInk s f).wlatch = s.wlatch ∧
    (modInk s f).readPcie = s.readPcie ∧ (modInk s f).readSp = s.readSp ∧ (modInk s f).readScribe = s.readScribe ∧
    (modInk s f).readBytes = s.readBytes ∧ (modInk s f).free = s.free := by
  refine ⟨rfl, rfl, rfl, rfl, rfl, rfl, rfl, rfl, rfl, rfl, rfl, rfl, rfl, rfl, rfl, rfl, rfl, rfl, rfl, rfl, rfl, rfl, rfl, rfl, rfl, rfl, rfl, rfl, rfl, rfl, rfl, rfl, rfl⟩

@[simp] theorem modPower_power (s : State) (f : PowerSt → PowerSt) :
    (modPower s f).power = f s.power := rfl
@[simp] theorem modPower_keeps (s : State) (f : PowerSt → PowerSt) :
    (modPower s f).pending = s.pending ∧ (modPower s f).time = s.time ∧ (modPower s f).folio = s.folio ∧
    (modPower s f).quills = s.quills ∧ (modPower s f).stores = s.stores ∧ (modPower s f).nibs = s.nibs ∧
    (modPower s f).links = s.links ∧ (modPower s f).balls = s.balls ∧ (modPower s f).safeLow = s.safeLow ∧
    (modPower s f).streams = s.streams ∧ (modPower s f).trackers = s.trackers ∧
    (modPower s f).tickTrackers = s.tickTrackers ∧ (modPower s f).channels = s.channels ∧
    (modPower s f).comparators = s.comparators ∧ (modPower s f).adc = s.adc ∧
    (modPower s f).counters = s.counters ∧ (modPower s f).eic = s.eic ∧ (modPower s f).blotter = s.blotter ∧
    (modPower s f).ink = s.ink ∧ (modPower s f).dma = s.dma ∧ (modPower s f).pool = s.pool ∧
    (modPower s f).co = s.co ∧ (modPower s f).scribe = s.scribe ∧ (modPower s f).host = s.host ∧
    (modPower s f).reflexDue = s.reflexDue ∧ (modPower s f).posted = s.posted ∧ (modPower s f).rlatch = s.rlatch ∧
    (modPower s f).wlatch = s.wlatch ∧ (modPower s f).readPcie = s.readPcie ∧ (modPower s f).readSp = s.readSp ∧
    (modPower s f).readScribe = s.readScribe ∧ (modPower s f).readBytes = s.readBytes ∧
    (modPower s f).free = s.free := by
  refine ⟨rfl, rfl, rfl, rfl, rfl, rfl, rfl, rfl, rfl, rfl, rfl, rfl, rfl, rfl, rfl, rfl, rfl, rfl, rfl, rfl, rfl, rfl, rfl, rfl, rfl, rfl, rfl, rfl, rfl, rfl, rfl, rfl, rfl⟩

end Sys2Proof.Machine
end

