-- ==== Sys2Proof/Laws/Canonical.lean ====
section
/-! SUPPORT. The canonical form of the sparse stores is kept by every operation that writes one of them, and by every
operation that changes none. -/
namespace Sys2Proof.Machine

theorem canonical_of_within {ps : List Part} {s t : State} (h : Within ps s t) (hc : Part.cells ∉ ps)
    (hs : Part.stores ∉ ps) (hl : Part.latches ∉ ps) (w : s.canonical) : t.canonical := by
  have c : s.ink.cells = t.ink.cells := h .cells hc
  have st : s.stores = t.stores := h .stores hs
  have l : s.rlatch = t.rlatch ∧ s.wlatch = t.wlatch := h .latches hl
  exact ⟨c ▸ w.1, fun p => st ▸ w.2.1 p, l.1 ▸ w.2.2.1, l.2 ▸ w.2.2.2⟩

/-- An operation that changes the contents of the inkwells, not the other sparse stores. -/
theorem canonical_of_cells {ps : List Part} {s t : State} (h : Within ps s t) (hs : Part.stores ∉ ps)
    (hl : Part.latches ∉ ps) (c : Memory.wf t.ink.cells = true) (w : s.canonical) : t.canonical := by
  have st : s.stores = t.stores := h .stores hs
  have l : s.rlatch = t.rlatch ∧ s.wlatch = t.wlatch := h .latches hl
  exact ⟨c, fun p => st ▸ w.2.1 p, l.1 ▸ w.2.2.1, l.2 ▸ w.2.2.2⟩

theorem writePhys_canonical (s : State) (p : Nat) (be : BitVec 16) (d : W128) (a : Bool) (w : s.canonical) :
    (writePhys s p be d a).canonical := by
  refine canonical_of_cells (writePhys_within s p be d a) (by decide) (by decide) ?_ w
  unfold writePhys
  rw [modInk_ink]
  with_reducible apply putRaw_wf
  exact w.1

theorem putWhole_canonical (s : State) (p : Nat) (v : W128) (w : s.canonical) : (putWhole s p v).canonical := by
  refine canonical_of_cells (putWhole_within s p v) (by decide) (by decide) ?_ w
  unfold putWhole
  rw [modInk_ink]
  with_reducible apply putRaw_wf
  exact w.1

theorem zeroBank_canonical (s : State) (p : Nat) (w : s.canonical) : (zeroBank s p).canonical :=
  canonical_of_cells (zeroBank_within s p) (by decide) (by decide) (zeroBank_wf s p w.1) w

theorem holdLow_canonical (s : State) (p : Path) (addr : Nat) (v : Word) (w : s.canonical) :
    (holdLow s p addr v).canonical := ⟨w.1, w.2.1, w.2.2.1, sparsePut_wf w.2.2.2⟩

theorem latchRead_canonical (s : State) (p : Path) (addr : Nat) (v : W128) (w : s.canonical) :
    (latchRead s p addr v).canonical := ⟨w.1, w.2.1, sparsePut_wf w.2.2.1, w.2.2.2⟩

theorem getElem_set_cases {α : Type} {n : Nat} (v : Vector α n) (i j : Fin n) (x : α) :
    (v.set i x)[j] = x ∨ (v.set i x)[j] = v[j] := by
  by_cases h : i.val = j.val
  · left; simp [h]
  · right; simp [Vector.getElem_set_ne, h]

/-- A store of the device is replaced by one in canonical form. -/
theorem setStore_canonical (s : State) (p : PhysIx) (m : List (Nat × BitVec 176)) (h : sparseWf 0 m = true)
    (w : s.canonical) : State.canonical { s with stores := s.stores.set p m } := by
  refine ⟨w.1, fun j => ?_, w.2.2⟩
  rcases getElem_set_cases s.stores p j m with e | e <;> dsimp only <;> rw [e]
  · exact h
  · exact w.2.1 j

theorem putStoreWord_canonical (s : State) (p : PhysIx) (a : Nat) (x : BitVec 176) (w : s.canonical) :
    (putStoreWord s p a x).canonical := setStore_canonical s p _ (sparsePut_wf (w.2.1 p)) w

theorem words_wfFrom {lo : Nat} (l : List (BitVec 160)) (n base : Nat) (h : lo ≤ base + n) :
    sparseWfFrom 0 lo (((l.zipIdx n).map fun (x : BitVec 160 × Nat) => (base + x.2, bchEncode x.1)).filter
      fun x => x.2 != 0) = true := by
  induction l generalizing lo n with
  | nil => rfl
  | cons y l ih =>
    rw [List.zipIdx_cons, List.map_cons, List.filter_cons]
    split
    · rename_i hy
      refine sparseWfFrom_cons.mpr ⟨h, ?_, ih (n + 1) (by omega)⟩
      intro e
      rw [e] at hy
      simp at hy
    · exact ih (n + 1) (by omega)

theorem programWords_wf (p : Program) (half : Bool) : sparseWf 0 (programWords p half) = true :=
  words_wfFrom p.words 0 _ (Nat.zero_le _)

theorem sparseWfFrom_append {α : Type} [DecidableEq α] {d : α} {lo cut : Nat} {m n : List (Nat × α)}
    (hm : sparseWfFrom d lo m = true) (hn : sparseWfFrom d cut n = true) (hl : lo ≤ cut)
    (h : ∀ x ∈ m, x.1 < cut) : sparseWfFrom d lo (m ++ n) = true := by
  induction m generalizing lo with
  | nil => exact sparseWfFrom_mono hl hn
  | cons y m ih =>
    obtain ⟨k, v⟩ := y
    rw [sparseWfFrom_cons] at hm
    have hk : k < cut := h (k, v) (List.mem_cons_self ..)
    exact sparseWfFrom_cons.mpr
      ⟨hm.1, hm.2.1, ih hm.2.2 (by omega) fun x hx => h x (List.mem_cons_of_mem _ hx)⟩

theorem sparseWfFrom_above {α : Type} [DecidableEq α] {d : α} {lo cut : Nat} {m : List (Nat × α)}
    (hm : sparseWfFrom d lo m = true) : sparseWfFrom d cut (m.filter fun x => cut ≤ x.1) = true := by
  induction m generalizing lo cut with
  | nil => rfl
  | cons y m ih =>
    obtain ⟨k, v⟩ := y
    rw [sparseWfFrom_cons] at hm
    rw [List.filter_cons]
    split
    · rename_i hk
      have hk : cut ≤ k := by simpa using hk
      exact sparseWfFrom_cons.mpr ⟨hk, hm.2.1, sparseWfFrom_filter _ hm.2.2⟩
    · exact ih hm.2.2

theorem putHalf_wf (old : List (Nat × BitVec 176)) (p : Program) (half : Bool) (h : sparseWf 0 old = true) :
    sparseWf 0 (putHalf old p half) = true := by
  unfold putHalf
  split
  · exact sparseWfFrom_append (sparseWf_filter _ h) (sparseWfFrom_above (programWords_wf p half)) (Nat.zero_le _)
      fun x hx => by simpa using (List.mem_filter.mp hx).2
  · exact sparseWfFrom_append (sparseWf_filter _ (programWords_wf p half)) (sparseWfFrom_above h) (Nat.zero_le _)
      fun x hx => by simpa using (List.mem_filter.mp hx).2

theorem loadProgram_canonical (s : State) (p : Program) (w : s.canonical) : (loadProgram s p).canonical :=
  canonical_of_within (modQuill_within _ _ _) (by decide) (by decide) (by decide)
    (setStore_canonical s _ _ (programWords_wf p p.half) w)

theorem moveEnds_canonical (s : State) (m : QuillMove) (w : s.canonical) : (moveEnds s m).canonical :=
  canonical_of_within (retirePhys_within _ _ _ _) (by decide) (by decide) (by decide)
    (canonical_of_within (modPool_within _ _) (by decide) (by decide) (by decide)
      (canonical_of_within (modQuill_within _ _ _) (by decide) (by decide) (by decide)
        (setStore_canonical s _ _ (w.2.1 m.source) w)))

theorem coldState_canonical (s : State) : (coldState s).canonical :=
  ⟨rfl, fun p => by
    have h : (coldState s).stores = Vector.replicate 20 [] := rfl
    rw [h, show (Vector.replicate 20 ([] : List (Nat × BitVec 176)))[p] = [] from by simp]; rfl, rfl, rfl⟩

end Sys2Proof.Machine
end

