-- ==== Sys2Proof/Laws/Settle.lean ====
section
/-! SUPPORT. The end of every command: the raises are judged, and none waits when the command answers. -/
namespace Sys2Proof.Machine

theorem settleFor_quiet (fuel : Nat) (s : State) : (settleFor fuel s).blotter.queue = [] := by
  induction fuel generalizing s with
  | zero => rfl
  | succ k ih =>
    unfold settleFor
    split
    · assumption
    · exact ih _

theorem settle_quiet (s : State) : (settle s).quiet := settleFor_quiet _ s

/-- Where no raise waits, nothing is judged. -/
theorem settle_of_quiet {s : State} (h : s.quiet) : settle s = s := by
  have h' : s.blotter.queue = [] := h
  unfold settle settleFuel settleFor
  simp only [h']

theorem finish_of_quiet {s : State} (h : s.quiet) : finish s = .next s := by
  unfold finish
  rw [settle_of_quiet h]

/-- A part that no raise can change is as the command left it. -/
theorem settle_alike {k : Part} (s : State)
    (h : k ∉ judging) : alike k s (settle s) :=
  settle_within s k h

end Sys2Proof.Machine
end

