-- ==== Sys2Proof/WellFormed.lean ====
section
/-! DEFINITION. Which commands the outside world can give: operands within what the spec lets a request, an image or an
event carry. A command with an index alone is always well formed, its index being typed. The meanings are total, and an
operand that is not well formed brings nothing more than they say. -/
namespace Sys2Proof

/-- R331, R413, R424: a failure that a start finds: a physical quill, a physical bank, a nib cell, a counter element, a
converter or a PLL (kinds 1 to 6). -/
def failureKnown (x : Nat × Nat) : Bool := 1 ≤ x.1 && x.1 ≤ 6 && x.2 < [20, 68, 272, 544, 2, 2].getD (x.1 - 1) 0

/-- The operands of a command are ones that the spec admits: aligned register addresses (R12), requests within BAR4
(R316), images of at most 8 MiB (R263), completions of at most one request (R339), the bus errors of R349, the banks of
R421, the refused requests of R450, the failures of a start and the link widths of R448; a close names each quill once (R405, R407). -/
def Instr.wellFormed (i : Instr) : Bool :=
  match i with
  | .close m v => m.Nodup && (v.map (·.1)).Nodup
  | .rlLowRead _ a => a.toNat % 4 == 0
  | .rcRead _ a => a.toNat % 4 == 0
  | .wideLowWrite _ a _ => a.toNat % 4 == 0
  | .wideHighWrite _ a _ => a.toNat % 4 == 0
  | .registerWrite _ a _ => a.toNat % 4 == 0
  | .cmdLoadFolio im => im.length ≤ 0x800000
  | .cmdVerifyFolio im => im.length ≤ 0x800000
  | .cmdStageLeaf im => im.length ≤ 0x800000
  | .bar4Read _ a n => 1 ≤ n && a.toNat + n ≤ 0x800000
  | .bar4Write _ a d => 1 ≤ d.length && a.toNat + d.length ≤ 0x800000
  | .dmaReadCompletion _ d => 1 ≤ d.length && d.length ≤ 256
  | .dmaBusError _ e => 1 ≤ e.cause && e.cause ≤ 4
  | .linkTraining (w, v) (m, r) => [1, 2, 4].contains w.val && 1 ≤ v.val && v.val ≤ 3 && m.val ≤ 5 && r.val ≤ 5
  | .bar0AccessError _ w n => w || 16 < n
  | .vioChange b _ => b < 8
  | .bootStageDone f => (f.getD []).all failureKnown
  | .budgetExpiry .. | .resultWriteback .. | .seqNext .. | .seqJmp .. | .seqJt .. | .seqJf .. | .seqCall ..
  | .seqCallt .. | .seqRet .. | .seqRett .. | .seqLoop0 .. | .seqLoop1 .. | .seqDispatch .. | .seqYield ..
  | .seqYieldt .. | .seqLdlc .. | .seqLdlcr .. | .seqBreak .. | .aluMov .. | .aluAdd .. | .aluSub .. | .aluNeg ..
  | .aluAbs .. | .aluAdds .. | .aluSubs .. | .aluAnd .. | .aluOr .. | .aluXor .. | .aluAndn .. | .aluNot ..
  | .aluMin .. | .aluMax .. | .aluMinu .. | .aluMaxu .. | .aluShl .. | .aluShr .. | .aluSar .. | .aluRol ..
  | .aluRor .. | .aluCmp .. | .aluTst .. | .aluClz .. | .aluPopc .. | .aluBfx .. | .aluBfi .. | .aluZext ..
  | .aluSext .. | .aluSplat .. | .aluLrot .. | .mulU .. | .mulS .. | .mul2u .. | .mul2s .. | .mulQs .. | .divU ..
  | .divS .. | .divUf .. | .inkRd .. | .inkRdx .. | .inkWr .. | .inkWrx .. | .inkWrb .. | .evpPop .. | .evpPeek ..
  | .evpCount .. | .evpPred .. | .cmtStroke .. | .cmtRegw .. | .cmtVpos .. | .cmtVdyn .. | .cmtSignal ..
  | .ucodeScrub .. | .strokeNop .. | .strokeSet .. | .strokeClear .. | .strokeToggle .. | .strokeFloat ..
  | .strokePulse .. | .strokePulseLow .. | .strokePulseAngle .. | .strokeBurst .. | .strokePwmLoad ..
  | .strokePatternStart .. | .strokePatternStop .. | .strokeCaptureArm .. | .strokeReflexArm .. | .strokeSafe ..
  | .strokeCancel .. | .pulseEndEdge .. | .burstEdge .. | .patternBit .. | .nibCtrlWrite .. | .vernFail ..
  | .tdcFail .. | .nibCellMove .. | .reflexCause .. | .reflexPulseEnd .. | .reflexArm .. | .nibInputTransition ..
  | .glitchFilterAccept .. | .windowExpiry .. | .winEmpty .. | .freqGateEnd .. | .cap0Read .. | .csCtrlWrite ..
  | .toothProcessed .. | .microTick .. | .missDeadline .. | .stallTimeout .. | .countingTimeout ..
  | .trackerEnable .. | .trackerResync .. | .trackerApply .. | .learnCtrlWrite .. | .tmapFlagsAccess ..
  | .fbChangeAccepted .. | .ssiFrameComplete .. | .ssiDelayTimeout .. | .fbStill .. | .idxArm .. | .emuEdge ..
  | .comparatorChange .. | .comparatorSample .. | .comparatorSettled .. | .thrWrite .. | .blankEnd ..
  | .adcConversion .. | .adcArbitration .. | .ceCompareMatch .. | .cePeriodEnd .. | .ceCtrlWrite ..
  | .ceWinWrite .. | .ceCountWrite .. | .trimWrite .. | .ppsStampRead .. | .syncCtrlWrite ..
  | .syncFrameReceived .. | .unitEnable .. | .unitSafeSet .. | .unitSafeRelease .. | .glyphApply .. | .mbxWrite ..
  | .quillMigrationCopyDone .. | .cmdTail .. | .commandFetch .. | .mailboxGo .. | .rspCons .. | .ringCtrlWrite ..
  | .cmdLoadPatch .. | .cmdKeyEnroll .. | .handoverRequest .. | .sliceTestDone .. | .destroyingTestDone ..
  | .dmaDoorbell .. | .descriptorFetched .. | .streamRecordArrival .. | .dmaFlushDone .. | .nextReadReturn ..
  | .tailPoll .. | .cqConsWrite .. | .cqBaseWrite .. | .dmaResume .. | .dmaSkip .. | .dmaAbort ..
  | .dmaHeadWrite .. | .eicArrival .. | .levelInputFall .. | .eicClaim .. | .eicComplete .. | .srcPendingWrite ..
  | .srcCfgWrite .. | .grpCfgWrite .. | .groupTimerExpiry .. | .fallbackTimer .. | .targetAwake ..
  | .quietTimerExpiry .. | .blotterAck .. | .ceTakeover .. | .thermalLimit .. | .perstN ..
  | .lpcmpWake .. | .keepDataAccess .. | .spWrite .. | .spRead .. | .spQwrite .. | .spQread .. | .jtagQsel ..
  | .qbrk .. | .dmaBeat .. | .msixUnmask .. | .vbatOkChange .. | .lfOkChange .. | .vernierCalibration ..
  | .pwmEdge .. | .fbCtrlWrite .. | .acCtrlWrite .. | .emuCtrlWrite .. | .inCtrlWrite .. | .rlCtrlWrite ..
  | .adcCtrlWrite .. | .routeWrite .. | .tick | .safeNAssert | .safeNRelease | .coarseStep | .fineResume
  | .syncHoldoverEntry | .syncLock | .cmdIdentify | .cmdGetHealth | .cmdStart | .startTick | .cmdStopToSafe
  | .cmdChangeover | .changeoverTick | .triggerExpiry | .carryCopyDone | .cmdDiscardStaged | .cmdReadUnitDir
  | .cmdMarchDestroy | .cmdMarchSetCtrl | .cmdRepairStatus | .cmdRetireResource | .cmdInjectFault | .cmdAckFault
  | .cmdPatchStatus | .cmdTbSet | .tbSetApply | .cmdTbTrim | .tbTrimFinal | .cmdSleep | .cmdStandby | .cmdAbort
  | .cmdSnapshot | .scribeRestart | .scribeLockstepMismatch | .scribeWdog | .marchSliceStart | .sliceCopyDone
  | .sliceRestoreDone | .migrationCopyDone | .injectionDone | .pllSwap | .referenceLost | .referenceReturn
  | .porstNRelease | .brownOut | .islandPowerOn | .thermalTrip | .trstN | .wake | .d3hotEntry | .spFetch
  | .spQfetch | .jtagExtest | .jtagIdcode | .jtagSamplePreload | .jtagHighz | .jtagClamp | .jtagBypass | .qhalt
  | .qstep | .qresume | .dhalt | .dresume | .d0Entry | .pcieLinkDown | .porstNAssert | .brownOutEnd
  | .thermalTripEnd | .servicePortAccessDone | .pwrenLowTimeEnd => true

end Sys2Proof
end

