-- ==== Sys2Proof/Tests/Slice0.lean ====
section
/-! SUPPORT. Tests: ill-formed commands that the check refuses, values that the spec works out, and for every statement
a state and operands that meet its hypotheses, clause by clause. -/
namespace Sys2Proof.Tests
open Sys2Proof.Machine

set_option maxRecDepth 20000
set_option Elab.async false

/-! Ill-formed commands. -/

theorem test_bad_close_mismatches : Instr.wellFormed (.close [3, 3] []) = false := by decide
theorem test_bad_close_votes : Instr.wellFormed (.close [] [(2, .active), (2, .none)]) = false := by decide
theorem test_bad_close : Instr.wellFormed (.close [3, 4] [(2, .active), (3, .none)]) = true := by decide
theorem test_bad_address_low : Instr.wellFormed (.rlLowRead .pcie 0x2001) = false := by decide
theorem test_bad_address_rc : Instr.wellFormed (.rcRead .pcie 0x2052) = false := by decide
theorem test_bad_address_wide : Instr.wellFormed (.wideLowWrite .pcie 0x2003 0) = false := by decide
theorem test_bad_address_wide_high : Instr.wellFormed (.wideHighWrite .pcie 0x2006 0) = false := by decide
theorem test_bad_address_write : Instr.wellFormed (.registerWrite .sp 0x12002 1) = false := by decide
theorem test_bad_image_sizes (im : List Byte) (h : 0x800000 < im.length) :
    Instr.wellFormed (.cmdLoadFolio im) = false ∧ Instr.wellFormed (.cmdVerifyFolio im) = false
      ∧ Instr.wellFormed (.cmdStageLeaf im) = false :=
  have n : ¬im.length ≤ 0x800000 := Nat.not_le.mpr h
  ⟨decide_eq_false n, decide_eq_false n, decide_eq_false n⟩
theorem test_bad_bar4_read_none : Instr.wellFormed (.bar4Read .pcie 0 0) = false := by decide
theorem test_bad_bar4_read_end : Instr.wellFormed (.bar4Read .pcie 0x7FFFF0 17) = false := by decide
theorem test_bad_bar4_write_none : Instr.wellFormed (.bar4Write .pcie 0 []) = false := by decide
theorem test_bad_bar4_write_end : Instr.wellFormed (.bar4Write .pcie 0x7FFFFF [some 1, some 2]) = false := by decide
theorem test_bad_completion : Instr.wellFormed (.dmaReadCompletion 3 []) = false := by decide
theorem test_bad_bus_error : Instr.wellFormed (.dmaBusError 3 ⟨0, 0, 0⟩) = false := by decide
theorem test_bad_bus_cause : Instr.wellFormed (.dmaBusError 3 ⟨5, 0, 0⟩) = false := by decide
theorem test_bad_link_width : Instr.wellFormed (.linkTraining (3, 1) (0, 2)) = false := by decide
theorem test_bad_link_speed : Instr.wellFormed (.linkTraining (4, 0) (0, 2)) = false := by decide
theorem test_bad_link_sizes : Instr.wellFormed (.linkTraining (4, 2) (6, 2)) = false
    ∧ Instr.wellFormed (.linkTraining (4, 2) (0, 6)) = false := by decide
theorem test_bad_bar0_request : Instr.wellFormed (.bar0AccessError 0x10 false 4) = false := by decide
theorem test_bad_bank : Instr.wellFormed (.vioChange 8 true) = false := by decide

theorem test_bad_failures : Instr.wellFormed (.bootStageDone (some [(0, 0)])) = false
    ∧ Instr.wellFormed (.bootStageDone (some [(2, 68)])) = false ∧ Instr.wellFormed (.bootStageDone (some [(7, 0)])) = false
    ∧ Instr.wellFormed (.bootStageDone (some [(2, 67), (6, 1)])) = true := by decide

/-- The state a command leads to. -/
def after (c : Instr) (s : State) : State := match exec c s with | .next t => t | _ => s

/-- The device as it is after reset, in a core cycle with no tick. -/
def base : State := { State.reset with time := { State.reset.time with cycle := 5 } }

/-- The device takes register accesses from its service port. -/
theorem reaches_sp {s : State} (c : s.calm) (m : s.power.mode = .up) (d : tickDue s = false) : Reaches .sp s :=
  ⟨c, rfl, m, d⟩

/-! Quills: a word at the entry of quill 0, which computes in the present cycle. -/

def quillAt (w : BitVec 160) (f : Engine → Engine := id) : State :=
  let s := base
  { s with
    time := { s.time with cycle := 64 }
    stores := s.stores.set 0 [(0, bchEncode w)]
    quills := s.quills.set 0 { s.quills[0] with
      active := true, engine := f { resetEngine with phase := .computing } } }

theorem executes_of_will {s : State} {q : QuillIx} {slot : Slot} {w : BitVec 160}
    (h : (s.blotter.queue = [] ∧ s.blotter.inj.active = false ∧ s.blotter.busErr = 0 ∧ s.blotter.regErr = false)
      ∧ computesNow s q = true
      ∧ slot ∉ s.quills[q].engine.done ∧ Slot.seq ∉ s.quills[q].engine.done ∧ fetch s q = .clean w
      ∧ stopCauses s q (microOf w) = []) : Executes s q slot (microOf w) :=
  ⟨h.1, h.2.1, h.2.2.1, h.2.2.2.1, ⟨w, h.2.2.2.2.1, rfl⟩, h.2.2.2.2.2⟩

theorem witness_AluSlotActs :
    (aluCommand 0 .a .add = some (.aluAdd 0 .a) ∧ Executes (quillAt (0x02#160 <<< 129)) 0 .aluA (microOf (0x02#160 <<< 129))
      ∧ aluOpOf (slotOp (microOf (0x02#160 <<< 129)) .a) = some .add
      ∧ laneModeOf (slotOp (microOf (0x02#160 <<< 129)) .a) = some .one)
    ∧ aluCommand 15 .b .lrot = some (.aluLrot 15 .b)
      ∧ Executes (quillAt (0x9F#160 <<< 103)) 0 .aluB (microOf (0x9F#160 <<< 103))
      ∧ aluOpOf (slotOp (microOf (0x9F#160 <<< 103)) .b) = some .lrot
      ∧ laneModeOf (slotOp (microOf (0x9F#160 <<< 103)) .b) = some .four :=
  ⟨⟨rfl, executes_of_will (by decide +kernel), by decide +kernel, by decide +kernel⟩, rfl, executes_of_will (by decide +kernel), by decide +kernel, by decide +kernel⟩

theorem witness_MultiplierActs : ∀ k ∈ [1, 2, 3, 4, 5, 8, 9, 10],
    Executes (quillAt (BitVec.ofNat 160 k <<< 81)) 0 .mul (microOf (BitVec.ofNat 160 k <<< 81))
      ∧ (microOf (BitVec.ofNat 160 k <<< 81)).mop = BitVec.ofNat 4 k := by
  intro k hk
  refine ⟨executes_of_will ?_, ?_⟩ <;> revert k <;> decide +kernel

/-- The four exceptional cases, a quotient of UF that just fits, and one that just does not. -/
theorem witness_DivideExceptions :
    word64 (0#128) 0 = 0 ∧ word64 (1#128) 0 ≠ 0
    ∧ 2 ^ 64 ≤ (word64 (0x100000000#128) 0).toNat * 2 ^ 32 / (word64 (1#128) 0).toNat
    ∧ (word64 (0xFFFFFFFF#128) 0).toNat * 2 ^ 32 / (word64 (1#128) 0).toNat < 2 ^ 64
    ∧ word64 (0x8000000000000000#128) 0 = 0x8000000000000000
    ∧ word64 (0xFFFFFFFFFFFFFFFF#128) 0 = 0xFFFFFFFFFFFFFFFF := by decide +kernel

/-- G1 names word 5 of the context store for reads, and word 5 of bank 1, which the quill owns, for writes. -/
def inkRegs (e : Engine) : Engine := { e with g := e.g.set 1 (0x40005 + (0x1005#128 <<< 32)) }

/-- Bank 1 belongs to quill 0. -/
def withBank (s : State) : State :=
  { s with ink := { s.ink with banks := s.ink.banks.set 1 { s.ink.banks[1] with owner := { kind := .quill, quill := 0 } } } }

/-- The words of RD, RDX, WR, WRX and WRB with G1 as IA. -/
def inkWord (k : Nat) : BitVec 160 := BitVec.ofNat 160 k <<< 59 ||| 1#160 <<< 53

theorem witness_InkPortReads : ∀ k ∈ [1, 2],
    Executes (quillAt (inkWord k) inkRegs) 0 .inkRead (microOf (inkWord k))
      ∧ (microOf (inkWord k)).iop.toNat % 4 = k
      ∧ ((readReg (quillAt (inkWord k) inkRegs).quills[(0 : QuillIx)].engine (microOf (inkWord k)).ia).getLsbD 18 = true) := by
  intro k hk
  refine ⟨executes_of_will ?_, ?_, ?_⟩ <;> revert k <;> decide +kernel

theorem witness_InkPortReads_bank (k : Nat) (hk : k ∈ [1, 2]) :
    let s := withBank (quillAt (inkWord k) fun e => { e with g := e.g.set 1 0x1005 })
    Executes s 0 .inkRead (microOf (inkWord k)) ∧ ownsBank s 0 1 = true
      ∧ ∃ p, readWord s 1 5 = some p ∧ errorAt s.ink.errors p = none ∧ startWord s p = 0 := by
  refine ⟨executes_of_will ?_, ?_, 4101, ?_⟩ <;> revert k <;> decide +kernel

theorem witness_InkPortWrites (k : Nat) (hk : k ∈ [4, 8, 12]) :
    let s := withBank (quillAt (inkWord k) inkRegs)
    Executes s 0 .inkWrite (microOf (inkWord k)) ∧ (microOf (inkWord k)).iop.toNat = k
      ∧ (readReg s.quills[(0 : QuillIx)].engine (microOf (inkWord k)).ia).extractLsb' 32 19 = 0x1005
      ∧ ownsBank s 0 1 = true := by
  refine ⟨executes_of_will ?_, ?_, ?_, ?_⟩ <;> revert k <;> decide +kernel

theorem witness_EventPortActs (k : Nat) (hk : k ∈ [1, 2, 3, 4]) :
    Executes (quillAt (BitVec.ofNat 160 k <<< 44)) 0 .event (microOf (BitVec.ofNat 160 k <<< 44))
      ∧ (microOf (BitVec.ofNat 160 k <<< 44)).eop = BitVec.ofNat 3 k := by
  refine ⟨executes_of_will ?_, ?_⟩ <;> revert k <;> decide +kernel

theorem witness_CommitPortIssues (k : Nat) (hk : k ∈ [1, 2, 3, 4, 5]) :
    Executes (quillAt (BitVec.ofNat 160 k <<< 35)) 0 .commit (microOf (BitVec.ofNat 160 k <<< 35))
      ∧ (microOf (BitVec.ofNat 160 k <<< 35)).cop = BitVec.ofNat 3 k := by
  refine ⟨executes_of_will ?_, ?_⟩ <;> revert k <;> decide +kernel

/-- Every operation of the sequencer, with one address on the stack for the returns. -/
theorem witness_SequencerActs (k : Fin 16) :
    let w := BitVec.ofNat 160 k.val <<< 156
    let s := quillAt w fun e => { e with stack := [5] }
    Executes s 0 .seq (microOf w) ∧ (microOf w).seq = BitVec.ofNat 4 k.val
      ∧ s.quills[(0 : QuillIx)].engine.stack = 5 :: [] := by
  refine ⟨executes_of_will ?_, ?_, rfl⟩ <;> revert k <;> decide +kernel

theorem witness_QuillRegisters : (∃ e : Engine, e.newFlagsA = some {} ∧ e.newFlagsB = some {}) ∧ (62 : Fin 64) ≠ 0
    ∧ (62 : Fin 64) ≠ 63 ∧ (1 : Fin 64) ≠ 62 :=
  ⟨⟨{ resetEngine with newFlagsA := some {}, newFlagsB := some {} }, rfl, rfl⟩, by decide +kernel⟩

/-- A word whose sequencer has acted, with a result due for G5; and a reserved ALU code, which stops the quill. -/
theorem witness_WordsEndAndStop :
    (let f (e : Engine) : Engine := { e with done := [.seq], results := [{ due := 0, dest := 5, kind := .aluA, value := 9 }] }
      let s := quillAt 0 f
      computesNow s 0 = true ∧ Slot.seq ∈ s.quills[(0 : QuillIx)].engine.done
        ∧ (∀ z ∈ s.quills[(0 : QuillIx)].engine.results, z.dest = 5))
    ∧ let w : BitVec 160 := 0x3F#160 <<< 129
      (quillAt w).calm ∧ computesNow (quillAt w) 0 = true ∧ Slot.seq ∉ (quillAt w).quills[(0 : QuillIx)].engine.done
        ∧ fetch (quillAt w) 0 = .clean w ∧ stopCauses (quillAt w) 0 (microOf w) = [.illegal] :=
  ⟨by decide +kernel, ⟨rfl, rfl, rfl, rfl⟩, by decide +kernel, by decide +kernel, by decide +kernel, by decide +kernel⟩

theorem witness_BudgetEnds :
    let s := quillAt 0
    let s := { s with time := { s.time with cycle := 3968 } }
    s.quills[(0 : QuillIx)].active = true ∧ s.quills[(0 : QuillIx)].engine.phase = .computing
      ∧ s.quills[(0 : QuillIx)].halted = false ∧ s.time.cycle + 32 = s.time.period := by decide +kernel

/-- A clean word, one with its lowest bit flipped, and one beyond correction. -/
theorem witness_Scrubbing :
    (quillAt 5).calm ∧ (quillAt 5).pool.moves = [] ∧ sparseWf 0 (quillAt 5).stores[(0 : PhysIx)] = true
    ∧ bchDecode (storeWord (quillAt 5) 0 0) = .clean 5
    ∧ bchDecode (bchEncode 5 ^^^ 1) = .corrected 5 ∧ ∃ x, bchDecode x = .uncorrectable :=
  ⟨⟨rfl, rfl, rfl, rfl⟩, rfl, by decide +kernel, by decide +kernel, by decide +kernel, 0x15, by decide +kernel⟩

/-- A quill that is frozen with a clean word. -/
theorem witness_DebugAndTestPort_frozen :
    let s := modQuill (quillAt 0) 0 fun x => { x with halted := true, frozen := true }
    s.calm ∧ s.power.mode ≠ .standby ∧ s.scribe.keyHash = none ∧ s.host.jtagSel = 0
      ∧ s.quills[(0 : QuillIx)].halted = true ∧ s.quills[(0 : QuillIx)].frozen = true
      ∧ s.quills[(0 : QuillIx)].engine.done = [] ∧ fetch s 0 = .clean 0 ∧ stopCauses s 0 (microOf 0) = [] :=
  ⟨⟨rfl, rfl, rfl, rfl⟩, by decide +kernel, rfl, rfl, rfl, rfl, rfl, by decide +kernel, by decide +kernel⟩

/-- A quill that computes; the test access port of a sealed device. -/
theorem witness_DebugAndTestPort :
    (quillAt 0).calm ∧ (quillAt 0).power.mode ≠ .standby ∧ (quillAt 0).scribe.keyHash = none
      ∧ (quillAt 0).quills[(quillAt 0).host.jtagSel].active = true
      ∧ (quillAt 0).quills[(quillAt 0).host.jtagSel].halted = false
      ∧ (quillAt 0).quills[(quillAt 0).host.jtagSel].engine.done = []
      ∧ fetch (quillAt 0) (quillAt 0).host.jtagSel = .clean 0
      ∧ stopCauses (quillAt 0) (quillAt 0).host.jtagSel (microOf 0) = []
      ∧ (quillAt 0).power.mode = .up ∧ (quillAt 0).host.dhalt = false
    ∧ (let s := { quillAt 0 with scribe := { (quillAt 0).scribe with keyHash := some 1 } }
      s.quiet ∧ s.power.mode ≠ .standby ∧ s.scribe.keyHash.isSome = true) :=
  ⟨⟨rfl, rfl, rfl, rfl⟩, by decide +kernel, rfl, rfl, rfl, rfl, by decide +kernel, by decide +kernel, rfl, rfl, rfl, by decide +kernel, rfl⟩

/-! Nib 3 at record time 680,000,000, the first READY. -/

theorem unheard_of {s : State} {n : NibIx}
    (h : (s.blotter.queue = [] ∧ s.blotter.inj.active = false ∧ s.blotter.busErr = 0 ∧ s.blotter.regErr = false)
      ∧ s.folio.routes = [] ∧ ∀ q : QuillIx, s.quills[q].queue.entries = []) : Unheard s n :=
  ⟨h.1, h.2.1, fun q _ => by rw [h.2.2 q]; decide⟩

def nibAt (f : Nib → Nib) : State :=
  let s := base;
  { s with nibs := s.nibs.set 3 (f s.nibs[3]) }

/-- A locked stroke whose turn has come: a time-triggered one of action `code` and argument `arg`. -/
def slotOf (code arg : Nat) : StrokeSlot :=
  { raw := BitVec.ofNat 128 (code * 2 ^ 122 + 3 * 2 ^ 114 + 2 ^ 109 + arg * 2 ^ 64)
    order := 0, entered := 0, locked := true, fire := 680000000, limit := 680000000, place := 680000000 }

def strokeAt (v : StrokeSlot) (f : Nib → Nib := id) : State :=
  nibAt fun x => f { x with slots := x.slots.set 0 (some v) }

/-- Every action at its time, each with an argument of 100 eighths or with a second edge 100 eighths on. -/
theorem witness_StrokesAct (a : Action) (h : a ≠ .nop ∧ a ≠ .cancel) :
    let v := { slotOf a.code (if a = .burst then 2 ^ 20 + 100 else 100) with next := if a = .pulseAngle then some 680000100 else none };
    let s := strokeAt v;
    Unheard s 3 ∧ getSlot s.nibs[(3 : NibIx)] 0 = some v ∧ v.locked = true ∧ v.placed = none ∧ slotDue s 3 0 = true
      ∧ strokeAction v.raw = some a ∧ v.nextPlan = none
      ∧ notAfter (v.fire + BitVec.ofNat 64 (strokeArg v.raw)) ((edgeTime s.nibs[(3 : NibIx)] v.fire v.place).1 + 8) = false
      ∧ (a = .burst → burstFirst v = some 0) := by
  refine ⟨unheard_of ?_, ?_⟩ <;> revert h <;> cases a <;> decide +kernel

/-- A pulse of one eighth, which has no room; a late burst that has lost every pulse, one that is left its second, and
one whose pulse left lies after the placement; a bank and a link that a stroke can name; a slot that is not due. -/
theorem witness_StrokesAct_more :
    (let v := slotOf 0x05 1;
      slotDue (strokeAt v) 3 0 = true ∧ strokeAction v.raw = some .pulse
        ∧ notAfter (v.fire + 1) ((edgeTime (strokeAt v).nibs[(3 : NibIx)] v.fire v.place).1 + 8) = true)
    ∧ (let v := { slotOf 0x08 (2 ^ 20 + 8) with fire := 679999900 };
      slotDue (strokeAt v) 3 0 = true ∧ strokeAction v.raw = some .burst ∧ burstFirst v = none)
    ∧ (let v := { slotOf 0x08 (2 * 2 ^ 20 + 50) with fire := 679999900 };
      slotDue (strokeAt v) 3 0 = true ∧ strokeAction v.raw = some .burst ∧ burstFirst v = some 1
        ∧ v.fire + 100 = v.place)
    ∧ (let v := { slotOf 0x08 (2 * 2 ^ 20 + 60) with fire := 679999900 };
      slotDue (strokeAt v) 3 0 = true ∧ strokeAction v.raw = some .burst ∧ burstFirst v = some 1
        ∧ precedes (v.fire + 120) v.place = false ∧ v.fire + 120 ≠ v.place)
    ∧ base.ink.errors = []
    ∧ (nibAt fun x => { x with inp := { x.inp with ctrl := 8 } }).nibs[(3 : NibIx)].inp.ctrl.getLsbD 3 = true
    ∧ (let s := { base with links := base.links.set 36 { armMode := 2, run := true } };
      s.links[(36 : LinkIx)].armMode % 3 = 2 ∧ s.links[(36 : LinkIx)].run = true
        ∧ (36 : LinkIx).val = strokeArg (slotOf 0x0D 100).raw % 64)
    ∧ slotDue base 3 0 = false := by decide +kernel

/-- A pulse whose end has come, a burst with edges to come, a pattern at its second bit, and a PWM nib whose element
counts below its duty while the pin does not show it. -/
theorem witness_LaterEdges :
    (let v := { slotOf 0x05 100 with placed := some 679999900, next := some 680000000 };
        getSlot (strokeAt v).nibs[(3 : NibIx)] 0 = some v ∧ v.placed.isSome = true
          ∧ slotDue (strokeAt v) 3 0 = true ∧ isEndEdge v = true)
    ∧ (let v := { slotOf 0x08 (3 * 2 ^ 20 + 100) with
            placed := some 679999900, next := some 680000000, left := 3, highNow := true };
        Unheard (strokeAt v) 3 ∧ slotDue (strokeAt v) 3 0 = true ∧ isEndEdge v = false)
    ∧ (let p : PatternRun := { start := 0, bits := 8, index := 1, base := 679999990, buf := 2, slot := 0 };
        let s := nibAt fun x => { x with pattern := some p };
        outDue s 3 .bit = true ∧ p.index < p.bits ∧ s.ink.errors = [])
    ∧ (let p : PatternRun := { start := 0, bits := 1, index := 1, base := 679999990, buf := 2, slot := 0 };
        let s := nibAt fun x => { x with pattern := some p };
        outDue s 3 .bit = true ∧ ¬ p.index < p.bits ∧ patternLoops s.nibs[(3 : NibIx)] = false)
    ∧ (let s := nibAt fun x => { x with ctrl := 3, run := true, pwmOn := true, duty := 10 };
      let s := { s with counters := s.counters.set 0 { resetCounter with ctrl := 3, run := true, period := 100 } };
      pwmDue s 3 = true ∧ pwmTurns s s.nibs[(3 : NibIx)] = true)
    ∧ pwmDue base 3 = false ∧ outDue base 3 .bit = false := by
  refine ⟨?_, ⟨unheard_of ?_, ?_⟩, ?_⟩ <;> decide +kernel

/-- A CANCEL from the owner, with a stroke that its tag matches, one whose time has come, a pattern that runs, and a
PULSE_ANGLE that HOLD keeps; one from another quill. -/
theorem witness_NopAndCancel :
    let r : W128 := BitVec.ofNat 128 (0x3F * 2 ^ 122 + 3 * 2 ^ 114 + 2 ^ 109);
    let s := strokeAt { slotOf 0x01 0 with fire := 680001000, place := 680001000 } fun x =>
      { x with
        run := true, owner := some 0
        slots := ((x.slots.set 1 (some { slotOf 0x01 0 with place := 680000000 })).set 2
          (some { slotOf 0x0A 0 with placed := some 679999000 })).set 3
          (some { slotOf 0x07 0 with placed := some 679999000, heldEnd := true }) }
    let met (k : SlotIx) : Option (Bool × Bool) := (getSlot s.nibs[(3 : NibIx)] k).map fun v =>
      (cancelMatches (strokeTag r) (nowTime s) v,
        v.heldEnd && v.placed.isSome && (strokeTag r == 0x1FF || strokeTag v.raw == strokeTag r))
    base.quiet ∧ strokeNib r = 3 ∧ Unheard s 3 ∧ strokeDrop s 0 3 r = none ∧ strokeDrop s 1 3 r = some .notOwner
      ∧ met 0 = some (true, false) ∧ met 1 = some (false, false) ∧ met 3 = some (false, true)
      ∧ ((getSlot s.nibs[(3 : NibIx)] 2).map fun v => strokeAction v.raw) = some (some .patternStart)
      ∧ met 2 = some (true, false) :=
  ⟨rfl, by decide +kernel, unheard_of (by decide +kernel), by decide +kernel⟩

/-- A unit under the root, for a resource. -/
def unitFor (k : UnitType) (i : Nat) : UnitSt := { rec_ := {
  unit := 7, parent := 0xFFFF, kind := k, uflags := 0, resource := i, leaf := 0, paramCount := 0, window := 0
  eicSrc := 0, name := 0, typeData := 0 } }

/-- The device with one bound unit. -/
def withUnit (s : State) (k : UnitType) (i : Nat) : State := { s with folio := { s.folio with units := [unitFor k i] } }

theorem witness_SafeInput : let s := withUnit (nibAt fun x => { x with safe := 0x20 }) .nib 3;
    s.safeLow = false ∧ s.power.mode = .up ∧ s.quiet ∧ s.nibs[(3 : NibIx)].safe.getLsbD 5 = true
      ∧ bound s .nib 3 = true ∧ s.nibs[(3 : NibIx)].inSafe = false
      ∧ ({ s with safeLow := true } : State).safeLow = true :=
  ⟨rfl, rfl, rfl, by decide +kernel⟩

/-- A DIRECT nib that runs, one out of the SAFE state and one in it; a reserved mode; a disabled nib and pin 271. -/
theorem witness_NibWrites (inSafe : Bool) :
    let s := withUnit (nibAt fun x => { x with ctrl := 9, run := true, inSafe := inSafe }) .nib 3;
    Reaches .sp s ∧ s.nibs[(3 : NibIx)].run = true ∧ s.nibs[(3 : NibIx)].ctrl.getLsbD 0 = true
      ∧ glyphsOn s .nib 3 = true ∧ nibMode s.nibs[(3 : NibIx)] = 4 ∧ fld (0x39#32) 3 1 = 4
      ∧ 4 < fld (0x0B#32) 3 1 ∧ fld (0x05#32) 3 1 ≠ 4
      ∧ bound s .nib 3 = true ∧ s.nibs[(3 : NibIx)].wroteIn ≠ s.time.tb
      ∧ base.nibs[(3 : NibIx)].ctrl.getLsbD 0 = false ∧ base.nibs[(3 : NibIx)].pinNext = none
      ∧ pinOk (fld (0x010F0000#32) 24 16) = true ∧ pinOk (fld (0x01100000#32) 24 16) = false
      ∧ bound s .nib 4 = false := by
  refine ⟨reaches_sp ⟨rfl, rfl, rfl, rfl⟩ rfl rfl, ?_⟩
  revert inSafe; decide +kernel

/-- A write of the scribe after one of the PCIe path in the same cycle. -/
theorem witness_NibWrites_ranked :
    let x : Nib := { base.nibs[(3 : NibIx)] with wroteIn := base.time.tb, wrote := [(0, ceRank .pcie)] };
    x.wroteIn = base.time.tb ∧ ∃ w ∈ x.wrote, w.1 = 0 ∧ ceRank .scribe < w.2 := by decide +kernel

theorem foldl_or_const {α : Type} {w : Nat} (c : BitVec w) (l : List α) :
    ∀ m : BitVec w, l.foldl (fun x _ => x ||| c) m = m ∨ l.foldl (fun x _ => x ||| c) m = m ||| c := by
  induction l with
  | nil => intro m; exact .inl rfl
  | cons a l ih =>
    intro m
    simp only [List.foldl_cons]
    rcases ih (m ||| c) with h | h <;> rw [h] <;> right <;> simp [BitVec.or_assoc]

/-- Where every nib is served by cell 3, the reserve is free. -/
theorem foldl_freeCell {s : State} {x : Nib} (nibs : s.nibs = Vector.replicate 256 x) (cell : x.cell = 3)
    (healthy : s.pool.retiredCells = 0) : ∃ c, freeCell s = some c := by
  refine Option.isSome_iff_exists.mp ?_
  simp only [freeCell, freeCells, List.head?_filter, List.find?_isSome, nibs, healthy, Fin.getElem_fin,
    Vector.getElem_replicate, cell]
  refine ⟨271, by simp, ?_⟩
  rcases foldl_or_const (1#512 <<< 3) (indices 256) 0 with h | h <;> rw [h] <;> decide +kernel

theorem witness_NibCellsFail :
    base.nibs[(3 : NibIx)].vernAOk = true ∧ base.nibs[(3 : NibIx)].vernBOk = true
    ∧ base.nibs[(3 : NibIx)].inp.tdcFail = false ∧ base.quiet
    ∧ let s := { base with
        nibs := Vector.replicate 256 { resetNib 3 3 with moveWanted := true }
        time := { base.time with cycle := 0 } };
      cellMoveDue s 3 = true ∧ ∃ c, freeCell s = some c :=
  ⟨by decide, by decide, by decide, rfl, by decide +kernel, foldl_freeCell rfl rfl rfl⟩

/-- Link 5 drives nib 3: armed with a cause on its way, the same with the nib in the SAFE state, a pulse that ends, a
ONE_SHOT link, and a link that no unit binds. -/
theorem witness_ReflexLinksAct :
    (∀ inSafe : Bool, let s := nibAt fun x => { x with run := true, inSafe := inSafe };
      let s := { s with
        links := s.links.set 5 { run := true, armed := true, action := 0x103, cause := 64 }, reflexDue := [(5, 85000000)] };
      s.calm ∧ s.folio.routes = [] ∧ nextOut s.nibs[(3 : NibIx)] = none ∧ (∃ d ∈ s.reflexDue, d.1 = 5)
        ∧ s.links[(5 : LinkIx)].run = true ∧ s.links[(5 : LinkIx)].armed = true
        ∧ reflexTarget s.links[(5 : LinkIx)] = 3 ∧ s.nibs[(3 : NibIx)].run = true
        ∧ s.nibs[(3 : NibIx)].inSafe = inSafe ∧ fld s.links[(5 : LinkIx)].cause 9 0 ≠ 336)
    ∧ (let s := nibAt fun x => { x with reflexEnd := some (680000000, 5, .low) };
        s.quiet ∧ reflexEnds s 5 = some 3)
    ∧ (let s := withUnit { base with links := base.links.set 5 { en := true, run := true, armMode := 1 } } .reflex 5;
      Reaches .sp s ∧ bound s .reflex 5 = true ∧ s.links[(5 : LinkIx)].en = true ∧ glyphsOn s .reflex 5 = true
        ∧ s.links[(5 : LinkIx)].run = true ∧ s.links[(5 : LinkIx)].armMode = 1)
    ∧ bound base .reflex 5 = false := by
  refine ⟨fun b => ⟨⟨rfl, rfl, rfl, rfl⟩, rfl, ?_⟩, ⟨rfl, ?_⟩,
    ⟨reaches_sp ⟨rfl, rfl, rfl, rfl⟩ rfl rfl, ?_⟩, by decide⟩
  · revert b; decide +kernel
  · decide +kernel
  · decide +kernel

/-- A ball that rises, over a level that has been seen meanwhile; a level held for two nanoseconds that is the accepted
one, that ends a shorter one in the filter, and that ends one held long enough; a level that FILT 10 ns has let through,
as a selected edge and as the closing edge of a pulse measurement whose opening is known. -/
theorem witness_InputEdges :
    (let s := base;
        s.quiet ∧ s.time.coarse = false ∧ s.nibs[(3 : NibIx)].pin < 272 ∧ s.nibs[(3 : NibIx)].inp.move = none
          ∧ pinPowered s s.nibs[(3 : NibIx)].pin = true ∧ s.nibs[(3 : NibIx)].inp.ball ≠ true)
    ∧ (let m : Held := { stamp := 679999900, since := 679999900 };
        let s := nibAt fun x => { x with inp := { x.inp with move := some m } };
        s.nibs[(3 : NibIx)].inp.move = some m ∧ isSeen m (transitionTime s 3 5) = true)
    ∧ (let m : Held := { stamp := 679999984, since := 679999984 };
      let s (sync : Bool) (run : Option Held) := nibAt fun x => { x with inp := { x.inp with
        ctrl := 0xA00, sync := sync, move := some m, run := run } };
      let seen (sync : Bool) (run : Option Held) : Bool × Bool × Bool :=
        let i := (s sync run).nibs[(3 : NibIx)].inp
        (dueNow (s sync run) (m.since + 16), (i.sync != inInv i) == i.level,
          i.run.any fun r => precedes m.since (r.since + BitVec.ofNat 64 (8 * inFilt i)))
      (s true none).quiet ∧ seen false none = (true, true, false)
        ∧ seen true (some { stamp := 679999950, since := 679999950 }) = (true, false, true)
        ∧ seen true (some { stamp := 679999904, since := 679999904 }) = (true, false, false))
    ∧ ∀ b : Bool, let r : Held := { stamp := 679999904, since := 679999904 };
      let s := nibAt fun x => { x with
        owner := some 0
        inp := { x.inp with
          ctrl := if b then 0xA01 else 0x200A20, level := !b, run := some r, opening := some 679990000 } };
      let i := s.nibs[(3 : NibIx)].inp;
      Unheard s 3 ∧ i.run = some r ∧ seeDue s 3 = false
        ∧ dueNow s (r.since + BitVec.ofNat 64 (8 * inFilt i) + 16) = true
        ∧ s.time.coarse = false ∧ inGate i = false ∧ waitsEmpty i r.stamp = false ∧ i.late = []
        ∧ i.ctrl.getLsbD 20 = false ∧ i.ctrl.getLsbD 23 = false
        ∧ (b = true → capSelected i (!i.level) = true)
        ∧ (b = false → capSelected i (!i.level) = false ∧ closesMeas i (!i.level) = true
            ∧ i.opening = some 679990000 ∧ s.nibs[(3 : NibIx)].owner = some 0 ∧ i.ctrl.getLsbD 21 = true) := by
  refine ⟨⟨rfl, by decide +kernel⟩, by decide +kernel, ⟨rfl, by decide +kernel⟩, fun b => ?_⟩
  refine ⟨unheard_of ?_, ?_⟩ <;> revert b <;> decide +kernel

/-- A window that closes now, one that closed empty long enough ago, a gate whose record is due. -/
theorem witness_WindowsAndGates :
    (let s := nibAt fun x => { x with inp := { x.inp with windows := [{ opened := 0, closes := some 680000000 }] } };
        Unheard s 3 ∧ s.nibs[(3 : NibIx)].inp.windows.any (windowDue s) = true)
    ∧ base.nibs[(3 : NibIx)].inp.windows.any (windowDue base) = false
    ∧ (let w : Window := { opened := 0, closes := some 679990000, live := false };
        let s := nibAt fun x => { x with inp := { x.inp with windows := [w] } };
        Unheard s 3 ∧ s.nibs[(3 : NibIx)].inp.windows.reverse.find? (emptyDue s 3) = some w
          ∧ w.closes = some 679990000 ∧ s.nibs[(3 : NibIx)].inp.ctrl = 0)
    ∧ let s := nibAt fun x => { x with owner := some 0, inp := { x.inp with ctrl := 0x200000, freqDue := [(679997000, 9)] } };
      Unheard s 3 ∧ s.nibs[(3 : NibIx)].inp.freqDue = [(679997000, 9)] ∧ dueNow s (679997000 + 2304) = true
        ∧ s.time.coarse = false ∧ s.nibs[(3 : NibIx)].owner = some 0 ∧ s.nibs[(3 : NibIx)].inp.ctrl.getLsbD 21 = true := by
  refine ⟨⟨unheard_of ?_, ?_⟩, ?_, ⟨unheard_of ?_, ?_⟩, unheard_of ?_, ?_⟩ <;> decide +kernel

theorem witness_CaptureRegisters :
    (let s := withUnit base .nib 3; Reaches .sp s ∧ bound s .nib 3 = true ∧ bound s .nib 4 = false
      ∧ bound s .captureStream 0 = false ∧ filterDue s 3 = false ∧ s.nibs[(3 : NibIx)].inp.late = []
      ∧ s.nibs[(3 : NibIx)].wroteIn ≠ s.time.tb)
    ∧ (let s := withUnit base .captureStream 2; Reaches .sp s ∧ bound s .captureStream 2 = true)
    ∧ (0x3FF#32).getLsbD 0 = true ∧ (0#32).getLsbD 0 = false :=
  ⟨⟨reaches_sp ⟨rfl, rfl, rfl, rfl⟩ rfl rfl, by decide +kernel⟩,
    ⟨reaches_sp ⟨rfl, rfl, rfl, rfl⟩ rfl rfl, by decide +kernel⟩, by decide⟩

/-! Tracker 2, of a TOOTH source with one tooth a turn, whose last interval was 1 µs. -/

def trackAt (f : Tracker → Tracker) : State :=
  let s := base
  { s with trackers := s.trackers.set 2 (f { s.trackers[2] with
      cfg := { s.trackers[2].cfg with en := true, run := true, src := 1, stallTime := 5 } }) }

def syncedAt (time : W64) (t : Tracker) : Tracker :=
  { t with state := .synced, hasTooth := true, toothTime := time, stallSince := time, hist := [{ d := 8000, a := 2 ^ 32 }] }

/-- The first tooth; the second; noise 40 ns after a tooth, less one eighth; a tooth of a synced tracker at the predicted
time; a count of a synced QUAD tracker. -/
theorem witness_TeethProcessed :
    let x : ToothIn := { time := 680000000 };
    (let a := (trackAt fun t => { t with waiting := [x] }).trackers[(2 : TrackIx)];
      a.waiting = [x] ∧ a.cfg.run = true ∧ srcKind a = .tooth ∧ x.position = none ∧ a.cfg.dirMode ≠ 1
        ∧ a.state = .unsynced ∧ a.hasTooth = false)
    ∧ (let a := (trackAt fun t => { t with waiting := [x], hasTooth := true, stallSince := 679999680 }).trackers[(2 : TrackIx)];
      a.state = .unsynced ∧ a.hasTooth = true ∧ 320 ≤ (x.time - a.stallSince).toInt)
    ∧ (let a := (trackAt fun t => { t with waiting := [x], hasTooth := true, stallSince := 679999681 }).trackers[(2 : TrackIx)];
      a.hasTooth = true ∧ (x.time - a.stallSince).toInt < 320)
    ∧ (let a := (trackAt fun t => syncedAt 679992000 { t with waiting := [x] }).trackers[(2 : TrackIx)];
      a.state = .synced ∧ a.reverse = false ∧ 320 ≤ (x.time - a.stallSince).toInt
        ∧ isNoise a (x.time - a.toothTime).toInt = false ∧ externalAt a x.time = false ∧ a.suspect = none
        ∧ failsCheck a (x.time - a.toothTime).toNat x.width = false
        ∧ isReference a (x.time - a.toothTime).toNat x.width false = false ∧ a.synth = false)
    ∧ let q : ToothIn := { time := 680000000, position := some 7 };
      let a := (trackAt fun t => { t with
        waiting := [q], state := .synced, cfg := { t.cfg with src := 2, countsCyc := 100 } }).trackers[(2 : TrackIx)];
      a.waiting = [q] ∧ srcKind a = .quad ∧ q.reference = false ∧ a.state = .synced := by decide +kernel

/-- A synced tracker in mid-interval; one whose tooth is 50 % late; one without a tooth for STALL_TIME, SYNCED and
COUNTING. -/
theorem witness_TrackerDeadlines :
    microDue (trackAt (syncedAt 679996000)) 2 = true
    ∧ (missDue (trackAt (syncedAt 679988000)) 2 = true
        ∧ predPeriod (trackAt (syncedAt 679988000)).trackers[(2 : TrackIx)] = some 8000)
    ∧ stallDue (trackAt (syncedAt 679960000)) 2 = true
    ∧ countingDue (trackAt fun t => { syncedAt 679960000 t with state := .counting }) 2 = true
    ∧ microDue base 2 = false ∧ missDue base 2 = false ∧ stallDue base 2 = false ∧ countingDue base 2 = false := by decide +kernel

/-- Tracker 2 of a bound unit with a correct map and with an impossible one, disabled and enabled. -/
theorem witness_TrackerControl :
    (∀ teeth : Bool, let s := withUnit (trackAt fun t => { t with
        cfg := { t.cfg with en := false, run := false, teeth := if teeth then 1 else 2 } }) .tracker 2;
      Reaches .sp s ∧ bound s .tracker 2 = true ∧ bound s .tracker 3 = false ∧ srcKind s.trackers[(2 : TrackIx)] = .tooth ∧ s.trackers[(2 : TrackIx)].cfg.en = false
        ∧ s.trackers[(2 : TrackIx)].cfg.run = false ∧ glyphsOn s .tracker 2 = true
        ∧ enableOk (modTrack s 2 fun y => { y with
            cfg := { y.cfg with en := true, stallKeep := false, dirMode := 0 } }) 2 = teeth)
    ∧ (let s := withUnit (trackAt (syncedAt 679992000)) .tracker 2;
      Reaches .sp s ∧ s.trackers[(2 : TrackIx)].cfg.en = true ∧ s.trackers[(2 : TrackIx)].cfg.run = true
        ∧ fld (0#32) 5 4 = s.trackers[(2 : TrackIx)].cfg.dirMode ∧ fld (0x10#32) 5 4 ≠ s.trackers[(2 : TrackIx)].cfg.dirMode
        ∧ bound s .tracker 2 = true ∧ s.trackers[(2 : TrackIx)].waiting = []
        ∧ s.trackers[(2 : TrackIx)].cfg.dirMode < 2 ∧ glyphsOn s .tracker 2 = true
        ∧ s.trackers[(2 : TrackIx)].hist ≠ [] ∧ s.trackers[(2 : TrackIx)].state ≠ .unsynced) := by
  refine ⟨fun b => ⟨reaches_sp ⟨rfl, rfl, rfl, rfl⟩ rfl rfl, ?_⟩, reaches_sp ⟨rfl, rfl, rfl, rfl⟩ rfl rfl, ?_⟩
  · revert b; decide +kernel
  · decide +kernel

/-- LEARN with gains 8 and 9; a disabled and an enabled tracker, and one that no unit binds. -/
theorem witness_LearningAndMap :
    let s := withUnit base .tracker 2
    Reaches .sp s ∧ ¬(fld (0x81#32) 1 0 = 1 ∧ (fld (0x81#32) 7 4 = 0 ∨ 8 < fld (0x81#32) 7 4))
      ∧ (fld (0x91#32) 1 0 = 1 ∧ (fld (0x91#32) 7 4 = 0 ∨ 8 < fld (0x91#32) 7 4))
      ∧ bound s .tracker 2 = true ∧ bound s .tracker 3 = false
      ∧ s.trackers[(2 : TrackIx)].cfg.en = false
      ∧ sparseWf {} s.trackers[(2 : TrackIx)].map.entries = true
      ∧ (withUnit (trackAt id) .tracker 2).trackers[(2 : TrackIx)].cfg.en = true := by
  refine ⟨reaches_sp ⟨rfl, rfl, rfl, rfl⟩ rfl rfl, ?_⟩
  decide +kernel

/-! Feedback channel 2. -/

def chanAt (f : Feedback → Feedback) : State :=
  let s := base
  { s with channels := s.channels.set 2 (f s.channels[2]) }

/-- A channel with lines at 0 that holds for 10 ns, and one that has lines waiting since 24 eighths: one step, both lines, none, an index in HOLD
and in RESET mode; a stopped channel; a core clock that stands. -/
theorem witness_ChannelCounts :
    (let s := chanAt fun x => { x with ctrl := 3, run := true, filt := 10 };
      s.channels[(2 : FbIx)].pend = [] ∧ s.time.stopped = false
        ∧ (!s.time.stopped && fbHeld (fbSample s 2 true false false) (fbSample s 2 true false false).channels[(2 : FbIx)]) = false)
    ∧ (∀ c ∈ [(3, [0], 1, 0), (0x23, [1], 3, 1), (3, [0, 1], 2, 0), (3, [2], 0, 0), (0x23, [2], 0, 1)],
      let held : Held := { stamp := 679999900, since := 679999900 };
      let pend : List FbEdge := c.2.1.map fun l => { line := Fin.ofNat 3 l, level := true, held := held };
      let s := chanAt fun x => { x with ctrl := BitVec.ofNat 32 c.1, run := true, pend := pend };
      let on (l : Nat) : Bool := c.2.1.contains l
      let r := fbSample s 2 (on 0) (on 1) (on 2);
      let x := s.channels[(2 : FbIx)];
      (!s.time.stopped && fbHeld r r.channels[(2 : FbIx)]) = true ∧ r.channels[(2 : FbIx)].pend = pend
        ∧ x.run = true ∧ fbMode x = 1 ∧ x.z = false ∧ (grayPlace (on 0) (on 1) + 4 - grayPlace x.a x.b) % 4 = c.2.2.1
        ∧ x.ctrl.getLsbD 4 = false ∧ x.ctrl.getLsbD 9 = false ∧ fld x.ctrl 6 5 = c.2.2.2)
    ∧ base.channels[(2 : FbIx)].run = false
    ∧ ({ base with time := { base.time with stopped := true } } : State).time.stopped = true := by decide +kernel

/-- A first frame and a second one, of eight bits with even parity, whose last bit has been sampled, and the same with A
low at its last bit alone; a delay of 2 µs; a channel at its ZERO_TIME. -/
theorem witness_SerialFrames :
    (∀ prev ∈ [none, some 0], ∀ odd : Bool,
      let s := chanAt fun x => { x with
        run := true, ssiCtrl := 0x4808, ssiStart := some 679000000, ssiPrev := prev
        ssiEdges := if odd then [(679000240, false)] else [] };
      let x := s.channels[(2 : FbIx)];
      x.ssiStart = some 679000000 ∧ ssiDone s 2 = true
        ∧ (odd = true → ssiParityOk x (ssiBits x 679000000) = false)
        ∧ (odd = false → ssiParityOk x (ssiBits x 679000000) = true
            ∧ ∀ p ∈ prev.toList, ssiJumps x (ssiDelta x p (ssiValue x (ssiBits x 679000000))) = false))
    ∧ (let x := (chanAt fun x => { x with ssiCtrl := 0x4808 }).channels[(2 : FbIx)];
        ssiParityOk x 5 = true ∧ ssiParityOk x 4 = false)
    ∧ ssiTimedOut (chanAt fun x => { x with ssiCtrl := 0x20000, ssiStart := some 679983000 }) 2 = true
    ∧ (let s := chanAt fun x => { x with run := true, lastCount := some (0, 0) };
      stillDue { s with time := { s.time with tickTb := 100000000 } } 2 = true)
    ∧ ssiDone base 2 = false ∧ ssiTimedOut base 2 = false ∧ stillDue base 2 = false := by decide +kernel

theorem witness_ChannelControl :
    let s := withUnit base .feedback 2
    let e := withUnit (chanAt fun x => { x with ctrl := 3 }) .feedback 2
    Reaches .sp s ∧ Reaches .sp e ∧ bound s .feedback 2 = true ∧ bound s .feedback 3 = false
    ∧ s.channels[(2 : FbIx)].ctrl.getLsbD 0 = false ∧ fld (3#32) 2 1 ≠ 3 ∧ s.channels[(2 : FbIx)].idxArmed = false
    ∧ s.channels[(2 : FbIx)].run = false ∧ glyphsOn s .feedback 2 = true
    ∧ fld (7#32) 2 1 = 3 ∧ ssiOk s.channels[(2 : FbIx)] = false
    ∧ e.channels[(2 : FbIx)].ctrl.getLsbD 0 = true
    ∧ (0x23#32 &&& fbLocked) ≠ (e.channels[(2 : FbIx)].ctrl &&& fbLocked) := by
  refine ⟨reaches_sp ⟨rfl, rfl, rfl, rfl⟩ rfl rfl, reaches_sp ⟨rfl, rfl, rfl, rfl⟩ rfl rfl, ?_⟩
  decide +kernel

/-- An edge that is due on an emulator that nib 3 carries, and nib 3 at its start; EMU_CTRL values in range and out of
range, and one that changes a locked field. -/
theorem witness_EmulatorActs :
    (∀ start : Bool, let s := chanAt fun x => { x with emu := { x.emu with waiting := [(0, 5)] } };
      let s := { s with nibs := Vector.replicate 256 { resetNib 3 3 with
        ctrl := 7, run := true, param0 := 2, emuFrom := if start then some 0 else none, emuOn := !start } };
      emuNibDue s 2 s.nibs[(3 : NibIx)] = start
        ∧ s.channels[(2 : FbIx)].emu.waiting = [(0, 5)]
        ∧ emuPlace s s.channels[(2 : FbIx)].emu = some (32128, false) ∧ dueNow s 32128 = true
        ∧ s.blotter.queue = [] ∧ s.folio.routes = [] ∧ carriesEmu s.nibs[(3 : NibIx)] 2 = true)
    ∧ (∀ x : Nib, x.emuFrom = none → emuNibDue base 2 x = false)
    ∧ (let s := withUnit base .feedback 2;
        Reaches .sp s ∧ bound s .feedback 2 = true ∧ s.channels[(2 : FbIx)].emu.ctrl.getLsbD 0 = false)
    ∧ emuCtrlOk (0x1803#32 &&& 0x1FFF) = true ∧ emuCtrlOk (0x1903#32 &&& 0x1FFF) = false
    ∧ (let m := ({ ctrl := 0x1803 } : Emulator);
        m.ctrl.getLsbD 0 = true ∧ (0x1805#32 &&& 0x1FFE) ≠ (m.ctrl &&& 0x1FFE)) := by
  refine ⟨?_, ?_, ⟨reaches_sp ⟨rfl, rfl, rfl, rfl⟩ rfl rfl, ?_⟩, ?_⟩
  · decide +kernel
  · intro x h; simp [emuNibDue, h]
  · decide +kernel
  · decide +kernel

/-! Comparator 4, the converter, counter element 9, time. -/

def compAt (f : Comparator → Comparator) : State :=
  let s := base
  { s with comparators := s.comparators.set 4 (f s.comparators[4]) }

/-- A continuous comparator, resolved and not; a sampled one at its cycle; one that settles then, one with
THR written in its cycle; one that has settled, and one that is blank; one whose blanking ends now, and one that settles. THR in and out of order; CTRL from 0 to 1, from 1 to 0, and with a locked field changed. -/
theorem witness_ComparatorsEvaluate :
    (∀ u : Bool, let x := (compAt fun x => { x with run := true, unresolved := u }).comparators[(4 : AcIx)];
      compLive x = true ∧ acSampled x = false ∧ x.unresolved = u)
    ∧ (let s := compAt fun x => { x with run := true, ctrl := 3 };
      let s := { s with time := { s.time with cycle := 200 } };
      sampleDue s s.comparators[(4 : AcIx)] = true ∧ s.comparators[(4 : AcIx)].settle = none)
    ∧ (let s := compAt fun x => { x with run := true, ctrl := 3, settle := some 85000001 };
      let s := { s with time := { s.time with cycle := 200 } };
      let x := s.comparators[(4 : AcIx)];
      sampleDue s x = true ∧ x.settle ≠ none ∧ tbReached s x.settle = false)
    ∧ (let s := compAt fun x => { x with run := true, ctrl := 3, blank := some 85001000, thrWas := some (85000000, 7) };
      thrJustWritten s s.comparators[(4 : AcIx)] = true)
    ∧ (∀ b : Bool, let s := compAt fun x => { x with
          run := true, settle := some 85000000, blank := if b then some 85000500 else none };
      let x := s.comparators[(4 : AcIx)];
      x.run = true ∧ acSampled x = false ∧ tbReached s x.settle = true ∧ (x.blank = none ↔ b = false))
    ∧ (∀ b : Bool, let s := compAt fun x => { x with
          run := true, blank := some 85000000, settle := if b then some 85000500 else none };
      let x := s.comparators[(4 : AcIx)];
      x.run = true ∧ tbReached s x.blank = true ∧ (x.settle = none ↔ b = false) ∧ tbReached s x.settle = false)
    ∧ fld (0x02000200#32) 9 0 ≤ fld (0x02000200#32) 25 16
    ∧ fld (0x02000201#32) 25 16 < fld (0x02000201#32) 9 0
    ∧ (let s := withUnit base .comparator 4;
      let x := s.comparators[(4 : AcIx)];
      Reaches .sp s ∧ bound s .comparator 4 = true ∧ bound s .comparator 5 = false
        ∧ x.ctrl.getLsbD 0 = false ∧ x.run = false ∧ glyphsOn s .comparator 4 = true)
    ∧ let x := (compAt fun x => { x with run := true, ctrl := 1 }).comparators[(4 : AcIx)];
      x.ctrl.getLsbD 0 = true ∧ x.run = true ∧ (0#32 &&& acLocked) = (x.ctrl &&& acLocked)
        ∧ (3#32 &&& acLocked) ≠ (x.ctrl &&& acLocked) := by
  refine ⟨?_, ?_, ?_, ?_, ?_, ?_, ?_, ?_, ⟨reaches_sp ⟨rfl, rfl, rfl, rfl⟩ rfl rfl, ?_⟩, ?_⟩ <;> decide +kernel

def adcAt (f : Adc → Adc) : State := { base with adc := f base.adc }

/-- A conversion of AIN3 that has run 500 ns; a readback whose result is one beyond the tolerance and one within it; an
arbitration with each of its three outcomes; a round that ends; the converter bound and not. -/
theorem witness_ConverterActs :
    (let s := adcAt fun a => { a with slots := [.input 3, .reference], began := some 84999500 };
      s.adc.run = true ∧ s.adc.began = some 84999500 ∧ notAfter (84999500 + 500) s.time.tb = true
        ∧ s.adc.slots = [.input 3, .reference])
    ∧ (let s := adcAt fun a => { a with
          slots := [.readback, .reference], began := some 84999500, reading := some (4, true, 100) };
      s.adc.slots = .readback :: [.reference] ∧ s.adc.reading = some (4, true, 100) ∧ withinTol s.adc 100 100 = true
        ∧ withinTol s.adc 200 100 = false ∧ s.adc.spareActive = false ∧ s.adc.spareGone = false)
    ∧ (let s := adcAt fun a => { a with
          arbitrations := [{ threshold := some (4, true), main := 200, expected := 100 }], arbBegan := some 84999500 };
      arbitrationDue s = true ∧ s.adc.arbitrations = { threshold := some (4, true), main := 200, expected := 100 } :: []
        ∧ withinTol s.adc 100 100 = true ∧ withinTol s.adc 200 100 = false ∧ withinTol s.adc 200 200 = true
        ∧ withinTol s.adc 300 100 = false ∧ withinTol s.adc 300 200 = false)
    ∧ conversionDue (adcAt fun a => { a with began := none }) = false ∧ arbitrationDue base = false
    ∧ (let s := adcAt fun a => { a with slots := [.reference], began := some 84999500 };
        s.adc.run = true ∧ notAfter (84999500 + 500) s.time.tb = true ∧ s.adc.slots = [.reference])
    ∧ bound base .converter 0 = false
    ∧ let s := withUnit base .converter 0; Reaches .sp s ∧ bound s .converter 0 = true ∧ s.adc.run = true := by
  refine ⟨?_, ?_, ?_, ?_, ?_, ?_, ?_, reaches_sp ⟨rfl, rfl, rfl, rfl⟩ rfl rfl, ?_, rfl⟩ <;> decide +kernel

def ceAt (f : Counter → Counter) : State :=
  let s := base
  { s with counters := s.counters.set 9 (f s.counters[9]) }

/-- A spare counter element is free where every logical one is served by the first. -/
theorem foldl_freeCe {s : State} (map : s.pool.ceMap = Vector.replicate 512 0) (healthy : s.pool.retiredCes = 0) :
    ∃ c, freeCe s = some c := by
  refine Option.isSome_iff_exists.mp ?_
  simp only [freeCe, freeCes, List.head?_filter, List.find?_isSome, map, healthy, Fin.getElem_fin, Vector.getElem_replicate]
  refine ⟨1, by simp [indices], ?_⟩
  rcases foldl_or_const (1#544 <<< (0 : Fin 544).val) (indices 512) 0 with h | h <;> rw [h] <;> decide +kernel

/-- Compare 2 fires; a period ends, with a PWM nib on the element; a takeover with a spare free; EN is 0; EN is 1; WSEL
names compare 3, the period and nothing; registers written by PCIe in this ACLK cycle. -/
theorem witness_CounterElements :
    (ceAt fun x => { x with firing := 4 }).counters[(9 : CeIx)].firing.getLsbD (2 : Fin 4) = true
    ∧ (let s := ceAt fun x => { x with ends := 1 };
      let s := { s with nibs := s.nibs.set 3 { s.nibs[3] with ctrl := 3, run := true, param0 := 9 } };
      s.quiet ∧ s.counters[(9 : CeIx)].ends ≠ 0 ∧ s.time.coarse = false ∧ pwmFollows s.nibs[(3 : NibIx)] 9 = true
        ∧ pwmFollows s.nibs[(4 : NibIx)] 9 = false)
    ∧ (let s := ceAt fun x => { x with takeover := true };
      let s := { s with
        time := { s.time with cycle := 0 }, pool := { s.pool with ceMap := Vector.replicate 512 0 } };
      s.counters[(9 : CeIx)].takeover = true ∧ s.time.cycle = 0 ∧ s.time.rulings = true ∧ ∃ c, freeCe s = some c)
    ∧ base.counters[(9 : CeIx)].firing.getLsbD (2 : Fin 4) = false ∧ base.counters[(9 : CeIx)].ends = 0
    ∧ base.counters[(9 : CeIx)].takeover = false
    ∧ (let s := withUnit base .counter 9;
        Reaches .sp s ∧ bound s .counter 9 = true ∧ bound s .counter 8 = false ∧ ceEn s.counters[(9 : CeIx)] = false
          ∧ s.counters[(9 : CeIx)].wroteIn ≠ s.time.tb >>> 1)
    ∧ ceEn (ceAt fun x => { x with ctrl := 1 }).counters[(9 : CeIx)] = true
    ∧ (∀ k ∈ [3, 4, 5], ceWsel (ceAt fun x => { x with wselSp := BitVec.ofNat 3 k }).counters[(9 : CeIx)] .sp = k)
    ∧ ∀ r ∈ [CeReg.ctrl, .count, .compare 3, .period],
      let x := (ceAt fun x => { x with wroteIn := base.time.tb >>> 1, wrote := [(r, ceRank .pcie)] }).counters[(9 : CeIx)];
      x.wroteIn = base.time.tb >>> 1 ∧ ∃ w ∈ x.wrote, w.1 = r ∧ ceRank .sp < w.2 := by
  refine ⟨by decide +kernel, ⟨rfl, by decide +kernel⟩, ⟨by decide +kernel, rfl, rfl, foldl_freeCe rfl rfl⟩,
    by decide +kernel, by decide +kernel, by decide +kernel,
    ⟨reaches_sp ⟨rfl, rfl, rfl, rfl⟩ rfl rfl, by decide +kernel⟩, by decide +kernel, by decide +kernel, by decide +kernel⟩

/-- Coarse running on its crystal; the clock about to resume; TB_TRIM's final value due now. -/
theorem witness_CoarseAndFine :
    (let s := { base with time := { base.time with stopped := true, resume := true } };
      s.quiet ∧ s.time.stopped = true ∧ s.power.lfOk = true ∧ s.time.resume = true ∧ s.power.mode = .up
        ∧ s.host.dhalt = false)
    ∧ notAfter 85000000 base.time.tb = true ∧ Reaches .sp base ∧ base.canonical :=
  ⟨⟨rfl, rfl, rfl, rfl, rfl, rfl⟩, by decide, reaches_sp ⟨rfl, rfl, rfl, rfl⟩ rfl rfl, by decide, by decide, by decide, by decide⟩

def syncAt (f : SyncSt → SyncSt) : State :=
  { base with time := { base.time with sync := f base.time.sync } }

/-- A ring master; a follower and a frame with and without its CRC, the fourth in a row, in SEARCH and in HOLDOVER; a
frame in LOCKED that carries what the follower had, and one that does not; three rulings without a frame; sixteen aligned
ticks. -/
theorem witness_SyncLinkActs :
    base.quiet ∧ Reaches .sp base ∧ base.folio.started = false
    ∧ ({ base with folio := { base.folio with started := true } } : State).folio.started = true
    ∧ syncRole base.time.sync.ctrl = 0 ∧ syncRole (1 : Word) = 1
    ∧ (let y := (syncAt fun y => { y with ctrl := 9 }).time.sync; syncRole y.ctrl = 1 ∧ y.ctrl.getLsbD 3 = true)
    ∧ (∀ st ∈ [SyncState.search, .holdover], let y := (syncAt fun y => { y with
          ctrl := 2, state := st, run := 3, slotsSeen := 0xE }).time.sync;
      syncRole y.ctrl = 2 ∧ frameValid y true 0xCEF100000000000000 = true ∧ frameValid y true 0xCEF100000000000001 = false
        ∧ frameValid y false 0xCEF100000000000000 = false ∧ y.state = st ∧ 4 ≤ y.run + 1
        ∧ (y.slotsSeen ||| (1#4 <<< (frameSlot 0xCEF100000000000000).val)) = 0xF)
    ∧ (∀ old : Bool, let s := syncAt fun y => { y with ctrl := 2, state := .locked };
      let s := { s with time := { s.time with frame := 0, tickTb := if old then 0 else 5 } };
      syncRole s.time.sync.ctrl = 2 ∧ s.time.sync.state = .locked ∧ s.time.sync.stepDue = false
        ∧ frameValid s.time.sync true 0xCEF100000000000000 = true ∧ masterDiffers s 0xCEF100000000000000 = !old)
    ∧ (∀ st ∈ [SyncState.acquire, .locked], syncLossDue (syncAt fun y => { y with state := st, without := 3 }) = true)
    ∧ let y := (syncAt fun y => { y with state := .acquire, aligned := 16 }).time.sync;
      y.state = .acquire ∧ 16 ≤ y.aligned := by
  refine ⟨rfl, reaches_sp ⟨rfl, rfl, rfl, rfl⟩ rfl rfl, rfl, rfl, ?_⟩
  decide +kernel

/-! The queue, the lanes, time and ticks, and register accesses. -/

/-- The device as it is reset, at another cycle of its ruling. -/
def ruling (cycle : Nat) : State := { base with time := { base.time with cycle := cycle } }

/-! Nothing is due 100 cycles into a ruling of the device as it is reset. -/

theorem foldl_none {n : Nat} {β : Type} {f : Fin n → Option β} (h : ∀ i, f i = none) : (indices n).findSome? f = none :=
  List.findSome?_eq_none_iff.mpr fun _ _ => h _

theorem foldl_find {n : Nat} {f : Fin n → Bool} (h : ∀ i, f i = false) : (indices n).find? f = none :=
  List.find?_eq_none.mpr fun i _ => by simp [h i]

theorem foldl_reset (c : Nat) (e : CeIx) : (ruling c).counters[e] = resetCounter := by simp [ruling, base, State.reset]

theorem foldl_match (c : Nat) (e : CeIx) : matchCommand (ruling c) e = none := by
  rw [matchCommand, foldl_reset c e]; rfl

theorem foldl_period (c : Nat) (e : CeIx) : periodCommand (ruling c) e = none := by
  rw [periodCommand, foldl_reset c e]; rfl

theorem foldl_fallback (e : SrcIx) : fallbackDue (ruling 100).eic (ruling 100).eic.sources[e] = false := by
  have h : (ruling 100).eic.sources[e] = {} := by simp [ruling, base, State.reset, resetEic]
  rw [h]; decide +kernel

theorem foldl_nibs (c : Nat) (n : NibIx) : (ruling c).nibs[n.val] = resetNib n n.val := by simp [ruling, base, State.reset]

theorem foldl_out (n : NibIx) : nextOut (resetNib n n.val) = none := rfl

theorem foldl_nib (n : NibIx) : nibCommand (ruling 100) n = none := by
  have p : pwmNib (resetNib n n.val) = false := by rfl
  simp [nibCommand, cellMoveDue, outCommand, pwmDue, foldl_nibs, foldl_out, p]; simp [resetNib]

theorem foldl_input (n : NibIx) : inputCommand (ruling 100) n = none := by
  simp [inputCommand, filterDue, seeDue, runDue, freqDue, showDue, foldl_nibs, resetNib]

theorem foldl_source (n : SrcIx) : arrivalDue (ruling 100) n = false ∧ fallDue (ruling 100) n = false := by
  have h : (ruling 100).eic.sources[n] = {} := by simp [ruling, base, State.reset, resetEic]
  constructor
  · rw [arrivalDue, h]; rfl
  · rw [fallDue, h]; rfl

theorem foldl_group (n : Fin 64) : groupDue (ruling 100).eic.groups[n] = false := by
  have h : (ruling 100).eic.groups[n] = {} := by simp [ruling, base, State.reset, resetEic]
  rw [h]; rfl

theorem foldl_eic : eicCommand (ruling 100) = none := by
  have a : (indices 1024).findSome? (fun (x : SrcIx) => if arrivalDue (ruling 100) x then some (Instr.eicArrival x)
      else if fallDue (ruling 100) x then some (.levelInputFall x) else none) = none := foldl_none fun x => by
    rw [(foldl_source x).1, (foldl_source x).2]; rfl
  rw [eicCommand, a]
  show (match (indices 64).find? fun g => groupDue (ruling 100).eic.groups[g] with
    | some g => some (Instr.groupTimerExpiry g)
    | none => ((indices 1024).find? fun x => fallbackDue (ruling 100).eic (ruling 100).eic.sources[x]).map .fallbackTimer) = none
  rw [foldl_find foldl_group, foldl_find foldl_fallback]; rfl

theorem foldl_first {fs : List (Unit → Option Instr)} (h : ∀ f ∈ fs, f () = none) : firstCommand fs = none := by
  induction fs with
  | nil => rfl
  | cons f fs ih => rw [firstCommand, h f (by simp)]; exact ih fun g m => h g (by simp [m])

theorem foldl_running {s : State} (m : s.power.mode = .up) (t : s.time.stopped = false) (e : s.scribe.entry = none) :
    dueCommand s = dueInCycle s := by simp [dueCommand, m, t, entryDue, e]

theorem foldl_due : dueCommand (ruling 100) = none := by
  rw [foldl_running rfl rfl rfl, dueInCycle]
  refine foldl_first ?_
  simp only [List.forall_mem_cons, foldl_none (foldl_match 100), foldl_none (foldl_period 100), foldl_none foldl_nib,
    foldl_none foldl_input, foldl_eic, List.not_mem_nil, false_implies, implies_true, and_true, true_and]
  refine ⟨?_, ?_, ?_, ?_, ?_, ?_, ?_, ?_, ?_, ?_, ?_, ?_⟩ <;> decide +kernel

theorem foldl_tick : dueCommand (ruling 4000) = some .tick := by
  rw [foldl_running rfl rfl rfl, dueInCycle, firstCommand]
  have h : tickCommand (ruling 4000) = some .tick := by decide +kernel
  rw [h]

/-- A command in front; the tick due at reset; a device in reset; a cycle of a running device with nothing due. -/
theorem witness_StepTakesTheFront :
    { base with pending := [.porstNAssert, .tick] }.pending = .porstNAssert :: [.tick] := rfl

theorem witness_EmptyQueue :
    (let s := ruling 4000; s.quiet ∧ s.pending = [] ∧ dueCommand s = some .tick)
    ∧ (let s : State := { base with
        time := { base.time with rulings := false }, power := { base.power with mode := .reset } };
      s.quiet ∧ s.pending = [] ∧ s.power.mode = .reset ∧ s.time.rulings = false)
    ∧ let s := ruling 100;
      s.quiet ∧ s.pending = [] ∧ s.power.mode = .up ∧ s.time.stopped = false ∧ tickDue s = false ∧ dueCommand s = none :=
  ⟨⟨rfl, rfl, foldl_tick⟩, ⟨rfl, rfl, rfl, rfl⟩, ⟨rfl, rfl, rfl, rfl, by decide +kernel, foldl_due⟩⟩

theorem witness_CanonicalKept : base.canonical := ⟨by decide, by decide, by decide, by decide⟩

theorem witness_AluCarriesAndSaturates : 0 < 8 := by decide
theorem witness_AluShiftsAndFields : 0 < 8 ∧ 7 < 8 := by decide

/-- A tick with nothing committed, nothing waiting to be applied and no entry; with a program committed; a close at
cycle 3968, with a trigger at the coming frame; a START, a TB_SET; a trigger that expires, at frame 10, and one that does
not; copies done and not done, and one that lost a word. -/
theorem witness_TicksAndCloses :
    (let s := ruling 4000;
      tickDue s = true ∧ swapDue s = false ∧ syncStep s = none ∧ s.quiet ∧ s.scribe.entry = none
        ∧ s.time.tbSet = none ∧ startDue s = false)
    ∧ (let s : State := { ruling 4000 with co := { base.co with phase := .committed } };
      swapDue s = true ∧ syncStep s = none ∧ s.quiet)
    ∧ closeDue (ruling 3968) = true ∧ closeDue (ruling 3967) = false
    ∧ (let s : State := { ruling 3968 with co := { base.co with phase := .armed, trigger := some (.frame 0) } };
      closeDue s = true ∧ s.co.phase = .armed ∧ s.co.trigger = some (.frame 0) ∧ comingFrame s = 0)
    ∧ startDue { ruling 4000 with folio := { base.folio with loaded := true, startAt := some 0 } } = true
    ∧ (let s : State := { ruling 4000 with time := { (ruling 4000).time with tbSet := some (5, 7) } };
      tickDue s = true ∧ s.time.tbSet = some (5, 7))
    ∧ tickDue base = false
    ∧ (let s (e : W64) : State := { ruling 0 with co := { base.co with phase := .armed, expire := e } };
      (s 0).quiet ∧ expiryDue (s 0) = true ∧ expiryDue (s 1) = false)
    ∧ let s (l : Option (Fin 4096)) : State := { base with
        co := { base.co with copies := [{ bank := 3, source := 65, words := [], lost := l }] } };
      (s none).quiet ∧ carryCopied (s none) = true ∧ carryCopied (s (some 9)) = true
        ∧ mappedTo (s (some 9)) 65 = none := by
  refine ⟨⟨?_, ?_, ?_, rfl, ?_, ?_, ?_⟩, ⟨?_, ?_, rfl⟩, ?_, ?_, ?_, ?_, ?_, ?_, ⟨rfl, ?_, ?_⟩, rfl, ?_, ?_, ?_⟩ <;>
    decide +kernel

/-- A write of TRIM; of the high word of a counter's WIN_START; of the low word of a ring's base; a write to no register. -/
theorem witness_RegisterWrites :
    Reaches .sp base ∧ registerOf (.trimWrite .sp 5) = some (.sp, 0x2034, 5)
    ∧ highWordOf (.cqBaseWrite .sp 3 5) = some (.sp, cqAddr 3 + 4, 5)
    ∧ placeFor .sp 0x20020 = some ⟨.dma, 0, 0x20⟩
    ∧ wideAt ⟨.dma, 0, 0x20⟩ = some 0x20 ∧ placeFor .sp 0x3000 = none ∧ placeFor .sp 0x2035 = none :=
  ⟨reaches_sp ⟨rfl, rfl, rfl, rfl⟩ rfl rfl, by decide +kernel⟩

/-- A low word, another word of it, an address of no register, and KEEP_DATA with AUTO_INC. -/
theorem witness_RegisterReads :
    Reaches .sp base ∧ placeFor .sp 0x2010 = some ⟨.time, 0, 0x10⟩ ∧ rlAt ⟨.time, 0, 0x10⟩ = some (0x10, 4)
    ∧ placeFor .sp 0x201C = some ⟨.time, 0, 0x1C⟩ ∧ rlAt ⟨.time, 0, 0x1C⟩ = some (0x10, 4)
    ∧ placeFor .sp 0x3000 = none := ⟨reaches_sp ⟨rfl, rfl, rfl, rfl⟩ rfl rfl, by decide +kernel⟩

/-- An address of no target, a register and a word of inkwell 0 as targets, of a write too, a read of each, one done and
one not; the read of a register while the device is asleep; a read under way, one that is done. -/
theorem witness_ServicePortFrames :
    let held (d : Bool) : State := { base with
      host := { base.host with spAccess := some { addr := 0x2000, done := d } } };
    let asleep : State := { base with power := { base.power with mode := .sleep } };
    let taken : State := { base with ink := { base.ink with used := [0] } };
    base.calm ∧ spTarget 0x2001 = none ∧ spTarget 0x40800000 = none ∧ spRuns base = true
    ∧ spPending base = false ∧ spTarget 0x2034 = some (.reg 0x2034) ∧ spTarget 0x40000010 = some (.bar4 0x10)
    ∧ ((spGet base 0x2034 (.reg 0x2034)).host.spAccess = some { addr := 0x2034, done := true }
        ∧ (spGet base 0x40000010 (.bar4 0x10)).host.spAccess = some { addr := 0x40000010, done := true }
        ∧ (spGet taken 0x40000010 (.bar4 0x10)).host.spAccess = some { addr := 0x40000010, done := false }
        ∧ spPending taken = false)
    ∧ (asleep.calm ∧ asleep.power.mode = .sleep ∧ spPending asleep = false)
    ∧ ((held false).calm ∧ (held false).host.spAccess = some { addr := 0x2000, done := false }
        ∧ (held false).power.mode = .up ∧ spRuns (held false) = true ∧ spTarget 0x2000 = some (.reg 0x2000))
    ∧ (held true).host.spAccess = some { addr := 0x2000, done := true } ∧ spRuns (held true) = true
    ∧ base.host.spAccess = none
    ∧ Reaches .pcie { base with host := { base.host with linkUp := true } } :=
  ⟨⟨rfl, rfl, rfl, rfl⟩, by decide, by decide, by decide, by decide, by decide, by decide, by decide +kernel,
    ⟨⟨rfl, rfl, rfl, rfl⟩, rfl, by decide⟩,
    ⟨⟨rfl, rfl, rfl, rfl⟩, rfl, rfl, by decide, by decide⟩, rfl, by decide, rfl,
    ⟨⟨rfl, rfl, rfl, rfl⟩, by decide, rfl, rfl⟩⟩

/-- A unit that is bound and one that is not; a glyph with a parameter and nothing that waits. -/
theorem witness_UnitControl :
    let g : UnitSt := { (unitFor .glyph 0xFFFF) with params := [{ shadow := 1, closing := 1 }] };
    let s : State := { base with folio := { base.folio with units := [g] } };
    Reaches .sp s ∧ findUnit s.folio.units 0 = none ∧ findUnit s.folio.units g.rec_.unit = some g
    ∧ g.rec_.kind = .glyph ∧ g.params ≠ [] ∧ s.folio.ctrlPend = [] :=
  ⟨reaches_sp ⟨rfl, rfl, rfl, rfl⟩ rfl rfl, by decide +kernel⟩

/-! The scribe, with one command in its mailbox queue, and the host within reach. -/

theorem turn_of {s : State} {op : Nat} {e : CmdEntry} {b : BitVec 512} (h : (s.blotter.queue = []
    ∧ s.blotter.inj.active = false ∧ s.blotter.busErr = 0 ∧ s.blotter.regErr = false) ∧ s.scribe.queue = [e] ∧ e.bytes = some b ∧ headFor s op = some b
    ∧ e.mailbox = true) : Turn s op e b :=
  ⟨⟨h.1.1, h.1.2.1, h.1.2.2.1, h.1.2.2.2⟩, h.2.1, h.2.2.1, h.2.2.2.1, .inl h.2.2.2.2⟩

def hosted : State := { base with host := { base.host with linkUp := true, bme := true } }

/-- A command with its opcode and its arguments. -/
def command (op : Nat) (args : List Nat := []) : BitVec 512 :=
  BitVec.ofNat 512 (op + 9 * 2 ^ 16 + packFields ((64, 0) :: args.map fun a => (64, a)))

def entryOf (b : BitVec 512) : CmdEntry := { seq := 1, bytes := some b, mailbox := true }

def turnAt (s : State) (b : BitVec 512) : State := { s with scribe := { s.scribe with queue := [entryOf b] } }

/-- A ring of 16 entries with room for two and for none; an entry to fetch, with and without the host, with a good and a
wrong opcode; the mailbox free and busy; a response held; CONS; legal and illegal sizes. -/
theorem witness_RingsAndMailbox :
    (let s := { base with scribe := { base.scribe with
        cmd := { base.scribe.cmd with en := true, sizeLog2 := 4 } } };
      Reaches .sp s ∧ s.scribe.cmd.en = true ∧ ((16#32).truncate 16 - s.scribe.cmd.cons).toNat ≤ 2 ^ s.scribe.cmd.sizeLog2.toNat
        ∧ 2 ^ s.scribe.cmd.sizeLog2.toNat < ((17#32).truncate 16 - s.scribe.cmd.cons).toNat)
    ∧ base.scribe.cmd.en = false
    ∧ (let e : CmdEntry := { seq := 1, bytes := none, mailbox := false };
      let s (h : State) : State := { h with scribe := { h.scribe with
        queue := [e], rsp := { h.scribe.rsp with en := true, sizeLog2 := 4 } } };
      (s hosted).calm ∧ (s base).calm ∧ (s hosted).power.mode = .up ∧ tickDue (s hosted) = false
        ∧ (s hosted).scribe.fetchFailed = false ∧ { base.scribe with fetchFailed := true }.fetchFailed = true ∧ (s hosted).scribe.queue = [e] ∧ e.bytes = none
        ∧ noRequest (s base) = some 6 ∧ noRequest (s hosted) = none ∧ scribeWaits (s hosted) = false
        ∧ cmdOpcode (command opIdentify) ≠ opAbort ∧ cmdOpcode (command 0x03) ≠ opAbort
        ∧ turnStatus { e with bytes := some (command opIdentify) } (command opIdentify) = none
        ∧ turnStatus { e with bytes := some (command 0x03) } (command 0x03) = some (stBadOpcode, 0, 0)
        ∧ e.mailbox = false ∧ (s hosted).scribe.rsp.en = true ∧ rspFull (s hosted).scribe.rsp = false)
    ∧ (let s := { base with scribe := { base.scribe with mbx := base.scribe.mbx.set 0 1 } };
      Reaches .sp s ∧ s.scribe.busy = false ∧ s.scribe.queue = [] ∧ cmdOpcode (mailboxCommand s.scribe) ≠ opAbort
        ∧ turnStatus { seq := 0, bytes := some (mailboxCommand s.scribe), mailbox := true, at_ := s.time.tb }
            (mailboxCommand s.scribe) = none)
    ∧ { base.scribe with busy := true }.busy = true
    ∧ (let r : Response := { seq := 1, tag := 0, opcode := 1, status := 0, mailbox := false };
      let s := { hosted with scribe := { hosted.scribe with
        held := some r, rsp := { hosted.scribe.rsp with en := true, sizeLog2 := 4, prod := 16 } } };
      Reaches .sp s ∧ s.scribe.held = some r ∧ s.scribe.restarting = false ∧ r.mailbox = false
        ∧ s.scribe.rsp.en = true ∧ s.scribe.queue = [] ∧ rspFull s.scribe.rsp = true
        ∧ rspFull { s.scribe.rsp with cons := (1#32).truncate 16 } = false)
    ∧ base.scribe.held = none ∧ (4 ≤ fld (0xC1#32) 7 4 ∧ fld (0xC1#32) 7 4 ≤ 12) ∧ 12 < fld (0xD1#32) 7 4
    ∧ fld (0x31#32) 7 4 < 4 := by
  refine ⟨⟨reaches_sp ⟨rfl, rfl, rfl, rfl⟩ rfl rfl, ?_⟩, rfl, ⟨⟨rfl, rfl, rfl, rfl⟩, ⟨rfl, rfl, rfl, rfl⟩, ?_⟩, ⟨reaches_sp ⟨rfl, rfl, rfl, rfl⟩ rfl rfl, ?_⟩, rfl,
    ⟨reaches_sp ⟨rfl, rfl, rfl, rfl⟩ rfl rfl, ?_⟩, rfl, ?_⟩ <;> decide +kernel

/-- An image of its kind, with a generation, a base, a ruling and a leaf, and its sections: type, records, their count. -/
def imageWith (kind gen base_ ruling leaf : Nat) (sections : List (Nat × List Byte × Nat)) : List Byte :=
  let from_ := 0x80 + 16 * sections.length
  let data := sections.flatMap fun x => x.2.1
  let all := from_ + data.length
  let table := sections.zipIdx.flatMap fun ((ty, d, n), i) => leBytes 2 ty ++ leBytes 2 0
    ++ leBytes 4 (from_ + ((sections.take i).map fun x => x.2.1.length).sum) ++ leBytes 4 d.length ++ leBytes 4 n
  let head := leBytes 4 0x4F464B53 ++ leBytes 2 1 ++ leBytes 2 kind ++ leBytes 4 all ++ leBytes 4 all ++ leBytes 4 gen
    ++ leBytes 4 base_ ++ leBytes 4 ruling ++ leBytes 4 0x7316 ++ leBytes 4 0x80 ++ leBytes 2 sections.length
    ++ leBytes 2 leaf ++ leBytes 24 0
  let body := table ++ data
  head ++ sha256 (head ++ leBytes 64 0 ++ body) ++ leBytes 32 0 ++ body

/-- The record of a unit: its index, its parent, its type, its resource and its leaf. -/
def unitBytes (u parent ty res leaf : Nat) : List Byte := leBytes 2 u ++ leBytes 2 parent ++ leBytes 2 ty ++ leBytes 2 res
  ++ leBytes 2 leaf ++ leBytes 2 0 ++ leBytes 2 0xFFFF ++ leBytes 18 0

/-- A folio of one unit, the root, at generation 1. -/
def folioImage : List Byte := imageWith 1 1 0 4000 0 [(1, unitBytes 0 0xFFFF 1 0xFFFF 0, 1)]

/-- A folio with counter element CE0, whose third CONFIG record gives it a PERIOD of 1. -/
def folioRefused : List Byte := imageWith 1 1 0 4000 0 [
  (1, unitBytes 0 0xFFFF 1 0xFFFF 0 ++ unitBytes 1 0 0x17 0 0, 2),
  (4, [(0x100010, 4), (0x100014, 1), (0x100018, 0)].flatMap fun (a, v) =>
    leBytes 4 a ++ leBytes 4 v ++ leBytes 2 1 ++ leBytes 6 0, 3)]

/-- A leaf of that folio: glyph 1 under the root, at generation 2. -/
def leafImage : List Byte := imageWith 2 2 1 0 1 [(1, unitBytes 1 0 1 0xFFFF 1, 1)]

def folioLoaded : State :=
  { hosted with folio := { hosted.folio with
    loaded := true, generation := 1
    units := [{ (unitFor .glyph 0xFFFF) with rec_ := { (unitFor .glyph 0xFFFF).rec_ with unit := 0 } },
      { (unitFor .glyph 0xFFFF) with rec_ := { (unitFor .glyph 0xFFFF).rec_ with
        unit := 1, parent := 0, leaf := 1, window := 0xFFFF } }]
    leaves := [{ leaf := 1, root := 1, unitFirst := 1, unitCount := 1, windowFirst := 8, windowCount := 0 }] } }

/-- The 24 commands in turn. -/
theorem witness_CommandsAnswered_turns (c : Nat × List Nat) (h : c ∈ [(opIdentify, []), (opGetHealth, []),
    (opRepairStatus, []), (opReadUnitDir, [0, 0x10FFF]), (opReadUnitDir, [0, 0x20FFF]), (opPatchStatus, []),
    (opAckFault, [0x100]), (opInjectFault, [0x10003, 0xFFFF]), (opMarch, [2, 5]), (opMarch, [0x3F01]),
    (opDiscardStaged, []), (opVerifyFolio, [0x1000, 176]), (opLoadFolio, [0x1000, 176]), (opStageLeaf, [0x1000, 176]),
    (opRetireResource, [0x10F03]), (opKeyEnroll, [0x1000, 0x5345414C]), (opSleep, [1]), (opStandby, [0x1000, 3]),
    (opSnapshot, [0x1000]), (opStopToSafe, []), (opStart, [0]), (opTbSet, [5, 7]), (opTbTrim, [1, 0, 3]),
    (opLoadPatch, [0x1000, 192])]) :
    Turn (turnAt hosted (command c.1 c.2)) c.1 (entryOf (command c.1 c.2)) (command c.1 c.2) := by
  refine turn_of ?_; revert c; decide +kernel

/-- What the commands ask of their arguments and of the state: no host, a count of 0 and of one too many, one that just
fits, a checker's last instance, a key on the curve, a sealed device, a started folio, a staging that is busy. -/
theorem witness_CommandsAnswered_more :
    noRequest hosted = none ∧ noRequest base = some 6 ∧ cmdArg (command opRepairStatus [16]) 0 ≠ 0
    ∧ 4096 < fld (cmdArg (command opReadUnitDir [0, 0x20FFF]) 1) 11 0 + fld (cmdArg (command opReadUnitDir [0, 0x20FFF]) 1) 28 16
    ∧ fld (cmdArg (command opReadUnitDir [0, 0x10FFF]) 1) 11 0 + fld (cmdArg (command opReadUnitDir [0, 0x10FFF]) 1) 28 16 ≤ 4096
    ∧ fld (cmdArg (command opInjectFault [0x100003, 1]) 0) 31 16 < checkerInstances 3
    ∧ fld (cmdArg (command opInjectFault [0x100003, 1]) 1) 15 0 ≠ 0
    ∧ stagingBusy hosted = false ∧ stagingBusy { hosted with co := { hosted.co with phase := .armed } } = true
    ∧ (retireResource hosted 3 272).2 = .badIndex
    ∧ (retireResource { hosted with pool := { hosted.pool with retiredCells := 1#272 <<< 271 } } 3 271).2 = .affects 0xFFFF
    ∧ (retireResource { hosted with adc := { hosted.adc with spareGone := true } } 5 0).2 = .noSpare
    ∧ (cmdArg (command opKeyEnroll [0x1000, 0x5345414C]) 1 = 0x5345414C ∧ hosted.scribe.keyHash = none
        ∧ onCurve 0x6B17D1F2E12C4247F8BCE6E563A440F277037D812DEB33A0F4A13945D898C296
            0x4FE342E2FE1A7F9B8EE7EB4A7C0F9E162BCE33576B315ECECBB6406837BF51F5 = true)
    ∧ { hosted.scribe with keyHash := some 1 }.keyHash.isSome = true
    ∧ { hosted.folio with started := true }.started = true ∧ hosted.folio.started = false
    ∧ hosted.power.lfOk = true ∧ hosted.power.vbatOk = true := by decide +kernel

theorem loads_of {α β : Type} {x : α × β} {y : β} (h : x.2 = y) : ∃ u, x = (u, y) := ⟨x.1, by rw [← h]⟩

/-- A folio that passes every check and loads, one whose load a CONFIG record ends, one that ends too soon, one of which
176 bytes are read and one of which only 100 are; a leaf that passes and stages, and one that a
trigger in force keeps out. -/
theorem witness_CommandsAnswered_images :
    checkImage hosted folioImage true true = none ∧ checkImage hosted folioImage true false = none
    ∧ checkImage hosted (folioImage.take 175) true true = some (1, 8)
    ∧ imageFails (command opLoadFolio [0x1000, 176]) folioImage = none
    ∧ imageFails (command opLoadFolio [0x1000, 176]) (folioImage.take 100) = some 0x1064
    ∧ (∃ u, loadImage hosted (imageOf folioImage) = (u, none))
    ∧ checkImage hosted folioRefused true false = none
    ∧ (∃ u, loadImage hosted (imageOf folioRefused) = (u, some 0x100))
    ∧ checkImage folioLoaded leafImage false true = none
    ∧ (∃ u, stageLeaf folioLoaded leafImage = (u, none))
    ∧ ∃ u, stageLeaf { folioLoaded with co := { folioLoaded.co with phase := .armed } } leafImage = (u, some (0x1B, 0)) :=
  ⟨by decide +kernel, by decide +kernel, by decide +kernel, by decide +kernel, by decide +kernel,
    loads_of (by decide +kernel), by decide +kernel, loads_of (by decide +kernel), by decide +kernel,
    loads_of (by decide +kernel), loads_of (by decide +kernel)⟩

/-- What the commands that wait ask: a folio loaded and not, a follower in SEARCH and one that is LOCKED, a START frame
that is past, the first one, one within 60 s and one that is not; nothing staged, a leaf staged that is ready and one that is not, triggers
of both kinds; a bank without an owner and one with; every bank and unit free of owners that are not bound. -/
theorem witness_CommandsArranged_more :
    folioLoaded.power.calibrating = 0 ∧ folioLoaded.folio.loaded = true ∧ folioLoaded.folio.started = false
    ∧ folioLoaded.scribe.stoppedSafe = false ∧ isFollower folioLoaded = false ∧ hosted.folio.loaded = false
    ∧ (let s := syncAt fun y => { y with ctrl := 2, state := .search }; isFollower s = true ∧ s.time.sync.state ≠ .locked)
    ∧ precedes (-1) (firstFrame folioLoaded) = true ∧ precedes 1 (firstFrame folioLoaded) = false
    ∧ within60s folioLoaded 15000000 = true ∧ within60s folioLoaded 15000001 = false
    ∧ precedes 15000001 (firstFrame folioLoaded) = false ∧ startOwners folioLoaded = none
    ∧ folioLoaded.co.staged = []
    ∧ (let leaf (unready : Bool) : StagedLeaf := { image := imageOf leafImage, banks := [], programs := [], unready := unready };
      let s (unready : Bool) : State := { folioLoaded with co := { folioLoaded.co with staged := [leaf unready] } };
      (s true).co.staged ≠ [] ∧ (s true).co.staged.any (·.unready) = true ∧ (s false).co.staged.any (·.unready) = false
        ∧ changeoverField (s false) (command opChangeover [1, 0, 10, 20]) = none
        ∧ changeoverField (s false) (command opChangeover [2, 0, 10, 20]) = none
        ∧ changeoverField (s false) (command opChangeover [3, 0, 10, 20]) = some 8
        ∧ precedes (cmdArg (command opChangeover [1, 0, 10, 20]) 2) (firstFrame (s false)) = false
        ∧ Turn (turnAt (s false) (command opChangeover [1, 0, 10, 20])) opChangeover
            (entryOf (command opChangeover [1, 0, 10, 20])) (command opChangeover [1, 0, 10, 20]))
    ∧ hosted.ink.banks[(63 : InkIx)].owner.kind = .none ∧ hosted.co.copies = []
    ∧ (withBank hosted).ink.banks[(1 : InkIx)].owner.kind ≠ .none := by
  refine ⟨rfl, rfl, rfl, rfl, by decide +kernel, rfl, by decide +kernel, by decide +kernel, by decide +kernel,
    by decide +kernel, by decide +kernel, by decide +kernel, by decide +kernel, rfl, ⟨by decide +kernel, by decide +kernel, by decide +kernel,
    by decide +kernel, by decide +kernel, by decide +kernel, by decide +kernel, turn_of (by decide +kernel)⟩,
    by decide +kernel, rfl, by decide +kernel⟩

/-- An ABORT alone in turn, of a command that has just ended and of none; one behind the command with its tag. -/
theorem witness_CommandsArranged_abort :
    Turn (turnAt hosted (command opAbort [9])) opAbort (entryOf (command opAbort [9])) (command opAbort [9])
    ∧ tickDue hosted = false ∧ hosted.scribe.ended = none
    ∧ { hosted.scribe with ended := some (hosted.time.tb, 9, 3) }.ended = some (hosted.time.tb, 9, 3)
    ∧ let b := command opIdentify;
      let c := command opAbort [9];
      let e : CmdEntry := { seq := 1, bytes := some b, mailbox := false };
      let a : CmdEntry := { seq := 2, bytes := some c, mailbox := false };
      let s : State := { hosted with scribe := { hosted.scribe with
        queue := [e, a], rsp := { hosted.scribe.rsp with en := true, sizeLog2 := 4 } } };
      s.calm ∧ s.power.mode = .up ∧ tickDue s = false ∧ scribeWaits s = false ∧ cmdOpcode c = opAbort ∧ reservedField c [0xFFFF] = none
        ∧ cmdOpcode b ≠ opAbort ∧ fld (cmdArg c 0) 15 0 = cmdTag b ∧ e.seq ≠ a.seq
        ∧ (s.scribe.rsp.prod - s.scribe.rsp.cons).toNat + 1 < 2 ^ s.scribe.rsp.sizeLog2.toNat :=
  ⟨turn_of (by decide +kernel), rfl, rfl, rfl, ⟨rfl, rfl, rfl, rfl⟩, by decide +kernel⟩

/-- A command in each phase as the scribe fails; a restart that ends. -/
theorem witness_CommandsArranged_restart :
    (∀ ph ∈ [CmdPhase.waiting, .started, .committed], let x := { entryOf (command opStart) with phase := ph };
      let s : State := { hosted with scribe := { hosted.scribe with queue := [x] } };
      s.power.mode = .up ∧ s.scribe.restarting = false ∧ s.scribe.queue = x :: [] ∧ x.phase = ph)
    ∧ let s : State := { hosted with scribe := { hosted.scribe with restarting := true } };
      s.calm ∧ s.power.mode = .up ∧ tickDue s = false ∧ s.scribe.restarting = true ∧ s.scribe.queue = [] ∧ s.scribe.held = none :=
  ⟨by decide +kernel, ⟨rfl, rfl, rfl, rfl⟩, by decide +kernel⟩

/-! The inkwells and the DMA engine. -/

/-- Bank 5, as `f` makes it, and the march engine and the rest of the inkwells as `g` makes them. -/
def inkAt (f : Inkwell → Inkwell := id) (g : InkSt → InkSt := id) : State :=
  let s := base
  { s with ink := g { s.ink with banks := s.ink.banks.set 5 (f s.ink.banks[5]) } }

def hostOwns (x : Inkwell) : Inkwell := { x with owner := { kind := .host } }

def march (f : March → March) (k : InkSt) : InkSt := { k with march := f k.march }

/-- The last word of a bank of the host's, backed, still to be carried, with port B used, and not backed, a bank that no one owns; a handover to the scribe that is
accepted, one to quill 0, and a stale one. -/
theorem witness_InkwellAccesses_port :
    (let s := inkAt hostOwns;
      Reaches .sp s ∧ admits s 5 (pathWho .sp) = true ∧ readWord s 5 4095 = some 24575
        ∧ servingWord s 5 4095 = some 24575 ∧ s.ink.writes = [] ∧ s.co.copies = []
        ∧ errorAt s.ink.errors 24575 = none ∧ pathJob s .sp = none ∧ (5 : InkIx) ∉ s.ink.used)
    ∧ (let s := inkAt hostOwns;
      let t := { s with co := { s.co with copies := [{ bank := 5, source := 9, words := [4095] }] } };
      Reaches .sp t ∧ readWord t 5 4095 = some 40959 ∧ errorAt t.ink.errors 40959 = none)
    ∧ (let s := inkAt hostOwns fun k => { k with used := [5] };
      Reaches .sp s ∧ (pathWho .sp).master ≠ none ∧ (5 : InkIx) ∈ s.ink.used)
    ∧ (let s := inkAt fun x => { hostOwns x with phys := none };
      Reaches .sp s ∧ admits s 5 (pathWho .sp) = true ∧ readWord s 5 4095 = none)
    ∧ admits base 5 (pathWho .sp) = false
    ∧ handoverFor base 5 2 = some { kind := .scribe } ∧ handoverFor base 5 0x10002 = none
    ∧ handoverFor (withUnit base .quill 0) 5 1 = some { kind := .quill } := by
  refine ⟨⟨reaches_sp ⟨rfl, rfl, rfl, rfl⟩ rfl rfl, ?_⟩, ⟨reaches_sp ⟨rfl, rfl, rfl, rfl⟩ rfl rfl, ?_⟩,
    ⟨reaches_sp ⟨rfl, rfl, rfl, rfl⟩ rfl rfl, ?_⟩, ⟨reaches_sp ⟨rfl, rfl, rfl, rfl⟩ rfl rfl, ?_⟩, ?_⟩ <;> decide +kernel

theorem witness_InkwellAccesses_store : (inkAt hostOwns).canonical := ⟨by decide, by decide, by decide, by decide⟩

/-- A slice due, with a free bank to test and without one; a copy, a test and a restore that end; a migration that is
copied; a destroying test that is over. -/
theorem witness_InkwellAccesses_march :
    (let s := { inkAt (g := march fun m => { m with understudy := some 64, rulings := 250, freeToTest := [65] }) with
        time := { base.time with cycle := 0 } };
      s.quiet ∧ marchDue s = true ∧ s.ink.march.understudy = some 64 ∧ s.ink.retired.getLsbD 64 = false
        ∧ carriesFrom s 64 = false ∧ marchDue base = false
        ∧ s.ink.march.freeToTest = 65 :: [] ∧ bankFree s 65 = true)
    ∧ (let s := { inkAt (g := march fun m => { m with understudy := some 64, rulings := 250, nextBank := 63 }) with
        time := { base.time with cycle := 0 } };
      s.quiet ∧ marchDue s = true ∧ s.ink.march.freeToTest = []
        ∧ ((indices 64).filter fun (c : InkIx) => s.ink.march.nextBank ≤ c.val && marchable s c).head? = some 63)
    ∧ (let s := inkAt (g := march fun m => { m with bank := 5, phase := .copy, words := 256 });
      s.quiet ∧ s.ink.march.bank < 64 ∧ s.ink.march.phase = .copy ∧ s.ink.march.words = 256)
    ∧ (let s := inkAt (g := march fun m => { m with bank := 5, phase := .test });
      let u := { s with pool := { s.pool with exhausted := 2 } };
      s.quiet ∧ s.ink.march.bank < 64 ∧ s.ink.march.phase = .test ∧ testOver s 256 s.ink.march.since = true
        ∧ testOver u 256 u.ink.march.since = true ∧ u.pool.exhausted.getLsbD 1 = true)
    ∧ (let s := inkAt (g := march fun m => { m with phase := .restore, words := 256 });
      s.quiet ∧ s.ink.march.phase = .restore ∧ s.ink.march.words = 256)
    ∧ (let x : Migration := { bank := 5, target := 64, copied := 4096, since := 0, cause := 1 };
      let s := inkAt (g := fun k => { k with migration := some x });
      s.quiet ∧ s.ink.migration = some x ∧ 4096 ≤ x.copied ∧ x.done = false)
    ∧ let s := inkAt (g := march fun m => { m with destroying := some 5 });
      s.quiet ∧ s.ink.march.destroying = some 5 ∧ testOver s 4096 s.ink.march.destroySince = true
        ∧ s.ink.banks[(5 : InkIx)].phys = some 5 := by
  refine ⟨⟨rfl, ?_⟩, ⟨rfl, ?_⟩, ⟨rfl, ?_⟩, ⟨rfl, ?_⟩, ⟨rfl, ?_⟩, ⟨rfl, ?_⟩, ⟨rfl, ?_⟩⟩ <;> decide +kernel

/-- Channel 3, bound or not, the host within reach, ring 0 of 16 entries as `g` makes it. -/
def dmaAt (f : DmaChan → DmaChan := id) (g : CqRing → CqRing := id) (s : State := hosted) : State :=
  withUnit { s with dma := { s.dma with
    chans := s.dma.chans.set 3 (f s.dma.chans[3]), rings := s.dma.rings.set 0 (g { s.dma.rings[0] with sizeLog2 := 4 }) } }
    .dmaChannel 3

/-- A descriptor with a source and a destination kind, of 64 bytes. -/
def descOf (src dst : Nat) : Descriptor :=
  { addr := 0x1000, src := 0, dst := 0x2000, len := 64, ctrl := BitVec.ofNat 32 (4 * src + 16 * dst), next := 0x3000 }

/-- A doorbell of a channel that is not bound, of an idle one with and without a head, of one that runs and of one in
TAIL_WAIT, and one that the host cannot serve. -/
theorem witness_DmaActs_doorbell :
    (Reaches .sp hosted ∧ chanBound hosted 3 = false)
    ∧ (let s := dmaAt fun x => { x with head := 0x1000 };
      Reaches .sp s ∧ chanBound s 3 = true ∧ noRequest s = none ∧ s.dma.chans[(3 : DmaIx)].state = .idle
        ∧ s.dma.chans[(3 : DmaIx)].head ≠ 0)
    ∧ (dmaAt).dma.chans[(3 : DmaIx)].head = 0
    ∧ (∀ st ∈ [DmaState.fetch, .run, .streamWait, .flush, .cqWait, .halted],
        (dmaAt fun x => { x with state := st }).dma.chans[(3 : DmaIx)].state = st)
    ∧ (let x := (dmaAt fun x => { x with state := .tailWait }).dma.chans[(3 : DmaIx)];
      x.state = .tailWait ∧ x.askNext = false ∧ x.leaving = false)
    ∧ let s := dmaAt (fun x => { x with head := 0x1000 }) id base;
      chanBound s 3 = true ∧ noRequest s = some 6 ∧ s.dma.chans[(3 : DmaIx)].head ≠ 0 := by
  refine ⟨⟨reaches_sp ⟨rfl, rfl, rfl, rfl⟩ rfl rfl, ?_⟩, ⟨reaches_sp ⟨rfl, rfl, rfl, rfl⟩ rfl rfl, ?_⟩, ?_⟩ <;> decide +kernel

/-- A channel halted at each place, with room in its ring; one that runs. -/
theorem witness_DmaActs_halted :
    (∀ place ∈ [0, 1, 2, 3, 5],
      let s := dmaAt fun x => { x with state := .halted, errInfo := BitVec.ofNat 32 place, desc := some (descOf 0 0) };
      let x := s.dma.chans[(3 : DmaIx)];
      chanBound s 3 = true ∧ x.state = .halted ∧ noRequest s = none ∧ haltPlace x = place
        ∧ ringOk s.dma.rings[ringOf x x.desc] = true ∧ ringFull s.dma.rings[ringOf x x.desc] = false ∧ x.holds = none
        ∧ x.leaving = false)
    ∧ let s := dmaAt fun x => { x with state := .run, desc := some (descOf 0 0) };
      let x := s.dma.chans[(3 : DmaIx)];
      RingRoom s x (ringOf x x.desc) ∧ x.state = .run :=
  ⟨by decide +kernel, ⟨by decide +kernel, by decide +kernel, by decide +kernel, by decide +kernel, by decide +kernel⟩,
    by decide +kernel⟩

/-- A CONS with 16 entries in the ring and with 17, and one that frees an entry for a record that waits; a ring that no
record names, one that a record names which waits for room, and one that a record names for want of a size. -/
theorem witness_DmaActs_rings :
    (let s := dmaAt (g := fun r => { r with prod := 17 });
      Reaches .sp s ∧ 2 ^ s.dma.rings[(0 : RingIx)].sizeLog2.toNat
          < (s.dma.rings[(0 : RingIx)].prod - BitVec.ofNat 16 (fld (0#32) 31 16)).toNat
        ∧ (s.dma.rings[(0 : RingIx)].prod - BitVec.ofNat 16 (fld (0x10000#32) 31 16)).toNat
          ≤ 2 ^ s.dma.rings[(0 : RingIx)].sizeLog2.toNat
        ∧ ∀ e : DmaIx, s.dma.chans[e].state ≠ .cqWait)
    ∧ (let y : DmaRecord := { ring := 0, status := .complete, count := 0, after := .next };
      let s := dmaAt (fun x => { x with state := .cqWait, record := some y }) fun r => { r with prod := 16 };
      let r := s.dma.rings[(0 : RingIx)];
      let x := s.dma.chans[(3 : DmaIx)];
      Reaches .sp s ∧ (r.prod - BitVec.ofNat 16 (fld (0x10000#32) 31 16)).toNat < 2 ^ r.sizeLog2.toNat ∧ ringOk r = true
        ∧ noRequest s = none ∧ (∀ e : DmaIx, e ≠ 3 → s.dma.chans[e].state ≠ .cqWait) ∧ x.state = .cqWait
        ∧ x.record = some y ∧ x.holds = none ∧ x.leaving = false)
    ∧ (∀ e : DmaIx, hosted.dma.chans[e].record.isNone = true)
    ∧ (let y : DmaRecord := { ring := 0, status := .complete, count := 0, after := .next };
      let x (st : DmaState) (info : Word) :=
        (dmaAt fun x => { x with state := st, errInfo := info, record := some y }).dma.chans[(3 : DmaIx)];
      (x .cqWait 0).record = some y ∧ (x .cqWait 0).state ≠ .halted
        ∧ (x .halted 0x7C).record = some y ∧ (x .halted 0x7C).state = .halted ∧ fld (x .halted 0x7C).errInfo 7 4 = 7) := by
  refine ⟨⟨reaches_sp ⟨rfl, rfl, rfl, rfl⟩ rfl rfl, ?_⟩, ⟨reaches_sp ⟨rfl, rfl, rfl, rfl⟩ rfl rfl, ?_⟩, ?_⟩ <;> decide +kernel

/-- A valid and an invalid descriptor; a read of host memory that is asked for, from within 16 bytes; none. -/
theorem witness_DmaActs_descriptor :
    let d (len : Nat) : BitVec 256 := BitVec.ofNat 256 (0x1000 + len * 2 ^ 128);
    let s := dmaAt fun x => { x with state := .fetch, cur := 0x1000 };
    let x := s.dma.chans[(3 : DmaIx)];
    s.quiet ∧ x.state = .fetch ∧ x.askNext = false
    ∧ (descValid (descriptorOf x.cur (d 64)) = true ∧ srcKindOf (descriptorOf x.cur (d 64)) ≠ 2
        ∧ (descriptorOf x.cur (d 64)).len ≠ 0)
    ∧ descValid (descriptorOf x.cur (d 64 + 0x8#256 <<< 160)) = false
    ∧ RingRoom s x (ringOf x (some (descriptorOf x.cur (d 64 + 0x8#256 <<< 160))))
    ∧ chanRequest (dmaAt fun x => { x with state := .run, desc := some { descOf 0 0 with src := 0x1008 } }) 3
        = some (0x1000, 80, 8, 64)
    ∧ chanRequest s 3 = none :=
  ⟨rfl, by decide +kernel, by decide +kernel, by decide +kernel, by decide +kernel,
    ⟨by decide +kernel, by decide +kernel, by decide +kernel, by decide +kernel, by decide +kernel⟩, by decide +kernel,
    by decide +kernel⟩

/-- A capture record of one word. -/
def recordOf : QueueEntry := { record := 5, tb := 0, group := 0, index := 3 }

/-- A beat that writes to host memory; one that reads a record of a stream; a stream that brings a record to a channel
that waits for it. -/
theorem witness_DmaActs_beats :
    (let d : Descriptor := { descOf 0 0 with len := 512 };
      let s := dmaAt fun x => { x with state := .run, desc := some d, fetched := 256, buffer := List.replicate 256 1 };
      let x := s.dma.chans[(3 : DmaIx)];
      s.calm ∧ nextBeat s = some 3 ∧ x.desc = some d ∧ beatWrites (hostLimit s.host.payload) x d = true
        ∧ dstKindOf d = 0 ∧ noRequest s = none ∧ noRequest { s with host := { s.host with d3hot := true } } = some 5
        ∧ x.written + dstChunk (hostLimit s.host.payload) x d ≠ descTotal x d)
    ∧ (let d := descOf 2 0;
      let s := { (dmaAt fun x => { x with state := .run, desc := some d, taken := 1, holds := some 0 }) with
        streams := base.streams.set 0 { base.streams[0] with fifo := [recordOf] } };
      let x := s.dma.chans[(3 : DmaIx)];
      s.calm ∧ nextBeat s = some 3 ∧ beatWrites (hostLimit s.host.payload) x d = false ∧ srcKindOf d = 2 ∧ x.written ≠ descTotal x d
        ∧ s.streams[descStream d].fifo[x.fetched / 16]? = some recordOf)
    ∧ let d := descOf 2 0;
      let s := { (dmaAt fun x => { x with state := .streamWait, desc := some d }) with
        streams := base.streams.set 0 { base.streams[0] with fifo := [recordOf] } };
      s.quiet ∧ s.dma.chans[(3 : DmaIx)].state = .streamWait ∧ srcKindOf d = 2 ∧ descStream d = 0 ∧ 16 ≤ d.len
        ∧ s.streams[(0 : StreamIx)].fifo ≠ [] ∧ streamHeld s 0 = false
        ∧ ∀ e : DmaIx, e < 3 → s.dma.chans[e].state ≠ .streamWait := by
  refine ⟨⟨⟨rfl, rfl, rfl, rfl⟩, ?_⟩, ⟨⟨rfl, rfl, rfl, rfl⟩, ?_⟩, ⟨rfl, ?_⟩⟩ <;> decide +kernel

/-- A flush with room in the ring, with the ring full, and with a ring that has no size; NEXT read in TAIL_WAIT, asked for
in an earlier cycle and in this one; a poll
that is due; a request under way. -/
theorem witness_DmaActs_tail :
    (let s (g : CqRing → CqRing) := dmaAt (fun x => { x with state := .flush, desc := some (descOf 0 0) }) g;
      let x := (s id).dma.chans[(3 : DmaIx)];
      (s id).quiet ∧ x.state = .flush ∧ x.desc = some (descOf 0 0) ∧ (descOf 0 0).next ≠ 0 ∧ noRequest (s id) = none
        ∧ ringFull (s id).dma.rings[ringOf x x.desc] = false ∧ ringOk (s id).dma.rings[ringOf x x.desc] = true
        ∧ ringFull (s fun r => { r with prod := 16 }).dma.rings[ringOf x x.desc] = true
        ∧ ringOk (s fun r => { r with sizeLog2 := 3 }).dma.rings[ringOf x x.desc] = false)
    ∧ (∀ db ∈ [true, false], let s := dmaAt fun x => { x with state := .tailWait, askNext := true, dbPending := db };
      let x := s.dma.chans[(3 : DmaIx)];
      x.askNext = true ∧ x.state = .tailWait ∧ x.dbPending = db ∧ noRequest s = none
        ∧ outstanding s 3 = some (5, false, 24) ∧ x.polledAt ≠ some s.time.tb
        ∧ { x with polledAt := some s.time.tb }.polledAt = some s.time.tb)
    ∧ let s := dmaAt fun x => { x with state := .tailWait, ctrl := 1, pollNs := 100000 };
      s.quiet ∧ pollDue s 3 = true ∧ noRequest s = none :=
  ⟨⟨rfl, by decide +kernel⟩, by decide +kernel, ⟨rfl, by decide +kernel⟩⟩

/-! The event interrupt controller: source 1 of the class of its configuration, as `f` makes it. -/

def srcAt (f : EicSource → EicSource) (g : Eic → Eic := id) : State :=
  let s := base
  { s with eic := g { s.eic with sources := s.eic.sources.set 1 (f {}) } }

/-- EN and the target T0. -/
def enabled (y : EicSource) : EicSource := { y with cfg := 0x201 }

/-- The scribe has a response for the host, so level source 1 is high (R358). -/
def answered (s : State) : State := { s with scribe := { s.scribe with rsp := { s.scribe.rsp with prod := 1 } } }

/-- A pending source with ARRIVALS 254 and 255, with an arrival on its way and from its level input. -/
theorem witness_ArrivalsSaturate : ∀ n ∈ [(254 : BitVec 8), 255],
    let s := srcAt (fun y => { enabled y with phase := .active, arrivals := n }) fun e => { e with causes := [1] };
    let u := answered (srcAt fun y => { y with cfg := 0xA01, phase := .pending, arrivals := n });
    Reaches .sp s ∧ isSource 1 = true ∧ srcEn s.eic.sources[(1 : SrcIx)] = true
      ∧ s.eic.sources[(1 : SrcIx)].phase ≠ .idle ∧ arrivalDue s 1 = true ∧ arrivalDue u 1 = true
      ∧ u.power.mode = .up ∧ u.quiet := by
  intro n hn
  refine ⟨reaches_sp ⟨rfl, rfl, rfl, rfl⟩ rfl rfl, rfl, ?_, ?_, ?_, ?_, rfl, rfl⟩ <;> revert n <;> decide +kernel

theorem foldl_arrival : arrivalDue base 1 = false ∧ fallDue base 1 = false := by
  have h : base.eic.sources[(1 : SrcIx)] = {} := by simp [base, State.reset, resetEic]
  constructor
  · rw [arrivalDue, h]; rfl
  · rw [fallDue, h]; rfl

/-- An arrival at an idle source that is enabled and at one that is not, none at all; a level input that falls with the
source pending, active, and set by a write. -/
theorem witness_EicSources_inputs :
    (let s := srcAt enabled fun e => { e with causes := [1] };
      let y := s.eic.sources[(1 : SrcIx)];
      s.quiet ∧ s.power.mode = .up ∧ arrivalDue s 1 = true ∧ isSource 1 = true ∧ srcEn y = true ∧ y.phase = .idle
        ∧ inEnabledGroup s.eic y = false)
    ∧ (let s := srcAt id fun e => { e with causes := [1] };
      arrivalDue s 1 = true ∧ srcEn s.eic.sources[(1 : SrcIx)] = false)
    ∧ base.quiet ∧ base.power.mode = .up ∧ arrivalDue base 1 = false
    ∧ (∀ c ∈ [(SrcPhase.pending, false), (.pending, true), (.active, false)],
        let s := srcAt fun y => { y with cfg := 0xA01, input := true, phase := c.1, swset := c.2 };
        fallDue s 1 = true ∧ s.eic.sources[(1 : SrcIx)].phase = c.1 ∧ s.eic.sources[(1 : SrcIx)].swset = c.2) :=
  ⟨⟨rfl, rfl, by decide +kernel⟩, by decide +kernel, rfl, rfl, foldl_arrival.1, by decide +kernel⟩

/-- A claim that finds source 1, in both classes, and one that finds none; T8 and another path; a completion of the
holder, and a spurious one; source 0 in LV mode; no source 0 and 1023. -/
theorem witness_EicSources_claims :
    (∀ fast ∈ [true, false],
      let s := srcAt fun y => { y with cfg := if fast then 0x601 else 0x201, phase := .pending };
      offeredTo s.eic.sources[(1 : SrcIx)] 0 = true ∧ srcFast s.eic.sources[(1 : SrcIx)] = fast
        ∧ ∀ z : SrcIx, z < 1 → offeredTo s.eic.sources[z] 0 = false)
    ∧ (∀ (z : SrcIx) (k : Fin 9), offeredTo base.eic.sources[z] k = false)
    ∧ (∀ level ∈ [true, false], ∀ a ∈ [(0 : BitVec 8), 1], ∀ input ∈ [true, false],
      let s := srcAt fun y => { y with
        cfg := if level then 0xA01 else 0x201, phase := .active, holder := 3, arrivals := a, input := input };
      let y := s.eic.sources[(1 : SrcIx)];
      fld (1#32) 9 0 = 1 ∧ y.phase = .active ∧ y.holder = 3 ∧ y.heldFast = false ∧ inEnabledGroup s.eic y = false
        ∧ srcLevel y = level)
    ∧ Reaches .sp (srcAt id) ∧ Reaches .scribe (srcAt id)
    ∧ { base.eic with lvMode := true }.lvMode = true ∧ isSource 0 = false ∧ isSource 1023 = false := by
  refine ⟨by decide +kernel, fun z k => ?_, by decide +kernel, reaches_sp ⟨rfl, rfl, rfl, rfl⟩ rfl rfl, ⟨⟨rfl, rfl, rfl, rfl⟩, rfl, rfl, rfl⟩, rfl, rfl, rfl⟩
  have h : base.eic.sources[z] = {} := by simp [base, State.reset, resetEic]
  rw [h]; rfl

/-- A write of SRC_CFG that keeps EN and one that clears it, of a pending and of an idle source; a fallback that
is due, and one that is not. -/
theorem witness_EicSources_writes :
    (∀ ph ∈ [SrcPhase.idle, .pending],
      (srcAt fun y => { enabled y with phase := ph }).eic.sources[(1 : SrcIx)].phase = ph)
    ∧ ((0x202#32).getLsbD 9 = true ∧ (0x002#32).getLsbD 9 = false)
    ∧ let s (n : Nat) := srcAt (fun y => { enabled y with phase := .pending, timer := some n }) fun e => { e with
        awake := 0, fallback := 0x10012 };
      (s 1000).quiet ∧ (s 1000).power.mode = .up
        ∧ fallbackDue (s 1000).eic (s 1000).eic.sources[(1 : SrcIx)] = true
        ∧ fallbackDue (s 999).eic (s 999).eic.sources[(1 : SrcIx)] = false
        ∧ (s 1000).eic.irqnCtrl.getLsbD (fallbackTarget (s 1000).eic).val = false :=
  ⟨by decide +kernel, by decide, rfl, rfl, by decide +kernel⟩

/-- A group whose timer is over, and one whose timer is not; a write that clears EN, one that makes the group ready and
one that does not; a member that arrives, below the threshold and at it; a target that wakes. -/
theorem witness_EicGroupsAndMessages :
    (let group (f : EicGroup → EicGroup) : Eic → Eic := fun e => { e with
        causes := [1], groups := e.groups.set 2 (f { e.groups[2] with cfg := 0x01000202 }) };
      let s (f : EicGroup → EicGroup) : State := srcAt (fun y => { y with cfg := 0x42201 }) (group f);
      (s id).quiet ∧ (s id).power.mode = .up
      ∧ groupDue (s fun r => { r with timer := some 2000 }).eic.groups[(2 : Fin 64)] = true
      ∧ groupDue (s fun r => { r with timer := some 1999 }).eic.groups[(2 : Fin 64)] = false
      ∧ groupEn (s id).eic.groups[(2 : Fin 64)] = true ∧ (0#32).getLsbD 24 = false
      ∧ groupReady { (s fun r => { r with count := 1, timer := some 5 }).eic.groups[(2 : Fin 64)] with
          cfg := 0x01000201 &&& 0x01FFFFFF } = true
      ∧ groupReady { (s id).eic.groups[(2 : Fin 64)] with cfg := 0x01000203 &&& 0x01FFFFFF } = false
      ∧ (∀ n ∈ [(0 : BitVec 8), 1], let u := s fun r => { r with count := n };
          let y := u.eic.sources[(1 : SrcIx)];
          let r := u.eic.groups[(2 : Fin 64)];
          arrivalDue u 1 = true ∧ isSource 1 = true ∧ srcEn y = true ∧ y.phase = .idle
            ∧ inEnabledGroup u.eic y = true ∧ srcGroup y = 2
            ∧ groupReady { r with count := satAdd r.count 1, timer := some (r.timer.getD 0) } = (n == 1)))
    ∧ let s := srcAt (fun y => { enabled y with phase := .pending }) fun e => { e with awake := 0xFE };
      Reaches .sp s ∧ s.eic.awake.getLsbD 0 = false ∧ s.eic.irqnCtrl.getLsbD 0 = false
        ∧ offeredTo s.eic.sources[(1 : SrcIx)] 0 = true := by
  refine ⟨⟨rfl, rfl, ?_⟩, reaches_sp ⟨rfl, rfl, rfl, rfl⟩ rfl rfl, ?_⟩ <;> decide +kernel

/-! Faults, spares, power and the PCIe link. -/

def powerAt (f : PowerSt → PowerSt) : State := { base with power := f base.power }

/-- A class that was never raised, and whose source does not withdraw pins. -/
theorem witness_raised : ∀ src ∈ [2, 3, 10, 11], base.blotter.classes[classOf src].level = 0
    ∧ base.blotter.classes[classOf src].lastTb ≠ some base.time.tb
    ∧ ackedNow base.blotter.classes[classOf src] base.time.tb = none
    ∧ (src ≠ 2 → configuredLevel base src ≤ 2)
    ∧ configuredLevel { base with
        blotter := { base.blotter with levels := base.blotter.levels.set 2 1 } } 2 ≤ 2 := by decide +kernel

/-- A class whose quiet timer is over, and one whose timer is not; an injection detected and one that is not; a move
that is copied; the active PLL lost with a spare in lock, without one,
and with the spare used up; the reference lost and present. -/
theorem witness_FaultsAndSpares :
    (let s (n : Nat) : State := { base with blotter := { base.blotter with
        classes := base.blotter.classes.set 3 { base.blotter.classes[3] with level := 1, quiet := n } } };
      (s 0).quiet ∧ quietDue (s 100000000).blotter (s 100000000).blotter.classes[(3 : ClassIx)] = true
        ∧ quietDue (s 99999999).blotter (s 99999999).blotter.classes[(3 : ClassIx)] = false)
    ∧ Reaches .sp base
    ∧ (let s (hits : BitVec 16) : State := { base with blotter := { base.blotter with
        inj := { base.blotter.inj with active := true, total := 2, hits := hits } } };
      (s 0).quiet ∧ (s 0).blotter.inj.active = true ∧ (s 0).blotter.inj.remaining = 0
        ∧ (s 0).blotter.inj.hits < (s 0).blotter.inj.total ∧ (s 2).blotter.inj.total ≤ (s 2).blotter.inj.hits)
    ∧ (let m : QuillMove := { quill := 2, source := 2, target := 16, words := 8192, cause := 1 };
      let s : State := { base with
        time := { base.time with cycle := 0 }, pool := { base.pool with moves := [m] } };
      s.quiet ∧ s.pool.moves.find? (fun y => y.quill == 2) = some m ∧ s.time.cycle = 0 ∧ moveCopied s 2 = true)
    ∧ (let s (l : BitVec 2) : State := { base with pool := { base.pool with pllLock := l } };
      (s 3).quiet ∧ (s 3).power.mode = .up ∧ (s 3).time.stopped = false
        ∧ tst (s 3).pool.pllLock (b2n (s 3).pool.pllB) = true ∧ sparePllLocked (s 3).pool = true
        ∧ tst (s 1).pool.pllLock (b2n (s 1).pool.pllB) = true ∧ sparePllLocked (s 1).pool = false
        ∧ (s 1).pool.retiredPlls = 0 ∧ { (s 1).pool with retiredPlls := 2 }.retiredPlls ≠ 0)
    ∧ base.pool.refOk = true ∧ { base.pool with refOk := false }.refOk = false :=
  ⟨⟨rfl, by decide +kernel⟩, reaches_sp ⟨rfl, rfl, rfl, rfl⟩ rfl rfl, ⟨rfl, by decide +kernel⟩, ⟨rfl, by decide +kernel⟩,
    ⟨rfl, rfl, rfl, by decide +kernel⟩, rfl, rfl⟩

/-- PORST_N, a brown-out and a thermal trip of a device that runs, the end of each with nothing and with another left,
the start from Standby, with a keepsake and with none, the boot in each stage, with no PLL and no converter left, the
wakes, by a command and by the clock alone, and the signals of the supplies. -/
theorem witness_PowerAndReset :
    (base.quiet ∧ base.power.porst = false ∧ base.power.brown = false
      ∧ base.power.hot = false ∧ base.power.mode ≠ .standby)
    ∧ (∀ left ∈ [true, false], let p := (powerAt fun p => { p with mode := .reset, porst := true, brown := left }).power;
        p.mode = .reset ∧ p.porst = true ∧ p.brown = left ∧ p.hot = false)
    ∧ (let p := (powerAt fun p => { p with
        mode := .standby, pwren := false, island := { p.island with standbyFlag := true } }).power;
      p.mode = .standby ∧ p.porst = false ∧ p.brown = false ∧ p.hot = false ∧ p.island.standbyFlag = true
        ∧ p.pwren = false ∧ p.wakeWaits = false)
    ∧ (let p := (powerAt fun p => { p with mode := .reset, brown := true }).power;
      p.brown = true ∧ p.porst = false ∧ p.hot = false)
    ∧ (let p := (powerAt fun p => { p with mode := .reset, hot := true }).power;
      p.hot = true ∧ p.porst = false ∧ p.brown = false)
    ∧ (∀ k ∈ [true, false], (powerAt fun p => { p with island := { p.island with keepValid := k } }).power.island.keepValid = k)
    ∧ (∀ n ∈ [(1 : BitVec 4), 2, 3, 4, 5, 6], let s := powerAt fun p => { p with mode := .boot, stage := n };
        s.power.mode = .boot ∧ s.power.error = 0 ∧ s.power.stage = n
          ∧ s.pool.retiredPlls ||| unlockedPlls [(6, 0)] ≠ 3 ∧ s.pool.retiredPlls ||| unlockedPlls [(6, 0), (6, 1)] = 3
          ∧ s.pool.retiredConverters ≠ 3 ∧ { s.pool with retiredConverters := 3 }.retiredConverters = 3)
    ∧ (base.ink.retired.getLsbD 67 = false ∧ base.ink.ledger.length < 128)
    ∧ (∀ m ∈ [PowerMode.sleep, .standby],
        let p := (powerAt fun p => { p with
          mode := m, pwren := false, wakeSeen := 2, lpcmp := 0x80
          island := { p.island with wakeSel := 3 } }).power;
        p.mode = m ∧ p.wakeSeen &&& p.island.wakeSel ≠ 0 ∧ p.island.wakeSel.getLsbD 0 = true ∧ p.pwren = false
          ∧ p.wakeWaits = false ∧ p.lpcmp.getLsbD 7 = true)
    ∧ (∀ c ∈ [(0 : ClassIx)], base.blotter.classes[c].level = 0
        ∧ base.blotter.classes[c].lastTb ≠ some base.time.tb) ∧ base.power.thermOver = false
    ∧ (let s := powerAt fun p => { p with mode := .sleep, wakeSeen := 2, island := { p.island with wakeSel := 2 } };
      let u : State := { s with time := { s.time with stopped := true } };
      u.quiet ∧ u.pending = [] ∧ u.time.stopped = true ∧ u.power.wakeSeen &&& u.power.island.wakeSel ≠ 0
        ∧ u.power.island.wakeSel.getLsbD 0 = false ∧ u.power.mode = .sleep ∧ base.power.mode ≠ .sleep)
    ∧ (7 < 8 ∧ base.power.vio.getLsbD 7 = true ∧ { base.power with vio := 0x7F }.vio.getLsbD 7 = false) := by
  refine ⟨⟨rfl, rfl, rfl, rfl, ?_⟩, ?_, ?_, ?_, ?_, ?_, ?_, ?_, ?_, ?_, ?_, ⟨rfl, rfl, ?_⟩, ?_⟩ <;> decide +kernel

/-- The start from Standby restores the EIC that the island kept. -/
theorem witness_PowerAndReset_restore :
    let s := powerAt fun p => { p with
      mode := .boot, stage := 6, standbyStart := true, island := { p.island with eic := some base.eic } };
    s.power.mode = .boot ∧ s.power.error = 0 ∧ 6 ≤ s.power.stage.toNat ∧ s.power.standbyStart = true
      ∧ s.power.safePin = false ∧ s.power.island.eic = some base.eic :=
  ⟨rfl, rfl, by decide, rfl, rfl, rfl⟩

/-- The link up and down, with a channel whose request is under way; legal and illegal widths and speeds. -/
theorem witness_PcieLink :
    base.quiet ∧ hosted.host.linkUp = true ∧ base.host.linkUp = false
    ∧ outstanding (dmaAt fun x => { x with state := .fetch, cur := 0x1000 }) 3 = some (0, false, 0x1000)
    ∧ ((hosted.power.mode = .up ∨ hosted.power.mode = .boot) ∧ hosted.host.perst = false
        ∧ ((4 : Fin 8) = 1 ∨ (4 : Fin 8) = 2 ∨ (4 : Fin 8) = 4) ∧ ((3 : Fin 8) = 1 ∨ (3 : Fin 8) = 2 ∨ (3 : Fin 8) = 3)
        ∧ (5 : Fin 8).val ≤ 5 ∧ ¬(6 : Fin 8).val ≤ 5)
    ∧ ¬((3 : Fin 8) = 1 ∨ (3 : Fin 8) = 2 ∨ (3 : Fin 8) = 4) :=
  ⟨rfl, rfl, rfl, by decide +kernel, by decide +kernel, by decide⟩

/-! Values that the spec works out. -/

/-- Chapter 08, the reject stroke: the words of compute cycles 4 and 6. -/
theorem test_reject_words :
    (let m := microOf 0x0000008428C38000000000000000000000000000;
      m.aop = 0x42 ∧ m.as1 = 5 ∧ m.as2 = 6 ∧ m.ad = 7 ∧ m.seq = 0 ∧ m.bop = 0 ∧ m.cop = 0)
    ∧ let m := microOf 0xB000000000000000000000000000000920000000;
      m.seq = 0xB ∧ m.cop = 1 ∧ m.cs = 9 ∧ m.aop = 0 := by decide +kernel

/-- Chapter 08, the reject stroke: the fire time, and the stroke. -/
theorem test_reject_time :
    (aluCompute .add .two 0x1DCD61F2C 0x8954400 0).1 = 0x1E56B632C
    ∧ (aluCompute .or .one 0x1E56B632C 0x14F0300303D090000000000000000000 0).1
        = 0x14F0300303D0900000000001E56B632C := by decide +kernel

/-- Chapter 03, after R82: the fit of an accelerating tracker. -/
theorem test_fit :
    let a := 119304647;
    (fitOf true [⟨11100000, a⟩, ⟨11150000, a⟩, ⟨11200000, a⟩]).map (fun f =>
      (roundUpHalf (fitTime f a), roundUpHalf (fitTime f 59652323))) = some (11050000, 5531250) := by decide +kernel

/-- Chapter 03, after R98: AT1 geared to AT0. -/
theorem test_gearing : gearPos { forceNum := 1, forceDen := 12, forceOfs := 0x10000000 } (BitVec.ofNat 80 (481 * 2 ^ 30))
    = BitVec.ofNat 80 (10 * 2 ^ 32 + 0x15555555) := by decide +kernel

/-- Chapter 06, after R184. -/
theorem test_speed : speedAt { base.channels[0] with
    counts := 21, lastCount := some (20, 1000488281), firstCount := some (0, 1000000000) } 1000500000
    = some 5242883 := by decide +kernel

/-- Chapter 06, after R188: the count of the emulator, and the time of micro-tick 164. -/
theorem test_emulator :
    (let m : Emulator := { lines := 2500 };
      emuCount m 268697600 = 625 ∧ emuCount m 268865536 = 626 ∧ emuCount m 268864512 = 625)
    ∧ (fitOf true (List.replicate 3 ⟨24414, 262144⟩)).map (fun f => roundUpHalf (fitTime f (164 * 262144 / 256 : Nat)))
        = some 15640 := by decide +kernel

/-- Chapter 10, after R279: the record of the lane-A jaw glyph. -/
theorem test_unit_record : unitRecAt [0x28, 0, 2, 0, 1, 1, 0xFF, 0xFF, 0, 0, 2, 0, 3, 0, 0x40, 0, 0x4A, 0x41, 0x57, 0x41, 0, 0,
    0, 0, 0, 0, 0, 0, 0, 0, 0, 0] 0
    = { unit := 40, parent := 2, kind := .glyph, uflags := 1, resource := 0xFFFF, leaf := 0, paramCount := 2, window := 3
        eicSrc := 64, name := 0x4157414A, typeData := 0 } := by decide +kernel

/-- Chapter 12, after R324: the host hands IK5 to Q3 and keeps its share. -/
theorem test_handover : handoverFor (withUnit (inkAt fun x => { x with gen := 1 }) .quill 3) 5 0x00010231
    = some { kind := .quill, quill := 3, shareHost := true } := by decide +kernel

/-- Chapter 13, after R348: the record of DC4. -/
theorem test_dma_record : Machine.recordOf 4 { cur := 0x123400000, seq := 0x137 }
    { ring := 2, status := .complete, count := 300, after := .next } true = 0x000001370400812C0000000123400000 := by
  decide +kernel

/-- Chapter 14, after the worked example: a claim with two arrivals counted. -/
theorem test_claim : (after (.eicClaim .sp 2 false) (srcAt fun y => { y with
    cfg := 0x42206, phase := .pending, arrivals := 2 })).readSp = 0x00020001 := by decide +kernel

/-- Chapter 16, after R402: ACK of class 19, which acts in the next cycle. -/
theorem test_ack :
    let s : State := { base with blotter := { base.blotter with
      classes := base.blotter.classes.map fun f => { f with level := 2, unack := true } } };
    (passTime (after (.blotterAck .sp 0x98) s) 1).blotter.classes.toList.map (·.unack)
      = (List.range 32).map (· != 19) := by decide +kernel

/-- Chapter 19, the worked addresses. -/
theorem test_addresses :
    placeOf 0x80F00 = some ⟨.nib, 60, 0⟩ ∧ placeOf 0x80B30 = some ⟨.nib, 44, 0x30⟩ ∧ placeOf 0x503A4 = some ⟨.track, 3, 0xA4⟩
    ∧ placeOf 0x100500 = some ⟨.ce, 40, 0⟩ ∧ placeOf 0x21110 = some ⟨.chan, 4, 0x10⟩
    ∧ placeOf 0x1040A00 = some ⟨.header, 40, 0⟩ ∧ placeOf 0x1803100 = some ⟨.window, 3, 0x100⟩
    ∧ spTarget 0x40050210 = some (.bar4 0x50210) ∧ spTarget 0x80002000 = some (.reg 0x80002000) := by decide +kernel

/-- FIPS 180-4, the hash of the message "abc" (log entry 6). -/
theorem test_sha256 : BitVec.ofNat 256 (leNat ((sha256 [0x61, 0x62, 0x63]).reverse))
    = 0xBA7816BF8F01CFEA414140DE5DAE2223B00361A396177A9CB410FF61F20015AD := by decide +kernel

end Sys2Proof.Tests
end

section
/-! The registers of a quill (R208): how a register reads, how a write is discarded or kept, and the flags that the end
of a word leaves. -/
namespace Sys2Proof.Machine

@[simp] theorem readReg_zero (e : Engine) : readReg e 0 = 0 := rfl

@[simp] theorem readReg_contextPointer (e : Engine) : readReg e 63 = 0x40000 := rfl

theorem readReg_of_general (e : Engine) {i : Fin 64} (h0 : i ≠ 0) (h63 : i ≠ 63) : readReg e i = e.g[i] := by
  rw [readReg, if_neg h0, if_neg h63]

theorem writeReg_of_discarded (e : Engine) {i : Fin 64} (h : i = 0 ∨ i = 63) (v : W128) : writeReg e i v = e :=
  if_pos h

theorem writeReg_g (e : Engine) {i : Fin 64} (h0 : i ≠ 0) (h63 : i ≠ 63) (v : W128) :
    (writeReg e i v).g = e.g.set i v := by
  rw [writeReg, if_neg (not_or.mpr ⟨h0, h63⟩)]

theorem readReg_writeReg_same (e : Engine) {i : Fin 64} (h0 : i ≠ 0) (h63 : i ≠ 63) (v : W128) :
    readReg (writeReg e i v) i = v := by
  rw [readReg_of_general _ h0 h63, writeReg_g e h0 h63]
  exact Vector.getElem_set_self i.isLt

theorem readReg_writeReg_of_ne (e : Engine) {i j : Fin 64} (h : i ≠ j) (v : W128) :
    readReg (writeReg e i v) j = readReg e j := by
  by_cases hi : i = 0 ∨ i = 63
  · rw [writeReg_of_discarded e hi]
  obtain ⟨hi0, hi63⟩ := not_or.mp hi
  by_cases h0 : j = 0
  · rw [h0, readReg_zero, readReg_zero]
  by_cases h63 : j = 63
  · rw [h63, readReg_contextPointer, readReg_contextPointer]
  rw [readReg_of_general _ h0 h63, readReg_of_general e h0 h63, writeReg_g e hi0 hi63]
  exact Vector.getElem_set_ne i.isLt j.isLt (Fin.val_ne_of_ne h)

/-- The flags are the word's own: no result that the end of the word writes, kept or discarded, has a part in them. -/
@[simp] theorem endWord_flagsA (e : Engine) : (endWord e).flagsA = e.newFlagsA.getD e.flagsA := rfl

@[simp] theorem endWord_flagsB (e : Engine) : (endWord e).flagsB = e.newFlagsB.getD e.flagsB := rfl

/-- Settles O17, from the rules of a register's read and write and of the flags at the end of a word. -/
theorem quillRegisters : Obligations.QuillRegisters := fun e _ _ v =>
  ⟨readReg_zero e, readReg_contextPointer e,
    fun h => writeReg_of_discarded e h v,
    fun h0 h63 => readReg_writeReg_same e h0 h63 v,
    fun h => readReg_writeReg_of_ne e h v,
    fun f h => by simp [h],
    fun f h => by simp [h]⟩

end Sys2Proof.Machine
end

section
/-! Commands that raise nothing end where their effect leaves them, and an access that reaches the device is its effect
alone (R432). -/
namespace Sys2Proof.Machine

theorem finish_of_within {ps : List Part} {s t : State} (hq : s.quiet) (h : Within ps s t) (hr : .raises ∉ ps) :
    finish t = .next t :=
  finish_of_quiet ((h .raises hr).symm.trans hq)

theorem afterTick_of_not_due {s : State} (h : tickDue s = false) : afterTick s = s := by
  simp [afterTick, h]

theorem busTransfer_of_calm {s : State} (h : s.calm) (inst : Nat) : busTransfer s inst = s := by
  obtain ⟨-, hinj, hbus, -⟩ := h
  simp [busTransfer, injects, hinj, hbus, tst]

theorem access_of_reaches {p : Path} {s : State} (h : Reaches p s) (f : State → State) : access s p f = f s := by
  obtain ⟨hcalm, hopen, hup, hdue⟩ := h
  simp [access, reach, regTransfer, hopen, hup, afterTick_of_not_due hdue, busTransfer_of_calm hcalm]

end Sys2Proof.Machine
end

section
/-! What R362 counts: ARRIVALS of every source and SAT_COUNT. Only `countArrival` moves it for a source that is not
idle; offers, messages and the groups of R366 leave it as it is. -/
namespace Sys2Proof.Machine

/-- ARRIVALS of every source, and SAT_COUNT. -/
def arrivalTally (s : State) : Vector (BitVec 8) 1024 × BitVec 16 := (s.eic.sources.map (·.arrivals), s.eic.satCount)

theorem arrivalTally_modEic (s : State) {f : Eic → Eic} (hs : (f s.eic).sources = s.eic.sources)
    (hc : (f s.eic).satCount = s.eic.satCount) : arrivalTally (modEic s f) = arrivalTally s := by
  simp only [arrivalTally, modEic_eic, hs, hc]

theorem arrivalTally_modSource (s : State) (x : SrcIx) {f : EicSource → EicSource}
    (h : (f s.eic.sources[x]).arrivals = s.eic.sources[x].arrivals) :
    arrivalTally (modSource s x f) = arrivalTally s :=
  congrArg (·, s.eic.satCount) (map_modifyAt _ _ _ _ h)

theorem arrivalTally_forAll {α : Type} (l : List α) (s : State) {f : State → α → State}
    (h : ∀ u a, arrivalTally (f u a) = arrivalTally u) : arrivalTally (forAll l s f) = arrivalTally s := by
  unfold forAll
  induction l generalizing s with
  | nil => rfl
  | cons a l ih => exact (ih (f s a)).trans (h s a)

theorem arrivalTally_putSource (s : State) (x : SrcIx) {y : EicSource}
    (h : y.arrivals = s.eic.sources[x].arrivals) : arrivalTally (putSource s x y) = arrivalTally s := by
  unfold putSource
  refine (arrivalTally_forAll _ _ fun u k => ?_).trans (arrivalTally_modSource s x h)
  dsimp only
  split <;> rfl

theorem arrivalTally_releaseGroup (s : State) (g : Fin 64) : arrivalTally (releaseGroup s g) = arrivalTally s := by
  unfold releaseGroup
  refine arrivalTally_forAll _ _ fun u x => ?_
  dsimp only
  split
  · exact arrivalTally_putSource u x rfl
  · rfl

theorem arrivalTally_groupArrival (s : State) (g : Fin 64) : arrivalTally (groupArrival s g) = arrivalTally s := by
  unfold groupArrival
  dsimp only
  split
  · exact arrivalTally_releaseGroup _ g
  · rfl

/-- R362: from `s` to `t` one arrival of the source is counted, in ARRIVALS or, where that is 255, in SAT_COUNT. -/
def CountsArrival (s : State) (x : SrcIx) (t : State) : Prop :=
  if s.eic.sources[x].arrivals = 255
  then t.eic.sources[x].arrivals = 255 ∧ t.eic.satCount = satAdd s.eic.satCount 1
  else t.eic.sources[x].arrivals = s.eic.sources[x].arrivals + 1 ∧ t.eic.satCount = s.eic.satCount

theorem arrivals_eq_of_tally {s t : State} (h : arrivalTally t = arrivalTally s) (x : SrcIx) :
    t.eic.sources[x].arrivals = s.eic.sources[x].arrivals := by
  have hx := congrArg (fun a => a.1[x]) h
  simpa [arrivalTally] using hx

theorem satCount_eq_of_tally {s t : State} (h : arrivalTally t = arrivalTally s) : t.eic.satCount = s.eic.satCount :=
  congrArg (·.2) h

/-- What leaves the tally as it is may come before and after the arrival. -/
theorem CountsArrival.of_tally {s s' t t' : State} {x : SrcIx} (hs : arrivalTally s' = arrivalTally s)
    (ht : arrivalTally t' = arrivalTally t) (h : CountsArrival s' x t) : CountsArrival s x t' := by
  unfold CountsArrival at *
  rwa [arrivals_eq_of_tally ht, satCount_eq_of_tally ht, ← arrivals_eq_of_tally hs, ← satCount_eq_of_tally hs]

theorem countArrival_counts (s : State) (x : SrcIx) : CountsArrival s x (countArrival s x) := by
  by_cases h : s.eic.sources[x].arrivals = 255
  · rw [CountsArrival, countArrival, if_pos h, if_pos h]
    exact ⟨h, rfl⟩
  · rw [CountsArrival, countArrival, if_neg h, if_neg h]
    exact ⟨congrArg EicSource.arrivals (modifyAt_same _ _ _), rfl⟩

/-- A source that takes arrivals and is not idle: one more is counted, whatever its group does on it. -/
theorem arrive_counts {s : State} {x : SrcIx} (hx : isSource x = true) (hen : srcEn s.eic.sources[x] = true)
    (hph : s.eic.sources[x].phase ≠ .idle) (byWrite : Bool) : CountsArrival s x (arrive s x byWrite) := by
  have hcount := countArrival_counts s x
  have htakes : (!srcEn s.eic.sources[x] || x.val == 0 || x.val == 1023) = false := by
    rw [hen]
    simpa [isSource] using hx
  unfold arrive
  simp only [htakes]
  cases hp : s.eic.sources[x].phase with
  | idle => exact absurd hp hph
  | active => exact hcount
  | pending =>
    cases s.eic.sources[x].held with
    | false => exact hcount
    | true => exact hcount.of_tally rfl (arrivalTally_groupArrival _ _)

theorem takeArrival_counts {s : State} {x : SrcIx} (hx : isSource x = true) (hen : srcEn s.eic.sources[x] = true)
    (hph : s.eic.sources[x].phase ≠ .idle) : CountsArrival s x (takeArrival s x) := by
  unfold takeArrival
  split
  · have hsrc : (modSource s x fun y => { y with input := true }).eic.sources[x]
        = { s.eic.sources[x] with input := true } := modifyAt_same _ _ _
    refine .of_tally ?_ rfl (arrive_counts hx ?_ ?_ false)
    · exact arrivalTally_modSource s x rfl
    · rw [hsrc]; exact hen
    · rw [hsrc]; exact hph
  · refine .of_tally ?_ rfl (arrive_counts hx ?_ ?_ false)
    · exact arrivalTally_modEic s rfl rfl
    · exact hen
    · exact hph

/-- R360: the arrival of a cause or of a level input, with the EIC listening. -/
theorem exec_eicArrival {s : State} {x : SrcIx} (hq : s.quiet) (hup : s.power.mode = .up)
    (hdue : arrivalDue s x = true) : exec (.eicArrival x) s = .next (takeArrival s x) := by
  show finish (if eicListens s && arrivalDue s x then takeArrival s x else s) = _
  rw [if_pos (by simp [eicListens, hup, hdue]), finish_of_within hq (takeArrival_within s x) (by decide)]

/-- R361: a write of PENDING that reaches the EIC is an arrival. -/
theorem exec_srcPendingWrite {s : State} {p : Path} (h : Reaches p s) (x : SrcIx) :
    exec (.srcPendingWrite p x) s = .next (arrive s x true) := by
  have ⟨⟨hq, _⟩, _⟩ := h
  show finish (access s p fun s => arrive s x true) = _
  rw [access_of_reaches h, finish_of_within hq (arrive_within s x true) (by decide)]

/-- Settles O55: an arrival by each of its three ways is one `countArrival`, with the tally left alone around it. -/
theorem arrivalsSaturate : Obligations.ArrivalsSaturate := fun s x hx hen hph =>
  ⟨arrive_counts hx hen hph,
    fun hq hup hdue => ⟨takeArrival s x, exec_eicArrival hq hup hdue, takeArrival_counts hx hen hph⟩,
    fun _ hreach => ⟨arrive s x true, exec_srcPendingWrite hreach x, arrive_counts hx hen hph true⟩⟩

end Sys2Proof.Machine
end
